-- ==== Sys2Proof/Word.lean ====
section
/-!
DEFINITION. The word types of the Kweust L8 and their plainest arithmetic.
-/

namespace Sys2Proof

/-- One byte of memory. -/
abbrev Byte := BitVec 8

/-- A 32-bit vector register, constant word or lane PC (R38, R41). -/
abbrev Word := BitVec 32

/-- A 64-bit register pair, uniform register or virtual address (R4, R38). -/
abbrev DWord := BitVec 64

/-- Bits `lo + n - 1 : lo` of a natural number (R4). -/
def bitsAt (w lo n : Nat) : BitVec n := BitVec.ofNat n (w >>> lo)

/-- Bit `k` of a natural number (R4). -/
def bitAt (w k : Nat) : Bool := w.testBit k

/-- A truth value as the number 0 or 1. -/
def bit (b : Bool) : Nat := if b then 1 else 0

/-- A bit vector read as bytes, the lowest first (R4). -/
def leBytes (n : Nat) (x : Nat) : List Byte :=
  (List.range n).map fun i => BitVec.ofNat 8 (x >>> (8 * i))

/-- The number whose bytes, the lowest first, are the list (R4). -/
def ofLeBytes : List Byte → Nat
  | [] => 0
  | b :: bs => b.toNat + 256 * ofLeBytes bs

/-- A register pair from its low and high halves (R4). -/
def pairOf (lo hi : Word) : DWord := hi ++ lo

/-- The low half of a pair (R4). -/
def loWord (x : DWord) : Word := x.extractLsb' 0 32

/-- The high half of a pair (R4). -/
def hiWord (x : DWord) : Word := x.extractLsb' 32 32

end Sys2Proof
end

