-- ==== Sys2Proof/Machine/Formats.lean ====
section
/-!
DEFINITION. The element formats of the Kweust L8 by their codes (R51, R56, R220) and the system registers by their
numbers (R44, R364, R375, R396, R425).
-/

namespace Sys2Proof

/-- An element format (R56): a narrow float of width `k` and precision `p` (R57), the IEEE formats, the scale .x8,
an integer, or raw bits. -/
inductive Fmt where
  | narrow (k p : Nat) (signed inf : Bool)
  | f32
  | f16
  | bf16
  | x8
  | int (w : Nat) (signed : Bool)
  | raw (w : Nat)
deriving DecidableEq, Repr

/-- The format of a code of R51; `none` for 0x38 to 0x3F. -/
def fmtOfCode (c : BitVec 6) : Option Fmt :=
  let n := c.toNat
  if n < 0x1C then some (.narrow 8 (n / 4 + 1) (n % 4 < 2) (n % 2 == 1))
  else if n < 0x28 then some (.narrow 4 ((n - 0x1C) / 4 + 1) (n % 4 < 2) (n % 2 == 1))
  else match n with
    | 0x28 => some .f32
    | 0x29 => some .f16
    | 0x2A => some .bf16
    | 0x2B => some .x8
    | 0x2C => some (.int 4 true)
    | 0x2D => some (.int 8 true)
    | 0x2E => some (.int 16 true)
    | 0x2F => some (.int 32 true)
    | 0x30 => some (.int 64 true)
    | 0x31 => some (.int 4 false)
    | 0x32 => some (.int 8 false)
    | 0x33 => some (.int 16 false)
    | 0x34 => some (.int 32 false)
    | 0x35 => some (.int 64 false)
    | 0x36 => some (.raw 32)
    | 0x37 => some (.raw 64)
    | _ => none

/-- The bits of one element (R95). -/
def fmtWidth : Fmt → Nat
  | .narrow k _ _ _ => k
  | .f32 => 32
  | .f16 => 16
  | .bf16 => 16
  | .x8 => 8
  | .int w _ => w
  | .raw w => w

/-- Whether the format is a float; .x8 counts as one (R62, R95). -/
def fmtIsFloat : Fmt → Bool
  | .int _ _ => false
  | .raw _ => false
  | _ => true

/-- Whether the format is an integer. -/
def fmtIsInt : Fmt → Bool
  | .int _ _ => true
  | _ => false

/-- A matrix operand format of R220: floats and integers of 4 and 8 bits, .f16 and .bf16. -/
def fmtIsMatrix : Fmt → Bool
  | .narrow _ _ _ _ => true
  | .f16 => true
  | .bf16 => true
  | .int 4 _ => true
  | .int 8 _ => true
  | _ => false

/-- The 8-bit class of R220. -/
def fmtIsMatrix8 : Fmt → Bool
  | .narrow 8 _ _ _ => true
  | .int 8 _ => true
  | _ => false

/-- A narrow float, the only formats that may be block-scaled (R219). -/
def fmtIsNarrow : Fmt → Bool
  | .narrow _ _ _ _ => true
  | _ => false

/-- Destination formats of a drain (R226). -/
def fmtIsDrain : Fmt → Bool
  | .f32 => true
  | .int 16 _ => true
  | .int 32 _ => true
  | f => fmtIsMatrix f

/-- Element formats of a Fount handle (R235). -/
def fmtIsFount (f : Fmt) : Bool := fmtIsDrain f

/-- How a system register may be used (R44): its width in bits, whether it is privileged, and whether it can be
written (`ro` false) and read back (`wo` false). -/
structure SysInfo where
  width : Nat
  priv : Bool
  ro : Bool
  wo : Bool
deriving DecidableEq, Repr

/-- The system registers the spec assigns, by number; `none` for every other number (R44). -/
def sysInfo (n : Nat) : Option SysInfo :=
  if 0x100 ≤ n ∧ n ≤ 0x109 then some ⟨64, true, false, false⟩
  else if n = 0x110 then some ⟨32, false, false, false⟩
  else if 0x140 ≤ n ∧ n ≤ 0x143 then some ⟨32, true, true, false⟩
  else if n = 0x144 ∨ n = 0x145 then some ⟨64, true, true, false⟩
  else if n = 0x146 then some ⟨64, true, false, false⟩
  else if 0x147 ≤ n ∧ n ≤ 0x14B then some ⟨32, true, false, false⟩
  else if 0x150 ≤ n ∧ n ≤ 0x15F then some ⟨64, true, false, false⟩
  else if n = 0x180 then some ⟨64, true, true, false⟩
  else if 0x181 ≤ n ∧ n ≤ 0x185 then some ⟨32, true, false, false⟩
  else if 0x186 ≤ n ∧ n ≤ 0x18B then some ⟨64, true, false, true⟩
  else if n = 0x190 then some ⟨64, true, false, true⟩
  else if 0x1A0 ≤ n ∧ n ≤ 0x1AC then some ⟨64, true, false, false⟩
  else if 0x1B0 ≤ n ∧ n ≤ 0x1B7 then some ⟨32, true, false, false⟩
  else if 0x1B8 ≤ n ∧ n ≤ 0x1BF then some ⟨64, true, false, false⟩
  else none

end Sys2Proof
end

