-- ==== Sys2Proof/Syntax.lean ====
section
/-!
DEFINITION. Syntax of UQK: one constructor of `Instr` for each row of spec/opcode_table.json, instructions and events.
Each instruction constructor carries one form structure that holds exactly the fields of the encoding (02_encoding.md,
R28 to R51) that have an effect; fields the spec calls ignored are not held.
-/

namespace Sys2Proof

/-- The guard of a long word (R29, R30): sense `gs` and predicate `gp`. -/
structure Guard where
  gs : Bool
  gp : BitVec 5
deriving DecidableEq, Repr

/-- The unconditional guard: field value 0 (R30). -/
def Guard.always : Guard := { gs := false, gp := 0 }

/-- The modifier word (R35), its reserved bits left out. -/
structure Mod where
  wb : Bool
  wa : Bool
  qf : Bool
  rnd : BitVec 3
  scl : BitVec 7
  absc : Bool
  negc : Bool
  absb : Bool
  negb : Bool
  absa : Bool
  nega : Bool
  clmp : BitVec 2
  sat : Bool
deriving DecidableEq, Repr

/-- The modifier word whose every field is 0. -/
def Mod.zero : Mod :=
  { wb := false, wa := false, qf := false, rnd := 0, scl := 0, absc := false, negc := false, absb := false,
    negb := false, absa := false, nega := false, clmp := 0, sat := false }

/-- Short form (R28): second source s, destination and first source d. -/
structure ShortF where
  s : BitVec 5
  d : BitVec 6
deriving DecidableEq, Repr

/-- Format A (R33): destination d, sources a and b. -/
structure AForm where
  m : Option Mod
  g : Guard
  d : BitVec 6
  a : BitVec 6
  b : BitVec 6
deriving DecidableEq, Repr

/-- Compare in format A (R85, R92): condition c = bit 18 then var, predicate p. -/
structure CmpForm where
  m : Option Mod
  g : Guard
  c : BitVec 2
  p : BitVec 5
  a : BitVec 6
  b : BitVec 6
deriving DecidableEq, Repr

/-- Format I2 (R33): signed 13-bit immediate. -/
structure MoviForm where
  m : Option Mod
  g : Guard
  d : BitVec 6
  imm : BitVec 13
deriving DecidableEq, Repr

/-- Format I1 (R33): signed 7-bit immediate. -/
structure ImmForm where
  m : Option Mod
  g : Guard
  d : BitVec 6
  a : BitVec 6
  imm : BitVec 7
deriving DecidableEq, Repr

/-- Format AU (R33): uniform registers d and a, and b (s0 to s31). -/
structure UForm where
  m : Option Mod
  g : Guard
  d : BitVec 6
  a : BitVec 6
  b : BitVec 5
deriving DecidableEq, Repr

/-- UCMP (R100): lt is bit 18, p the predicate. -/
structure UCmpForm where
  m : Option Mod
  g : Guard
  lt : Bool
  p : BitVec 5
  a : BitVec 6
  b : BitVec 5
deriving DecidableEq, Repr

/-- Format F (R33) with a destination and one source. -/
structure DAForm where
  m : Option Mod
  g : Guard
  d : BitVec 6
  a : BitVec 6
deriving DecidableEq, Repr

/-- Conversions (R51, R95): element position and the two format codes of the constant word. -/
structure CvtForm where
  m : Option Mod
  g : Guard
  d : BitVec 6
  a : BitVec 6
  pos : BitVec 4
  dst : BitVec 6
  src : BitVec 6
deriving DecidableEq, Repr

/-- Shuffles (R102) with the 5-bit immediate of the function field. -/
structure ShflForm where
  m : Option Mod
  g : Guard
  d : BitVec 6
  a : BitVec 6
  k : BitVec 5
deriving DecidableEq, Repr

/-- Quad functions (R102): k is the low two bits of the function field. -/
structure QuadForm where
  m : Option Mod
  g : Guard
  d : BitVec 6
  a : BitVec 6
  k : BitVec 2
deriving DecidableEq, Repr

/-- VOTE (R103): predicates d and a. -/
structure VoteForm where
  m : Option Mod
  g : Guard
  d : BitVec 5
  a : BitVec 5
deriving DecidableEq, Repr

/-- BALLOT (R103): vector d, predicate a. -/
structure BallotForm where
  m : Option Mod
  g : Guard
  d : BitVec 6
  a : BitVec 5
deriving DecidableEq, Repr

/-- ISECT (R108): predicate p in the function field. -/
structure IsectForm where
  m : Option Mod
  g : Guard
  p : BitVec 5
  d : BitVec 6
  a : BitVec 6
deriving DecidableEq, Repr

/-- Predicate logic (R98). -/
structure PForm where
  m : Option Mod
  g : Guard
  d : BitVec 5
  a : BitVec 5
  b : BitVec 5
deriving DecidableEq, Repr

/-- Format M (R33, R48) without displacement. -/
structure MemForm where
  m : Option Mod
  g : Guard
  d : BitVec 6
  b : BitVec 6
  size : BitVec 2
  order : BitVec 2
  scope : BitVec 3
deriving DecidableEq, Repr

/-- Format M (R33, R48) with the displacement of the constant word. -/
structure MemDForm where
  m : Option Mod
  g : Guard
  d : BitVec 6
  b : BitVec 6
  size : BitVec 2
  order : BitVec 2
  scope : BitVec 3
  disp : BitVec 32
deriving DecidableEq, Repr

/-- ATOM (R49) other than CAS. -/
structure AtomForm where
  m : Option Mod
  g : Guard
  d : BitVec 6
  b : BitVec 6
  size : BitVec 2
  order : BitVec 2
  scope : BitVec 3
  val : BitVec 6
  u : Bool
  op : BitVec 4
deriving DecidableEq, Repr

/-- ATOM with the CAS operation (R49). -/
structure CasForm where
  m : Option Mod
  g : Guard
  d : BitVec 6
  b : BitVec 6
  size : BitVec 2
  order : BitVec 2
  scope : BitVec 3
  val : BitVec 6
  cmp : BitVec 6
deriving DecidableEq, Repr

/-- RED (R49). -/
structure RedForm where
  m : Option Mod
  g : Guard
  d : BitVec 6
  b : BitVec 6
  size : BitVec 2
  order : BitVec 2
  scope : BitVec 3
  u : Bool
  op : BitVec 4
deriving DecidableEq, Repr

/-- FENCE and FENCE .sc (R154, R155). -/
structure FenceForm where
  m : Option Mod
  g : Guard
  scope : BitVec 3
deriving DecidableEq, Repr

/-- FENCEX (R156): producing path p, consuming path q. -/
structure FencexForm where
  m : Option Mod
  g : Guard
  scope : BitVec 3
  p : BitVec 3
  q : BitVec 3
deriving DecidableEq, Repr

/-- PREF (R157). -/
structure PrefForm where
  m : Option Mod
  g : Guard
  level : BitVec 2
  b : BitVec 6
deriving DecidableEq, Repr

/-- CWB (R158). -/
structure CwbForm where
  m : Option Mod
  g : Guard
  scope : BitVec 3
  b : BitVec 6
deriving DecidableEq, Repr

/-- CINV (R158). -/
structure CinvForm where
  m : Option Mod
  g : Guard
  b : BitVec 6
deriving DecidableEq, Repr

/-- CASEMODE, FPUSH and FPOP (R160, R161): d is the data field. -/
structure CaseForm where
  m : Option Mod
  g : Guard
  d : BitVec 6
  b : BitVec 6
deriving DecidableEq, Repr

/-- Format B (R33): signed halfword offset. -/
structure BForm where
  g : Guard
  off : BitVec 19
deriving DecidableEq, Repr

/-- Format BR (R33): register field and signed halfword offset. -/
structure BrForm where
  g : Guard
  r : BitVec 6
  off : BitVec 13
deriving DecidableEq, Repr

/-- Only a guard is used. -/
structure GForm where
  g : Guard
deriving DecidableEq, Repr

/-- A guard and the a field. -/
structure GAForm where
  g : Guard
  a : BitVec 6
deriving DecidableEq, Repr

/-- A guard and the d field. -/
structure GDForm where
  g : Guard
  d : BitVec 6
deriving DecidableEq, Repr

/-- A guard, d and a. -/
structure GDAForm where
  g : Guard
  d : BitVec 6
  a : BitVec 6
deriving DecidableEq, Repr

/-- BKPT and TRAP (R131): the 6-bit code. -/
structure CodeForm where
  g : Guard
  code : BitVec 6
deriving DecidableEq, Repr

/-- MZERO (R225): the tile. -/
structure TileForm where
  g : Guard
  tile : BitVec 2
deriving DecidableEq, Repr

/-- FETCH and FETCHC (R234): handle slot h. -/
structure FetchForm where
  g : Guard
  d : BitVec 6
  a : BitVec 6
  h : BitVec 6
deriving DecidableEq, Repr

/-- Format E (R33) as HBIND and IMPOSE use it. -/
structure HbindForm where
  g : Guard
  e1 : BitVec 6
  e2 : BitVec 6
  e3 : BitVec 6
deriving DecidableEq, Repr

/-- BARA (R47, R164): level and barrier number. -/
structure BarForm where
  g : Guard
  level : BitVec 2
  num : BitVec 4
deriving DecidableEq, Repr

/-- BARW with its .mx bit (R164, R167). -/
structure BarwForm where
  g : Guard
  mx : Bool
  level : BitVec 2
  num : BitVec 4
deriving DecidableEq, Repr

/-- BARS with its predicate (R165). -/
structure BarsForm where
  g : Guard
  level : BitVec 2
  num : BitVec 4
  p : BitVec 5
deriving DecidableEq, Repr

/-- BARC with its uniform register (R166). -/
structure BarcForm where
  g : Guard
  level : BitVec 2
  num : BitVec 4
  s : BitVec 6
deriving DecidableEq, Repr

/-- TBEGIN (R181): signed halfword offset of the abort path. -/
structure TbeginForm where
  g : Guard
  off : BitVec 13
deriving DecidableEq, Repr

/-- SPBEGIN (R189): iteration register n, record pair b. -/
structure SpbeginForm where
  g : Guard
  n : BitVec 6
  b : BitVec 6
deriving DecidableEq, Repr

/-- LDV and STV (R50, R195). -/
structure ImpForm where
  g : Guard
  d : BitVec 6
  b : BitVec 6
  size : BitVec 2
  n : BitVec 6
deriving DecidableEq, Repr

/-- SEALV, FLOORV and VPROBE (R50, R195). -/
structure SealForm where
  g : Guard
  d : BitVec 6
  b : BitVec 6
  n : BitVec 6
deriving DecidableEq, Repr

/-- LIGA (R199): uniform destination d, operand pair a, signed halfword offset of the helper entry. -/
structure LigaForm where
  g : Guard
  d : BitVec 6
  a : BitVec 6
  off : BitVec 32
deriving DecidableEq, Repr

/-- LIGNXT (R202). -/
structure LignxtForm where
  g : Guard
  p : BitVec 5
  d : BitVec 6
deriving DecidableEq, Repr

/-- LIGX (R203): type bit ty (f32) and reduction op. -/
structure LigxForm where
  g : Guard
  ty : Bool
  op : BitVec 2
  d : BitVec 6
  a : BitVec 6
deriving DecidableEq, Repr

/-- SREAD (R42): special register s. -/
structure SreadForm where
  g : Guard
  d : BitVec 6
  s : BitVec 8
deriving DecidableEq, Repr

/-- SYSR (R133): system register s. -/
structure SysrForm where
  g : Guard
  d : BitVec 6
  s : BitVec 13
deriving DecidableEq, Repr

/-- SYSW (R134): system register s, source a. -/
structure SyswForm where
  g : Guard
  a : BitVec 6
  s : BitVec 13
deriving DecidableEq, Repr

/-- SYSW to sys.heapbase, sys.heaplim or sys.heapoff (which = 0, 1, 2). -/
structure HeapForm where
  g : Guard
  a : BitVec 6
  which : BitVec 2
deriving DecidableEq, Repr

/-- LIK (R83): the 32-bit constant. -/
structure LikForm where
  g : Guard
  d : BitVec 6
  k : BitVec 32
deriving DecidableEq, Repr

/-- MLOAD (R219): operand word fields. -/
structure MloadForm where
  g : Guard
  e1 : BitVec 6
  fmt : BitVec 6
  sc : Bool
  vb : BitVec 6
  bs : BitVec 4
deriving DecidableEq, Repr

/-- MLOADS (R219, R222). -/
structure MloadsForm where
  g : Guard
  e1 : BitVec 6
  e2 : BitVec 6
  fmt : BitVec 6
  sc : Bool
  vb : BitVec 6
  bs : BitVec 4
deriving DecidableEq, Repr

/-- MSTREAM (R219, R223). -/
structure MstreamForm where
  g : Guard
  e1 : BitVec 6
  e2 : BitVec 6
  fmt : BitVec 6
  sc : Bool
  vb : BitVec 6
  bs : BitVec 4
  tile : BitVec 2
  sat : Bool
  swap : Bool
  win : Bool
deriving DecidableEq, Repr

/-- MSTREAMS (R219, R223). -/
structure MstreamsForm where
  g : Guard
  e1 : BitVec 6
  e2 : BitVec 6
  e3 : BitVec 6
  fmt : BitVec 6
  sc : Bool
  vb : BitVec 6
  bs : BitVec 4
  tile : BitVec 2
  sat : Bool
  swap : Bool
  win : Bool
deriving DecidableEq, Repr

/-- MDRAIN (R226). -/
structure MdrainForm where
  g : Guard
  e1 : BitVec 6
  e2 : BitVec 6
  e3 : BitVec 6
  dfmt : BitVec 6
  rfmt : BitVec 6
  res : Bool
  tile : BitVec 2
  rnd : BitVec 3
  sat : Bool
  zr : Bool
  it : Bool
deriving DecidableEq, Repr

/-- Where an asynchronous error came from (R379): the launch site of the access or command. -/
structure AsyncSite where
  queue : BitVec 6
  code : BitVec 8
  pc : Word
  seq : Word
  va : DWord
  block : Word
  core : BitVec 16
  grp : BitVec 8
deriving DecidableEq, Repr

/-- What the host keeps of a line it reads (R405): nothing, a shared copy, or a copy it may modify. -/
inductive HostKeep where
  | nothing
  | shared
  | mayModify
deriving DecidableEq, Repr

/-- A peer's access to this device's HBM (R411, R293): a read, a write, or an atomic operation of R150. -/
inductive PeerReq where
  | read (pa : Nat) (len : Nat)
  | write (pa : Nat) (bytes : List Byte)
  | atomic (pa : Nat) (size : BitVec 2) (op : BitVec 4) (u : Bool) (x : DWord) (c : DWord)
deriving DecidableEq, Repr

/-- Where the host has staged a boot image in device HBM (R438): its address and its length. -/
structure StagedImage where
  pa : Nat
  len : Nat
deriving DecidableEq, Repr

/-- The instructions of the opcode table, in its order, then its events, those the device's own schedule names first. -/
inductive Instr where
  /-- MOV_SHORT R28. Short form of MOV: V[d] := V[s]; the word 0x0000 writes nothing. -/
  | movShort (f : ShortF)
  /-- IADD_SHORT R28. Short form of 32-bit IADD with d as destination and first source. -/
  | iaddShort (f : ShortF)
  /-- ISUB_SHORT R28. Short form of 32-bit ISUB. -/
  | isubShort (f : ShortF)
  /-- IMUL_SHORT R28. Short form of 32-bit IMUL. -/
  | imulShort (f : ShortF)
  /-- AND_SHORT R28. Short form of AND. -/
  | andShort (f : ShortF)
  /-- OR_SHORT R28. Short form of OR. -/
  | orShort (f : ShortF)
  /-- XOR_SHORT R28. Short form of XOR. -/
  | xorShort (f : ShortF)
  /-- SHL_SHORT R28. Short form of SHL. -/
  | shlShort (f : ShortF)
  /-- SHR_SHORT R28. Short form of SHR. -/
  | shrShort (f : ShortF)
  /-- SAR_SHORT R28. Short form of SAR. -/
  | sarShort (f : ShortF)
  /-- IMIN_SHORT R28. Short form of signed IMIN. -/
  | iminShort (f : ShortF)
  /-- IMAX_SHORT R28. Short form of signed IMAX. -/
  | imaxShort (f : ShortF)
  /-- FADD_SHORT R28. Short form of FADD under .rn. -/
  | faddShort (f : ShortF)
  /-- FSUB_SHORT R28. Short form of FSUB under .rn. -/
  | fsubShort (f : ShortF)
  /-- FMUL_SHORT R28. Short form of FMUL under .rn. -/
  | fmulShort (f : ShortF)
  /-- FMAX_SHORT R28. Short form of FMAX. -/
  | fmaxShort (f : ShortF)
  /-- IADD R82. 32-bit signed add per executing lane, wrapping or saturating. -/
  | iadd (f : AForm)
  /-- IADD_I64 R82. 64-bit add of register pairs. -/
  | iaddI64 (f : AForm)
  /-- ISUB R82. 32-bit subtract. -/
  | isub (f : AForm)
  /-- ISUB_I64 R82. 64-bit subtract of pairs. -/
  | isubI64 (f : AForm)
  /-- IMUL R82. Low 32 bits of a signed product. -/
  | imul (f : AForm)
  /-- IMUL_I64 R82. Low 64 bits of a product of pairs. -/
  | imulI64 (f : AForm)
  /-- IMULH R82. High 32 bits of a signed product. -/
  | imulh (f : AForm)
  /-- IMULH_Z32 R82. High 32 bits of an unsigned product. -/
  | imulhZ32 (f : AForm)
  /-- IMAD R82. 32-bit multiply-add into V[d]. -/
  | imad (f : AForm)
  /-- IMAD_Z64 R82. Unsigned 32x32 product added to the pair d. -/
  | imadZ64 (f : AForm)
  /-- IMIN R82. Signed minimum. -/
  | imin (f : AForm)
  /-- IMIN_Z32 R82. Unsigned minimum. -/
  | iminZ32 (f : AForm)
  /-- IMAX R82. Signed maximum. -/
  | imax (f : AForm)
  /-- IMAX_Z32 R82. Unsigned maximum. -/
  | imaxZ32 (f : AForm)
  /-- ICMP R85. Signed compare of two registers into a predicate. -/
  | icmp (f : CmpForm)
  /-- ICMP_Z32 R85. Unsigned compare into a predicate. -/
  | icmpZ32 (f : CmpForm)
  /-- SEL R86. Selects V[a] or V[b] per lane by the guard predicate. -/
  | sel (f : AForm)
  /-- SEL_B64 R86. Selects between register pairs by the guard. -/
  | selB64 (f : AForm)
  /-- LEA R84. 64-bit address plus sign-extended 32-bit offset. -/
  | lea (f : AForm)
  /-- LEA_Z32 R84. 64-bit address plus zero-extended 32-bit offset. -/
  | leaZ32 (f : AForm)
  /-- AND R87. Bitwise AND. -/
  | and (f : AForm)
  /-- ANDN R87. Bitwise AND with complement of V[b]. -/
  | andn (f : AForm)
  /-- OR R87. Bitwise OR. -/
  | or (f : AForm)
  /-- XOR R87. Bitwise XOR. -/
  | xor (f : AForm)
  /-- SHL R88. Logical shift left by bits 7:0 of V[b]. -/
  | shl (f : AForm)
  /-- SHR R88. Logical shift right. -/
  | shr (f : AForm)
  /-- SAR R88. Arithmetic shift right. -/
  | sar (f : AForm)
  /-- ROT R88. Rotate left by n mod 32. -/
  | rot (f : AForm)
  /-- BFX R89. Extracts a bit field zero-extended. -/
  | bfx (f : AForm)
  /-- BFX_I32 R89. Extracts a bit field sign-extended. -/
  | bfxI32 (f : AForm)
  /-- BFI R89. Inserts the low bits of V[a] into a field of V[d]. -/
  | bfi (f : AForm)
  /-- FADD R91. binary32 add with modifier steps and rounding. -/
  | fadd (f : AForm)
  /-- FSUB R91. binary32 subtract. -/
  | fsub (f : AForm)
  /-- FMUL R91. binary32 multiply. -/
  | fmul (f : AForm)
  /-- FFMA R91. binary32 fused multiply-add into V[d], rounded once. -/
  | ffma (f : AForm)
  /-- FMIN R59. binary32 minimum with NaN rules. -/
  | fmin (f : AForm)
  /-- FMAX R59. binary32 maximum with NaN rules. -/
  | fmax (f : AForm)
  /-- FCMP R92. binary32 compare into a predicate. -/
  | fcmp (f : CmpForm)
  /-- HADD2 R94. Adds two binary16 pairs. -/
  | hadd2 (f : AForm)
  /-- HMUL2 R94. Multiplies two binary16 pairs. -/
  | hmul2 (f : AForm)
  /-- HFMA2 R94. Fused multiply-add on binary16 pairs. -/
  | hfma2 (f : AForm)
  /-- MOVI R83. Writes a sign-extended 13-bit immediate. -/
  | movi (f : MoviForm)
  /-- IADD_IMM R82. Adds a sign-extended 7-bit immediate. -/
  | iaddImm (f : ImmForm)
  /-- UADD R99. 64-bit uniform add, once for the group. -/
  | uadd (f : UForm)
  /-- USUB R99. 64-bit uniform subtract. -/
  | usub (f : UForm)
  /-- UMUL R99. Low 64 bits of a uniform product. -/
  | umul (f : UForm)
  /-- UAND R99. Uniform AND. -/
  | uand (f : UForm)
  /-- UOR R99. Uniform OR. -/
  | uor (f : UForm)
  /-- USHL R99. Uniform shift left. -/
  | ushl (f : UForm)
  /-- UMOV R99. Uniform move. -/
  | umov (f : DAForm)
  /-- UCMP R100. Compares uniform registers into a predicate of every active lane. -/
  | ucmp (f : UCmpForm)
  /-- CVT R96. Converts an element between formats named in the constant word. -/
  | cvt (f : CvtForm)
  /-- CVTPK R97. Converts and packs into element position k of V[d]. -/
  | cvtpk (f : CvtForm)
  /-- CVTUNPK R97. Unpacks element k of V[a] and converts it. -/
  | cvtunpk (f : CvtForm)
  /-- MOV R83. Copies V[a] to V[d]. -/
  | mov (f : DAForm)
  /-- MOV_B64 R83. Copies a register pair. -/
  | movB64 (f : DAForm)
  /-- NOT R87. Bitwise complement. -/
  | not (f : DAForm)
  /-- INEG R83. Integer negate, wrapping. -/
  | ineg (f : DAForm)
  /-- IABS R83. Integer absolute value, wrapping. -/
  | iabs (f : DAForm)
  /-- POPC R90. Population count. -/
  | popc (f : DAForm)
  /-- CLZ R90. Count leading zeros. -/
  | clz (f : DAForm)
  /-- CTZ R90. Count trailing zeros. -/
  | ctz (f : DAForm)
  /-- BREV R90. Bit reverse. -/
  | brev (f : DAForm)
  /-- FRCP R93. Correctly rounded reciprocal. -/
  | frcp (f : DAForm)
  /-- FRSQ R93. Correctly rounded reciprocal square root. -/
  | frsq (f : DAForm)
  /-- FSQRT R93. Correctly rounded square root. -/
  | fsqrt (f : DAForm)
  /-- FEXP2 R93. Correctly rounded 2^x. -/
  | fexp2 (f : DAForm)
  /-- FLOG2 R93. Correctly rounded log2 x. -/
  | flog2 (f : DAForm)
  /-- SHFL_XOR R102. Reads V[a] from lane l XOR m. -/
  | shflXor (f : ShflForm)
  /-- SHFL R102. Reads V[a] from lane k. -/
  | shfl (f : ShflForm)
  /-- SHFL_IDX R102. Reads V[a] from the lane named in V[d]. -/
  | shflIdx (f : DAForm)
  /-- QSWZ R102. Quad swizzle, lane XOR 1 to 3. -/
  | qswz (f : QuadForm)
  /-- QBCST R102. Broadcast from quad lane k. -/
  | qbcst (f : QuadForm)
  /-- VOTE_ALL R103. Predicate true when P[a] holds in all executing lanes. -/
  | voteAll (f : VoteForm)
  /-- VOTE_ANY R103. Predicate true when P[a] holds in any executing lane. -/
  | voteAny (f : VoteForm)
  /-- VOTE_UNI R103. Predicate true when P[a] is uniform over executing lanes. -/
  | voteUni (f : VoteForm)
  /-- BALLOT R103. Writes the mask of executing lanes where P[a] holds. -/
  | ballot (f : BallotForm)
  /-- LREDUCE_ADD_I32 R104. Fixed-tree integer sum over executing lanes. -/
  | lreduceAddI32 (f : DAForm)
  /-- LREDUCE_ADD_F32 R104. Fixed-tree binary32 sum. -/
  | lreduceAddF32 (f : DAForm)
  /-- LREDUCE_MIN_I32 R104. Fixed-tree signed minimum. -/
  | lreduceMinI32 (f : DAForm)
  /-- LREDUCE_MAX_I32 R104. Fixed-tree signed maximum. -/
  | lreduceMaxI32 (f : DAForm)
  /-- LREDUCE_MIN_F32 R104. Fixed-tree binary32 minimum. -/
  | lreduceMinF32 (f : DAForm)
  /-- LREDUCE_MAX_F32 R104. Fixed-tree binary32 maximum. -/
  | lreduceMaxF32 (f : DAForm)
  /-- LREDUCE_OR_B32 R104. Fixed-tree OR. -/
  | lreduceOrB32 (f : DAForm)
  /-- LREDUCE_AND_B32 R104. Fixed-tree AND. -/
  | lreduceAndB32 (f : DAForm)
  /-- PREFIX_ADD_I32 R105. Inclusive integer prefix sum in lane order. -/
  | prefixAddI32 (f : DAForm)
  /-- PREFIX_ADD_I32_EX R105. Exclusive integer prefix sum. -/
  | prefixAddI32Ex (f : DAForm)
  /-- PREFIX_ADD_F32 R105. Inclusive binary32 prefix sum. -/
  | prefixAddF32 (f : DAForm)
  /-- PREFIX_ADD_F32_EX R105. Exclusive binary32 prefix sum. -/
  | prefixAddF32Ex (f : DAForm)
  /-- UMOVV R101. Writes V[a] of the lowest executing lane into a uniform register. -/
  | umovv (f : DAForm)
  /-- UBCST R101. Broadcasts bits 31:0 of a uniform register into lanes. -/
  | ubcst (f : DAForm)
  /-- BMAND R106. ANDs a bitmap pair and counts the result. -/
  | bmand (f : DAForm)
  /-- POPCP R107. Exclusive prefix of popcounts over executing lanes. -/
  | popcp (f : DAForm)
  /-- ISECT R108. Steps the intersection of two bitmap words and updates its state. -/
  | isect (f : IsectForm)
  /-- PAND R98. Predicate AND. -/
  | pand (f : PForm)
  /-- POR R98. Predicate OR. -/
  | por (f : PForm)
  /-- PXOR R98. Predicate XOR. -/
  | pxor (f : PForm)
  /-- LD R144. Zero-extending load at the base address. -/
  | ld (f : MemForm)
  /-- LD_DISP R144. Zero-extending load at base plus a constant displacement. -/
  | ldDisp (f : MemDForm)
  /-- LD_SEXT R144. Sign-extending load at base plus constant. -/
  | ldSext (f : MemDForm)
  /-- ST R145. Store at the base address; highest lane wins per byte. -/
  | st (f : MemForm)
  /-- ST_DISP R145. Store at base plus a constant displacement. -/
  | stDisp (f : MemDForm)
  /-- ATOM R151. Atomic read-modify-write per lane, serialised per address. -/
  | atom (f : AtomForm)
  /-- ATOM_CAS R150. Atomic compare-and-swap returning the old value. -/
  | atomCas (f : CasForm)
  /-- RED R152. Non-returning reduction, released once translated. -/
  | red (f : RedForm)
  /-- FENCE R154. Orders the lane's L-path accesses at a scope. -/
  | fence (f : FenceForm)
  /-- FENCE_SC R155. Sequentially consistent fence. -/
  | fenceSc (f : FenceForm)
  /-- FENCEX R156. Orders producing path p before consuming path q for the group. -/
  | fencex (f : FencexForm)
  /-- PREF R157. Prefetch hint into a cache level. -/
  | pref (f : PrefForm)
  /-- CWB R158. Writes back dirty spans of a line frame to a scope. -/
  | cwb (f : CwbForm)
  /-- CINV R158. Writes back and invalidates a frame in the cluster's Case ways. -/
  | cinv (f : CinvForm)
  /-- CASEMODE R160. Switches a Case bank's mode. -/
  | casemode (f : CaseForm)
  /-- FPUSH R161. Pushes words into FIFO-mode banks. -/
  | fpush (f : CaseForm)
  /-- FPOP R161. Pops words from FIFO-mode banks. -/
  | fpop (f : CaseForm)
  /-- BRA R114. Divergent relative branch. -/
  | bra (f : BForm)
  /-- BRU R115. Uniform branch; a non-uniform condition faults. -/
  | bru (f : BForm)
  /-- BRD R116. Uniform indirect branch through a uniform register. -/
  | brd (f : BrForm)
  /-- BRX R114. Per-lane indirect branch. -/
  | brx (f : GAForm)
  /-- CALLX R117. Indirect call writing a link register. -/
  | callx (f : GDAForm)
  /-- RET R114. Return, with the effect of BRX. -/
  | ret (f : GAForm)
  /-- CALL R117. Relative call writing a link register. -/
  | call (f : BrForm)
  /-- SPLIT R119. Pushes a divergence-stack entry with a rejoin address. -/
  | split (f : BForm)
  /-- NOP R128. No operation; counts as an issue. -/
  | nop (f : GForm)
  /-- JOIN R122. Removes active lanes from the top entry, popping it when empty. -/
  | join (f : GForm)
  /-- WAIT R120. Parks active lanes at the top entry's rejoin address. -/
  | wait (f : GForm)
  /-- EXIT R126. Ends active lanes after their accesses are translated. -/
  | exit (f : GForm)
  /-- YIELD R129. Idles the group 16 A-clocks and forces its next issue. -/
  | yield (f : GForm)
  /-- REGION R130. Sets the group's restart point. -/
  | region (f : GForm)
  /-- BKPT R131. Enters the handler as a breakpoint with a code. -/
  | bkpt (f : CodeForm)
  /-- TRAP R131. Enters the handler as a software trap. -/
  | trap (f : CodeForm)
  /-- ERET R376. Checks and restores trap state, leaves privilege and replays the operand log. -/
  | eret (f : GForm)
  /-- MLOAD R221. Loads a dense weight set into the shadow plane set. -/
  | mload (f : MloadForm)
  /-- MLOADS R222. Packs a bitmap-compressed window into a sparse shadow set. -/
  | mloads (f : MloadsForm)
  /-- MSTREAM R224. Streams dense A rows past the live set into a tile. -/
  | mstream (f : MstreamForm)
  /-- MSTREAMS R224. Streams bitmap-compressed A rows, skipping empty steps. -/
  | mstreams (f : MstreamsForm)
  /-- MDRAIN R228. Drains a tile through the fused epilogue to memory. -/
  | mdrain (f : MdrainForm)
  /-- MCTX_ACQ R215. Acquires a matrix context, zeroing its tiles. -/
  | mctxAcq (f : GForm)
  /-- MCTX_REL R215. Releases the held context after acting as MWAIT. -/
  | mctxRel (f : GForm)
  /-- MSWAP R217. Exchanges the live and shadow plane sets. -/
  | mswap (f : GForm)
  /-- MZERO R225. Zeroes a tile after earlier commands on it. -/
  | mzero (f : TileForm)
  /-- MMOVA R225. Writes lane values into tile elements. -/
  | mmova (f : GDAForm)
  /-- MMOVV R225. Reads tile elements into lanes. -/
  | mmovv (f : GDAForm)
  /-- MWAIT R230. Waits for the group's matrix commands, raises pending faults, merges flags. -/
  | mwait (f : GForm)
  /-- MSTAT R231. Returns engine status after earlier loads complete. -/
  | mstat (f : GDForm)
  /-- MSTEP_GET R232. Reads the context's step register. -/
  | mstepGet (f : GDForm)
  /-- MSTEP_SET R317. Writes the step register once no stream or drain runs. -/
  | mstepSet (f : GAForm)
  /-- IMPSTAT R240. Reports outstanding IMPOSE and FETCHC commands and raises their deferred faults. -/
  | impstat (f : GDForm)
  /-- FETCH R236. Fount fetch of decoded elements into a lane register. -/
  | fetch (f : FetchForm)
  /-- FETCHC R237. Fount fetch of 32 bytes per lane into the Case. -/
  | fetchc (f : FetchForm)
  /-- HBIND R234. Binds a Fount handle slot to a copy of a handle entry. -/
  | hbind (f : HbindForm)
  /-- IMPOSE R238. Reads a copy request from the Case and queues it on the Imposer. -/
  | impose (f : GAForm)
  /-- BARA R164. Records an arrival at a barrier phase. -/
  | bara (f : BarForm)
  /-- BARW R164. Waits for the phase of the member's arrival. -/
  | barw (f : BarwForm)
  /-- BARS R164. Arrives, waits and writes the last-arriver predicate. -/
  | bars (f : BarsForm)
  /-- BARC R166. Adds bytes to a block barrier's byte counter. -/
  | barc (f : BarcForm)
  /-- TBEGIN_VAL R181. Opens or nests a value-validated transaction. -/
  | tbeginVal (f : TbeginForm)
  /-- TBEGIN_TS R181. Opens or nests a timestamp-validated transaction. -/
  | tbeginTs (f : TbeginForm)
  /-- TEND R183. Ends a nesting level or forms a commit batch. -/
  | tend (f : GForm)
  /-- TABORT R185. Aborts the open transaction with a code. -/
  | tabort (f : GAForm)
  /-- TSTAT R179. Returns the transaction status word. -/
  | tstat (f : GDForm)
  /-- SPBEGIN R189. Opens speculative iteration n of a domain. -/
  | spbegin (f : SpbeginForm)
  /-- SPEND R191. Waits for the domain token, validates and commits the iteration. -/
  | spend (f : GForm)
  /-- LDV R195. Loads sealed bytes of impression n, waiting until sealed. -/
  | ldv (f : ImpForm)
  /-- STV R195. Writes bytes into unsealed impression n. -/
  | stv (f : ImpForm)
  /-- SEALV R195. Seals impression n over a range, inheriting unwritten bytes. -/
  | sealv (f : SealForm)
  /-- FLOORV R195. Discards impressions older than the newest sealed one not above a floor. -/
  | floorv (f : SealForm)
  /-- VPROBE R195. Reports an impression's presence and the sector's newest sealed one. -/
  | vprobe (f : SealForm)
  /-- LIGA R200. Recruits helpers from idle lanes and suspends the recruiter. -/
  | liga (f : LigaForm)
  /-- LIGNXT R202. Claims the next iteration index for a helper. -/
  | lignxt (f : LignxtForm)
  /-- LIGX R203. Folds a helper value into a partial for a recruiter register. -/
  | ligx (f : LigxForm)
  /-- SREAD R42. Reads a special register into lanes. -/
  | sread (f : SreadForm)
  /-- SYSR R133. Reads a system register into lanes. -/
  | sysr (f : SysrForm)
  /-- SYSW R134. Writes a system register that has no row of its own. -/
  | sysw (f : SyswForm)
  /-- SYSW_CODEBASE R134. Writes sys.codebase; the next fetch uses the new base. -/
  | syswCodebase (f : GAForm)
  /-- SYSW_HEAP_WINDOW R134. Writes sys.heapbase, heaplim or heapoff, changing translation for later accesses. -/
  | syswHeapWindow (f : HeapForm)
  /-- SYSW_PRED R364. Writes sys.pred, setting p1-p31. -/
  | syswPred (f : GAForm)
  /-- SYSW_GSAVE R365. Writes the group image to memory in the save handler. -/
  | syswGsave (f : GAForm)
  /-- SYSW_GLOAD R365. Loads the group image in the restore handler. -/
  | syswGload (f : GAForm)
  /-- SYSW_BSAVE R365. Writes the block image and Case banks. -/
  | syswBsave (f : GAForm)
  /-- SYSW_BLOAD R365. Loads the block image and Case banks. -/
  | syswBload (f : GAForm)
  /-- SYSW_ESAVE R365. Writes the engine image once the engine has stopped. -/
  | syswEsave (f : GAForm)
  /-- SYSW_ELOAD R365. Loads the engine image for replay. -/
  | syswEload (f : GAForm)
  /-- SYSW_MIGREL R396. Releases a migrated source frame's copy bits and redirects. -/
  | syswMigrel (f : GAForm)
  /-- LIK_V R83. Writes a 32-bit constant to a vector register. -/
  | likV (f : LikForm)
  /-- LIK_U R79. Writes a sign-extended constant to a uniform register. -/
  | likU (f : LikForm)
  /-- YIELD_END R129. The 16 idle A-clocks after YIELD expire and the group may issue again. -/
  | yieldEnd (g : Nat)
  /-- LOAD_COMPLETE R144. Outstanding load data arrives and is written to its register. -/
  | loadComplete (g : Nat) (k : Nat)
  /-- STORE_WRITE_POINT R146. A queued store passes the core's write point. -/
  | storeWritePoint (g : Nat)
  /-- RED_PERFORM R152. The memory port applies a retired reduction. -/
  | redPerform (g : Nat)
  /-- PAGE_WALK R380. A translation walk completes with a leaf or a fault. -/
  | pageWalk (g : Nat)
  /-- LDV_WAIT_END R196. A waiting LDV's impression is sealed or discarded. -/
  | ldvWaitEnd (g : Nat) (k : Nat)
  /-- FETCH_COMPLETE R236. Fount data for a FETCH arrives in its register. -/
  | fetchComplete (g : Nat) (k : Nat)
  /-- FETCHC_BYTES_ARRIVE R237. FETCHC bytes arrive in the Case and count down the bound barrier. -/
  | fetchcBytesArrive (core : Nat) (k : Nat)
  /-- IMPOSER_BYTES_ARRIVE R239. Imposer copy bytes arrive and count down the named barrier. -/
  | imposerBytesArrive (core : Nat) (k : Nat) (n : Nat)
  /-- CASEMODE_COMPLETE R160. A bank mode switch reaches step 4 and waiting accesses proceed. -/
  | casemodeComplete (clu : Nat) (bank : Nat)
  /-- STREAM_START R312. A ready stream starts on the array, alternating between contexts. -/
  | streamStart (core : Nat) (x : Nat)
  /-- SWAP_TAKE_EFFECT R312. A swap exchanges the plane sets after earlier streams and loads complete. -/
  | swapTakeEffect (core : Nat)
  /-- MATRIX_STEP R224. One executed (row, plane) step accumulates into a tile row. -/
  | matrixStep (core : Nat)
  /-- MLOAD_COMPLETE R221. An MLOAD finishes filling the shadow set. -/
  | mloadComplete (core : Nat)
  /-- MLOADS_COUNT_PHASE R314. The Justifier's count phase ends with counts and index sets. -/
  | mloadsCountPhase (core : Nat)
  /-- MLOADS_COMPLETE R222. The packing phase ends, or the extent check fails and leaves the set empty. -/
  | mloadsComplete (core : Nat)
  /-- DRAIN_ROW R228. One tile row passes the drain epilogue and is stored. -/
  | drainRow (core : Nat) (x : Nat)
  /-- COMMIT_TOKEN_GRANT R342. A slice grants its token to a waiting batch; with all held, it validates and commits. -/
  | commitTokenGrant (batch : Nat)
  /-- QUOIN_TAKE R345. A presented batch takes the Quoin once free and unobstructed. -/
  | quoinTake (batch : Nat)
  /-- SPEND_TOKEN_REACHED R191. The domain token reaches a waiting iteration, releasing SPEND or an ordered rerun. -/
  | spendTokenReached (g : Nat) (l : Nat)
  /-- BACKOFF_EXPIRE R184. A transaction's back-off delay expires and TBEGIN executes again. -/
  | backoffExpire (g : Nat) (l : Nat)
  /-- LIGA_FRAMES_AVAILABLE R200. Frames become free for a LIGA waiting in a deterministic launch. -/
  | ligaFramesAvailable (g : Nat)
  /-- LIGATURE_LIFETIME_LIMIT R358. The lifetime counter reaches its limit and the ligature is forced to end. -/
  | ligatureLifetimeLimit (g : Nat)
  /-- STALL_TIME_LIMIT R397. The stall counter reaches the limit and class 0x0E is raised. -/
  | stallTimeLimit (g : Nat)
  /-- HANDLER_ENTRY R374. A raised fault enters its handler once lent lanes return. -/
  | handlerEntry (g : Nat)
  /-- GROUP_END R127. A group whose lanes have all exited and returned ends and frees its slot. -/
  | groupEnd (g : Nat)
  /-- BLOCK_END R159. A block ends once its groups ended and its Case commands completed. -/
  | blockEnd (b : Nat)
  /-- TRACE_SAMPLE R433. The sample period expires and a sample record is written. -/
  | traceSample (core : Nat) (ctx : Nat)
  /-- RECORD_FETCH R414. The device fetches a visible launch record from its ring. -/
  | recordFetch (q : BitVec 6)
  /-- BATCH_RECEIVE R257. A die dispatcher places a batch or returns it with a report. -/
  | batchReceive (die : BitVec 3)
  /-- DIE_REPORT R256. A die dispatcher's resource report reaches the global dispatcher. -/
  | dieReport (die : BitVec 3)
  /-- GANG_DISPATCH R258. A co-resident launch is placed whole once a placement exists. -/
  | gangDispatch (l : Nat)
  /-- PREEMPT_DECIDE R265. The global dispatcher chooses victim blocks and stops them. -/
  | preemptDecide (b : Nat)
  /-- SAVE_HANDLER_ENTRY R363. The save handler is entered on each group of a block being saved. -/
  | saveHandlerEntry (b : Nat)
  /-- BLOCK_RESTORE R268. A saved block is placed back and its restore handlers entered. -/
  | blockRestore (b : Nat)
  /-- LAUNCH_RETIRE R269. A launch retires and its completion is signalled. -/
  | launchRetire (l : Nat)
  /-- GRID_END R270. A fault or asynchronous error ends the owning grid and abandons its work. -/
  | gridEnd (l : Nat) (site : AsyncSite)
  /-- MIGRATION_LINE_COPY R394. The Imposer copies one line frame atomically and sets its copy bit. -/
  | migrationLineCopy (k : Nat)
  /-- ILLEGAL_ENCODING R46. A group reaches an instruction word with an illegal encoding (major 0x2F or 0x3D, a bad modifier word, an unlisted function code) and raises the precise illegal-encoding fault. -/
  | illegalEncoding
  /-- TILE_COMMAND_COMPLETE R313. An MZERO or MMOVA, or a stream whose steps are all skipped, completes and its tile leaves the busy state. -/
  | tileCommandComplete (core : Nat) (x : Nat)
  /-- STORE_PERFORMED_AT_SCOPE R291. A write that has passed the write point, or a dirty write-back, is performed throughout its scope or at its home, releasing fences, the outermost TBEGIN, SEALV and held synchronisation stores. -/
  | storePerformedAtScope (k : Nat) (scope : BitVec 3)
  /-- QDOOR R415. The host rings a queue doorbell, checked for overrun. -/
  | qdoor (q : BitVec 6) (w : BitVec 64)
  /-- QCTL_EN R413. Enables a queue when z is legal. -/
  | qctlEn (q : BitVec 6) (v : BitVec 32)
  /-- QCTL_HOLD R413. Holds or releases dispatch of a queue's blocks. -/
  | qctlHold (q : BitVec 6) (on : Bool)
  /-- QCTL_EVICT R413. Pre-empts the queue's resident blocks. -/
  | qctlEvict (q : BitVec 6)
  /-- QCTL_ABORT R413. Ends the queue's fetched launches with status 3. -/
  | qctlAbort (q : BitVec 6)
  /-- QCTL_CLEAR_OVERRUN R415. Clears a queue's overrun state. -/
  | qctlClearOverrun (q : BitVec 6)
  /-- RESYNC R420. Host write makes the device write a 4 KiB summary. -/
  | resync (addr : BitVec 64)
  /-- CREPLAY R389. Replay doorbell: failed entries of waiting groups are walked again. -/
  | creplay (ctx : BitVec 6)
  /-- POOLRNG_FENCED_CLEAR R409. Host writes 1 to fenced, ending a pool range fence. -/
  | poolrngFencedClear (k : BitVec 4)
  /-- MGMT_REGISTER_WRITE R412. Host write to a management register with no row of its own. -/
  | mgmtRegisterWrite (off : Nat) (v : BitVec 64)
  /-- DISPATCH_BATCH R256. The global dispatcher sends a batch of blocks to a die. -/
  | dispatchBatch
  /-- HOST_READ R404. A host CXL.mem read of device HBM is served at the home L3. -/
  | hostRead (pa : Nat) (keep : HostKeep)
  /-- HOST_WRITE R404. A host CXL.mem write to device HBM is performed. -/
  | hostWrite (pa : Nat) (bytes : List Byte)
  /-- BIRSP R405. The host's back-invalidation response releases a waiting access. -/
  | birsp (line : Nat) (data : Option (List Byte))
  /-- SNP_DATA R406. Host SnpData to a device-cache line. -/
  | snpData (line : Nat)
  /-- SNP_INV R406. Host SnpInv to a device-cache line. -/
  | snpInv (line : Nat)
  /-- SNP_CUR R406. Host SnpCur to a device-cache line. -/
  | snpCur (line : Nat)
  /-- BISNP_DATA R406. Pool device BISnpData to a device-cache line. -/
  | bisnpData (line : Nat)
  /-- BISNP_INV R406. Pool device BISnpInv to a device-cache line. -/
  | bisnpInv (line : Nat)
  /-- BISNP_CUR R406. Pool device BISnpCur to a device-cache line. -/
  | bisnpCur (line : Nat)
  /-- PEER_REQUEST R411. A peer's access arrives and is served if PEERACC allows. -/
  | peerRequest (dev : BitVec 8) (r : PeerReq)
  /-- PEER_REQUEST_TIMEOUT R411. A peer request goes unanswered within PTIME. -/
  | peerRequestTimeout (l : Nat) (site : AsyncSite)
  /-- PEER_PORT_DOWN R411. A peer port goes down; its requests fail and it leaves the route masks. -/
  | peerPortDown (port : BitVec 4) (hit : List Nat)
  /-- POOL_REQUEST_TIMEOUT R408. A pool request goes unanswered within PTIME and its range fails. -/
  | poolRequestTimeout (k : BitVec 4) (l : Nat) (site : AsyncSite)
  /-- POOL_POISON R409. Poison returned from pool memory fails its range. -/
  | poolPoison (k : BitVec 4)
  /-- POOL_PORT_DOWN R409. A pool port is lost, failing all its ranges. -/
  | poolPortDown (port : BitVec 1)
  /-- CORE_FAILURE R14. A core fails in service, raises the engine fault and enters the repair table. -/
  | coreFailure (core : Nat)
  /-- RESET R435. Power-on or conventional reset runs the boot sequence. -/
  | reset
  /-- FIRMWARE_UPDATE R438. A staged image is verified and written to flash. -/
  | firmwareUpdate (img : StagedImage)
  /-- RECOVERY_IMAGE_STAGED R438. In recovery mode a staged image that verifies is booted and flashed. -/
  | recoveryImageStaged (img : List Byte)
  /-- ATTESTATION_REQUEST R439. A nonce on the DOE mailbox gets a signed attestation reply. -/
  | attestationRequest (nonce : List Byte)
  /-- D3HOT_ENTRY R440. The device enters D3hot, holding queues with HBM in self-refresh. -/
  | d3hotEntry
  /-- RETURN_TO_D0 R440. Return from D3hot resumes held queues. -/
  | returnToD0
  /-- THROTTLE R440. Firmware lowers or raises the A-clock to keep power, flux and temperature in bounds. -/
  | throttle (mhz : Nat)
  /-- DIE_OVER_TEMPERATURE R441. A die reaches 115 °C; cause 1 is written and power removed. -/
  | dieOverTemperature
  /-- COOLANT_FLOW_LOST R441. Loss of coolant flow; cause 2 is written and power removed. -/
  | coolantFlowLost
  /-- ORDERLY_POWER_OFF R441. Orderly power-off writes shutdown cause 0. -/
  | orderlyPowerOff
  /-- STAMP_EVICTION R341. A slice's stamp cache evicts a frame's write stamp, so a later .ts validation of that frame fails. -/
  | stampEviction (frame : Nat)
  /-- DEVICE_CACHE_EVICTION R406. The L3 evicts a host or pool line, sending CleanEvictNoData, CleanEvict or DirtyEvict and leaving the line in state I. -/
  | deviceCacheEviction (line : Nat)
  /-- MAIN_POWER_LOSS R440. Main power is lost without an orderly power-off, or the device enters D3cold, and every state but the flash is lost. -/
  | mainPowerLoss
  /-- SECTOR_POISONED R392. A sector of device memory or the L3 becomes poisoned by an uncorrectable error. -/
  | sectorPoisoned (sector : Nat)
  /-- PEER_REFUSAL_RECEIVED R411. A peer refuses this device's request and the refusal arrives, reported as class 0x12 code 2, ending the owning grid. -/
  | peerRefusalReceived (l : Nat) (site : AsyncSite)
deriving DecidableEq, Repr

end Sys2Proof
end

