-- ==== Sys2Proof/WellFormed.lean ====
section
/-!
DEFINITION. Well-formed instructions: the conditions of 02_encoding.md that the words alone decide (R31, R35, R36,
R47 to R51, R95, R219, R220, R226, R227), each refused by name. Conditions that need the group's state (R34) are
checked when the instruction issues.
-/

namespace Sys2Proof

/-- Why a word is no instruction: the cause of an illegal-encoding fault (R46). -/
inductive Reject where
  | reservedMajor
  | modifierTwice
  | modifierBeforeShort
  | modifierNotAccepted
  | modifierReserved
  | modifierField
  | modifierRound
  | modifierClamp
  | guardField
  | reservedFunction
  | reservedField
  | formatCode
  | formatPair
  | position
  | rounding
  | orderField
  | scopeField
  | sizeField
  | atomicOp
  | pathCode
  | levelField
  | reduction
  | specialNumber
  | systemNumber
  | readOnlyRegister
  | drainRegister
  | notAnInstruction
deriving DecidableEq, Repr

/-- The rows of R36: which modifier fields an instruction honours. -/
inductive Honour where
  | satInt
  | window
  | float
  | compare
  | convert
  | unary
  | quad
  | base
deriving DecidableEq, Repr

/-- R31: the guard field value 0b100000 is illegal. -/
def guardCheck (g : Guard) : Option Reject :=
  if g.gs && g.gp == 0 then some .guardField else none

/-- The fields of a modifier word that the row does not honour are zero (R36). -/
def honoured (h : Honour) (m : Mod) : Bool :=
  let sat := h == .satInt || h == .float || h == .convert || h == .unary
  let fl := h == .float || h == .convert || h == .unary
  let nb := h == .float || h == .compare
  let nc := h == .float
  let na := fl || h == .compare
  (sat || !m.sat) && (fl || m.clmp == 0) && (fl || m.scl == 0) && (fl || m.rnd == 0) &&
  (na || (!m.nega && !m.absa)) && (nb || (!m.negb && !m.absb)) && (nc || (!m.negc && !m.absc)) &&
  (h == .quad || !m.qf) && (h != .base || !m.wb)

/-- The modifier word is one the instruction accepts (R35, R36). -/
def modCheck (h : Honour) (m : Option Mod) : Option Reject :=
  match m with
  | none => none
  | some m =>
    if m.rnd == 7 then some .modifierRound
    else if m.clmp == 3 then some .modifierClamp
    else if m.rnd == 6 && h != .convert then some .modifierRound
    else if honoured h m then none else some .modifierField

/-- The first of two checks that refuses. -/
def orElseCheck (a b : Option Reject) : Option Reject :=
  match a with
  | some r => some r
  | none => b

/-- A check that refuses with `r` when the condition fails. -/
def need (c : Bool) (r : Reject) : Option Reject := if c then none else some r

/-- R48 for LD and ST. -/
def ldstCheck (size order : BitVec 2) (scope : BitVec 3) : Option Reject :=
  if order == 3 then some .orderField
  else if order != 0 && size.toNat < 2 then some .sizeField
  else if order != 0 && scope.toNat > 4 then some .scopeField
  else none

/-- R48, R49 for ATOM and RED: operation codes, sizes, scopes. -/
def atomCheck (size order : BitVec 2) (scope : BitVec 3) (op : Nat) : Option Reject :=
  if size.toNat < 2 then some .sizeField
  else if order != 0 && scope.toNat > 4 then some .scopeField
  else if op > 10 then some .atomicOp
  else if op ≥ 8 && size == 3 then some .atomicOp
  else none

/-- R36, R51, R95: the format pair of a conversion and its element position. `pk` and `un` are true for CVTPK, CVTUNPK;
.rs stands on a narrowing CVT or CVTPK alone. -/
def cvtCheck (m : Option Mod) (dst src : BitVec 6) (pos : Nat) (pk un : Bool) : Option Reject :=
  match fmtOfCode dst, fmtOfCode src with
  | some (.raw _), _ => some .formatPair
  | _, some (.raw _) => some .formatPair
  | some fd, some fs =>
    let w := if pk then fmtWidth fd else fmtWidth fs
    let packed := pk || un
    if packed && !(w == 4 || w == 8 || w == 16) then some .formatPair
    else if packed && !(pos < 32 / w) then some .position
    else if !packed && pos != 0 then some .position
    else match m with
      | some mm =>
        if mm.rnd == 6 && (un || !(fmtIsFloat fd && fmtIsFloat fs && fmtWidth fd < fmtWidth fs)) then some .rounding else none
      | none => none
  | _, _ => some .formatCode

/-- R219, R220: the operand word. `only8` for MLOADS and MSTREAMS, `win` for a 384 window. -/
def operandCheck (fmt : BitVec 6) (sc only8 win : Bool) : Option Reject :=
  match fmtOfCode fmt with
  | some f =>
    if !fmtIsMatrix f then some .formatCode
    else if only8 && !fmtIsMatrix8 f then some .formatCode
    else if sc && !fmtIsNarrow f then some .formatPair
    else if win && !fmtIsMatrix8 f then some .formatPair
    else none
  | none => some .formatCode

/-- R226, R227: the drain word. -/
def drainCheck (f : MdrainForm) : Option Reject :=
  match fmtOfCode f.dfmt with
  | some d =>
    if !fmtIsDrain d then some .formatCode
    else if f.res && !(f.rfmt == 0x28 || f.rfmt == 0x29 || f.rfmt == 0x2A || f.rfmt == 0x2F) then some .formatCode
    else if f.rnd.toNat ≥ 6 then some .rounding
    else if f.e3.toNat > 61 then some .drainRegister
    else none
  | none => some .formatCode

/-- R44: a system-register number that SYSR may name. -/
def sysrCheck (s : BitVec 13) : Option Reject :=
  match sysInfo s.toNat with
  | some _ => none
  | none => some .systemNumber

/-- The system registers whose SYSW has a constructor of its own. -/
def syswOwnRow (n : Nat) : Bool :=
  n == 0x100 || n == 0x101 || n == 0x102 || n == 0x103 || (0x185 ≤ n && n ≤ 0x18B) || n == 0x190

/-- R44: a system-register number that the generic SYSW constructor may name. -/
def syswCheck (s : BitVec 13) : Option Reject :=
  match sysInfo s.toNat with
  | some i => if i.ro then some .readOnlyRegister else if syswOwnRow s.toNat then some .systemNumber else none
  | none => some .systemNumber

/-- The check of an instruction: `none` when it is well formed, else why its encoding is illegal. Events have no
encoding. -/
def check (i : Instr) : Option Reject :=
  match i with
  | .movShort _ => none
  | .iaddShort _ => none
  | .isubShort _ => none
  | .imulShort _ => none
  | .andShort _ => none
  | .orShort _ => none
  | .xorShort _ => none
  | .shlShort _ => none
  | .shrShort _ => none
  | .sarShort _ => none
  | .iminShort _ => none
  | .imaxShort _ => none
  | .faddShort _ => none
  | .fsubShort _ => none
  | .fmulShort _ => none
  | .fmaxShort _ => none
  | .iadd f => orElseCheck (modCheck .satInt f.m) (guardCheck f.g)
  | .iaddI64 f => orElseCheck (modCheck .satInt f.m) (guardCheck f.g)
  | .isub f => orElseCheck (modCheck .satInt f.m) (guardCheck f.g)
  | .isubI64 f => orElseCheck (modCheck .satInt f.m) (guardCheck f.g)
  | .imul f => orElseCheck (modCheck .satInt f.m) (guardCheck f.g)
  | .imulI64 f => orElseCheck (modCheck .satInt f.m) (guardCheck f.g)
  | .imulh f => orElseCheck (modCheck .window f.m) (guardCheck f.g)
  | .imulhZ32 f => orElseCheck (modCheck .window f.m) (guardCheck f.g)
  | .imad f => orElseCheck (modCheck .satInt f.m) (guardCheck f.g)
  | .imadZ64 f => orElseCheck (modCheck .satInt f.m) (guardCheck f.g)
  | .imin f => orElseCheck (modCheck .window f.m) (guardCheck f.g)
  | .iminZ32 f => orElseCheck (modCheck .window f.m) (guardCheck f.g)
  | .imax f => orElseCheck (modCheck .window f.m) (guardCheck f.g)
  | .imaxZ32 f => orElseCheck (modCheck .window f.m) (guardCheck f.g)
  | .icmp f => orElseCheck (modCheck .window f.m) (guardCheck f.g)
  | .icmpZ32 f => orElseCheck (modCheck .window f.m) (guardCheck f.g)
  | .sel f => orElseCheck (modCheck .window f.m) (guardCheck f.g)
  | .selB64 f => orElseCheck (modCheck .window f.m) (guardCheck f.g)
  | .lea f => orElseCheck (modCheck .window f.m) (guardCheck f.g)
  | .leaZ32 f => orElseCheck (modCheck .window f.m) (guardCheck f.g)
  | .and f => orElseCheck (modCheck .window f.m) (guardCheck f.g)
  | .andn f => orElseCheck (modCheck .window f.m) (guardCheck f.g)
  | .or f => orElseCheck (modCheck .window f.m) (guardCheck f.g)
  | .xor f => orElseCheck (modCheck .window f.m) (guardCheck f.g)
  | .shl f => orElseCheck (modCheck .window f.m) (guardCheck f.g)
  | .shr f => orElseCheck (modCheck .window f.m) (guardCheck f.g)
  | .sar f => orElseCheck (modCheck .window f.m) (guardCheck f.g)
  | .rot f => orElseCheck (modCheck .window f.m) (guardCheck f.g)
  | .bfx f => orElseCheck (modCheck .window f.m) (guardCheck f.g)
  | .bfxI32 f => orElseCheck (modCheck .window f.m) (guardCheck f.g)
  | .bfi f => orElseCheck (modCheck .window f.m) (guardCheck f.g)
  | .fadd f => orElseCheck (modCheck .float f.m) (guardCheck f.g)
  | .fsub f => orElseCheck (modCheck .float f.m) (guardCheck f.g)
  | .fmul f => orElseCheck (modCheck .float f.m) (guardCheck f.g)
  | .ffma f => orElseCheck (modCheck .float f.m) (guardCheck f.g)
  | .fmin f => orElseCheck (modCheck .float f.m) (guardCheck f.g)
  | .fmax f => orElseCheck (modCheck .float f.m) (guardCheck f.g)
  | .fcmp f => orElseCheck (modCheck .compare f.m) (guardCheck f.g)
  | .hadd2 f => orElseCheck (modCheck .float f.m) (guardCheck f.g)
  | .hmul2 f => orElseCheck (modCheck .float f.m) (guardCheck f.g)
  | .hfma2 f => orElseCheck (modCheck .float f.m) (guardCheck f.g)
  | .movi f => orElseCheck (modCheck .window f.m) (guardCheck f.g)
  | .iaddImm f => orElseCheck (modCheck .satInt f.m) (guardCheck f.g)
  | .uadd f => orElseCheck (modCheck .window f.m) (guardCheck f.g)
  | .usub f => orElseCheck (modCheck .window f.m) (guardCheck f.g)
  | .umul f => orElseCheck (modCheck .window f.m) (guardCheck f.g)
  | .uand f => orElseCheck (modCheck .window f.m) (guardCheck f.g)
  | .uor f => orElseCheck (modCheck .window f.m) (guardCheck f.g)
  | .ushl f => orElseCheck (modCheck .window f.m) (guardCheck f.g)
  | .umov f => orElseCheck (modCheck .window f.m) (guardCheck f.g)
  | .ucmp f => orElseCheck (modCheck .window f.m) (guardCheck f.g)
  | .cvt f => orElseCheck (modCheck .convert f.m) (orElseCheck (guardCheck f.g) (cvtCheck f.m f.dst f.src f.pos.toNat false false))
  | .cvtpk f => orElseCheck (modCheck .convert f.m) (orElseCheck (guardCheck f.g) (cvtCheck f.m f.dst f.src f.pos.toNat true false))
  | .cvtunpk f => orElseCheck (modCheck .convert f.m) (orElseCheck (guardCheck f.g) (cvtCheck f.m f.dst f.src f.pos.toNat false true))
  | .mov f => orElseCheck (modCheck .window f.m) (guardCheck f.g)
  | .movB64 f => orElseCheck (modCheck .window f.m) (guardCheck f.g)
  | .not f => orElseCheck (modCheck .window f.m) (guardCheck f.g)
  | .ineg f => orElseCheck (modCheck .window f.m) (guardCheck f.g)
  | .iabs f => orElseCheck (modCheck .window f.m) (guardCheck f.g)
  | .popc f => orElseCheck (modCheck .window f.m) (guardCheck f.g)
  | .clz f => orElseCheck (modCheck .window f.m) (guardCheck f.g)
  | .ctz f => orElseCheck (modCheck .window f.m) (guardCheck f.g)
  | .brev f => orElseCheck (modCheck .window f.m) (guardCheck f.g)
  | .frcp f => orElseCheck (modCheck .unary f.m) (guardCheck f.g)
  | .frsq f => orElseCheck (modCheck .unary f.m) (guardCheck f.g)
  | .fsqrt f => orElseCheck (modCheck .unary f.m) (guardCheck f.g)
  | .fexp2 f => orElseCheck (modCheck .unary f.m) (guardCheck f.g)
  | .flog2 f => orElseCheck (modCheck .unary f.m) (guardCheck f.g)
  | .shflXor f => orElseCheck (modCheck .quad f.m) (guardCheck f.g)
  | .shfl f => orElseCheck (modCheck .quad f.m) (guardCheck f.g)
  | .shflIdx f => orElseCheck (modCheck .quad f.m) (guardCheck f.g)
  | .qswz f => orElseCheck (modCheck .quad f.m) (orElseCheck (guardCheck f.g) (need (f.k != 3) .reservedFunction))
  | .qbcst f => orElseCheck (modCheck .quad f.m) (guardCheck f.g)
  | .voteAll f => orElseCheck (modCheck .window f.m) (guardCheck f.g)
  | .voteAny f => orElseCheck (modCheck .window f.m) (guardCheck f.g)
  | .voteUni f => orElseCheck (modCheck .window f.m) (guardCheck f.g)
  | .ballot f => orElseCheck (modCheck .window f.m) (guardCheck f.g)
  | .lreduceAddI32 f => orElseCheck (modCheck .window f.m) (guardCheck f.g)
  | .lreduceAddF32 f => orElseCheck (modCheck .window f.m) (guardCheck f.g)
  | .lreduceMinI32 f => orElseCheck (modCheck .window f.m) (guardCheck f.g)
  | .lreduceMaxI32 f => orElseCheck (modCheck .window f.m) (guardCheck f.g)
  | .lreduceMinF32 f => orElseCheck (modCheck .window f.m) (guardCheck f.g)
  | .lreduceMaxF32 f => orElseCheck (modCheck .window f.m) (guardCheck f.g)
  | .lreduceOrB32 f => orElseCheck (modCheck .window f.m) (guardCheck f.g)
  | .lreduceAndB32 f => orElseCheck (modCheck .window f.m) (guardCheck f.g)
  | .prefixAddI32 f => orElseCheck (modCheck .window f.m) (guardCheck f.g)
  | .prefixAddI32Ex f => orElseCheck (modCheck .window f.m) (guardCheck f.g)
  | .prefixAddF32 f => orElseCheck (modCheck .window f.m) (guardCheck f.g)
  | .prefixAddF32Ex f => orElseCheck (modCheck .window f.m) (guardCheck f.g)
  | .umovv f => orElseCheck (modCheck .window f.m) (guardCheck f.g)
  | .ubcst f => orElseCheck (modCheck .window f.m) (guardCheck f.g)
  | .bmand f => orElseCheck (modCheck .window f.m) (guardCheck f.g)
  | .popcp f => orElseCheck (modCheck .window f.m) (guardCheck f.g)
  | .isect f => orElseCheck (modCheck .window f.m) (guardCheck f.g)
  | .pand f => orElseCheck (modCheck .window f.m) (guardCheck f.g)
  | .por f => orElseCheck (modCheck .window f.m) (guardCheck f.g)
  | .pxor f => orElseCheck (modCheck .window f.m) (guardCheck f.g)
  | .ld f => orElseCheck (modCheck .base f.m) (orElseCheck (guardCheck f.g) (ldstCheck f.size f.order f.scope))
  | .ldDisp f => orElseCheck (modCheck .base f.m) (orElseCheck (guardCheck f.g) (ldstCheck f.size f.order f.scope))
  | .ldSext f => orElseCheck (modCheck .base f.m) (orElseCheck (guardCheck f.g) (ldstCheck f.size f.order f.scope))
  | .st f => orElseCheck (modCheck .base f.m) (orElseCheck (guardCheck f.g) (ldstCheck f.size f.order f.scope))
  | .stDisp f => orElseCheck (modCheck .base f.m) (orElseCheck (guardCheck f.g) (ldstCheck f.size f.order f.scope))
  | .atom f => orElseCheck (modCheck .base f.m) (orElseCheck (guardCheck f.g) (orElseCheck (atomCheck f.size f.order f.scope f.op.toNat) (need (f.op != 7) .atomicOp)))
  | .atomCas f => orElseCheck (modCheck .base f.m) (orElseCheck (guardCheck f.g) (atomCheck f.size f.order f.scope 7))
  | .red f => orElseCheck (modCheck .base f.m) (orElseCheck (guardCheck f.g) (orElseCheck (atomCheck f.size f.order f.scope f.op.toNat) (need (f.op != 6 && f.op != 7) .atomicOp)))
  | .fence f => orElseCheck (modCheck .base f.m) (orElseCheck (guardCheck f.g) (need (f.scope.toNat ≤ 4) .scopeField))
  | .fenceSc f => orElseCheck (modCheck .base f.m) (orElseCheck (guardCheck f.g) (need (f.scope.toNat ≤ 4) .scopeField))
  | .fencex f => orElseCheck (modCheck .base f.m) (orElseCheck (guardCheck f.g) (orElseCheck (need (f.scope.toNat ≤ 4) .scopeField) (need (f.p.toNat ≤ 4 && f.q.toNat ≤ 4) .pathCode)))
  | .pref f => orElseCheck (modCheck .base f.m) (orElseCheck (guardCheck f.g) (need (f.level != 3) .levelField))
  | .cwb f => orElseCheck (modCheck .base f.m) (orElseCheck (guardCheck f.g) (need (f.scope.toNat ≤ 4) .scopeField))
  | .cinv f => orElseCheck (modCheck .base f.m) (guardCheck f.g)
  | .casemode f => orElseCheck (modCheck .base f.m) (guardCheck f.g)
  | .fpush f => orElseCheck (modCheck .base f.m) (guardCheck f.g)
  | .fpop f => orElseCheck (modCheck .base f.m) (guardCheck f.g)
  | .bra f => guardCheck f.g
  | .bru f => guardCheck f.g
  | .brd f => guardCheck f.g
  | .brx f => guardCheck f.g
  | .callx f => guardCheck f.g
  | .ret f => guardCheck f.g
  | .call f => guardCheck f.g
  | .split f => guardCheck f.g
  | .nop f => guardCheck f.g
  | .join f => guardCheck f.g
  | .wait f => guardCheck f.g
  | .exit f => guardCheck f.g
  | .yield f => guardCheck f.g
  | .region f => guardCheck f.g
  | .bkpt f => guardCheck f.g
  | .trap f => guardCheck f.g
  | .eret f => guardCheck f.g
  | .mload f => orElseCheck (guardCheck f.g) (operandCheck f.fmt f.sc false false)
  | .mloads f => orElseCheck (guardCheck f.g) (operandCheck f.fmt f.sc true false)
  | .mstream f => orElseCheck (guardCheck f.g) (operandCheck f.fmt f.sc false f.win)
  | .mstreams f => orElseCheck (guardCheck f.g) (operandCheck f.fmt f.sc true f.win)
  | .mdrain f => orElseCheck (guardCheck f.g) (drainCheck f)
  | .mctxAcq f => guardCheck f.g
  | .mctxRel f => guardCheck f.g
  | .mswap f => guardCheck f.g
  | .mzero f => guardCheck f.g
  | .mmova f => guardCheck f.g
  | .mmovv f => guardCheck f.g
  | .mwait f => guardCheck f.g
  | .mstat f => guardCheck f.g
  | .mstepGet f => guardCheck f.g
  | .mstepSet f => guardCheck f.g
  | .impstat f => guardCheck f.g
  | .fetch f => guardCheck f.g
  | .fetchc f => guardCheck f.g
  | .hbind f => guardCheck f.g
  | .impose f => guardCheck f.g
  | .bara f => guardCheck f.g
  | .barw f => guardCheck f.g
  | .bars f => guardCheck f.g
  | .barc f => guardCheck f.g
  | .tbeginVal f => guardCheck f.g
  | .tbeginTs f => guardCheck f.g
  | .tend f => guardCheck f.g
  | .tabort f => guardCheck f.g
  | .tstat f => guardCheck f.g
  | .spbegin f => guardCheck f.g
  | .spend f => guardCheck f.g
  | .ldv f => guardCheck f.g
  | .stv f => guardCheck f.g
  | .sealv f => guardCheck f.g
  | .floorv f => guardCheck f.g
  | .vprobe f => guardCheck f.g
  | .liga f => guardCheck f.g
  | .lignxt f => guardCheck f.g
  | .ligx f => orElseCheck (guardCheck f.g) (need (!(f.ty && f.op == 3)) .reduction)
  | .sread f => orElseCheck (guardCheck f.g) (need (f.s.toNat ≤ 0xD) .specialNumber)
  | .sysr f => orElseCheck (guardCheck f.g) (sysrCheck f.s)
  | .sysw f => orElseCheck (guardCheck f.g) (syswCheck f.s)
  | .syswCodebase f => guardCheck f.g
  | .syswHeapWindow f => orElseCheck (guardCheck f.g) (need (f.which != 3) .systemNumber)
  | .syswPred f => guardCheck f.g
  | .syswGsave f => guardCheck f.g
  | .syswGload f => guardCheck f.g
  | .syswBsave f => guardCheck f.g
  | .syswBload f => guardCheck f.g
  | .syswEsave f => guardCheck f.g
  | .syswEload f => guardCheck f.g
  | .syswMigrel f => guardCheck f.g
  | .likV f => guardCheck f.g
  | .likU f => guardCheck f.g
  | .yieldEnd _ => some .notAnInstruction
  | .loadComplete _ _ => some .notAnInstruction
  | .storeWritePoint _ => some .notAnInstruction
  | .redPerform _ => some .notAnInstruction
  | .pageWalk _ => some .notAnInstruction
  | .ldvWaitEnd _ _ => some .notAnInstruction
  | .fetchComplete _ _ => some .notAnInstruction
  | .fetchcBytesArrive _ _ => some .notAnInstruction
  | .imposerBytesArrive _ _ _ => some .notAnInstruction
  | .casemodeComplete _ _ => some .notAnInstruction
  | .streamStart _ _ => some .notAnInstruction
  | .swapTakeEffect _ => some .notAnInstruction
  | .matrixStep _ => some .notAnInstruction
  | .mloadComplete _ => some .notAnInstruction
  | .mloadsCountPhase _ => some .notAnInstruction
  | .mloadsComplete _ => some .notAnInstruction
  | .drainRow _ _ => some .notAnInstruction
  | .commitTokenGrant _ => some .notAnInstruction
  | .quoinTake _ => some .notAnInstruction
  | .spendTokenReached _ _ => some .notAnInstruction
  | .backoffExpire _ _ => some .notAnInstruction
  | .ligaFramesAvailable _ => some .notAnInstruction
  | .ligatureLifetimeLimit _ => some .notAnInstruction
  | .stallTimeLimit _ => some .notAnInstruction
  | .handlerEntry _ => some .notAnInstruction
  | .groupEnd _ => some .notAnInstruction
  | .blockEnd _ => some .notAnInstruction
  | .traceSample _ _ => some .notAnInstruction
  | .qdoor _ _ => some .notAnInstruction
  | .qctlEn _ _ => some .notAnInstruction
  | .qctlHold _ _ => some .notAnInstruction
  | .qctlEvict _ => some .notAnInstruction
  | .qctlAbort _ => some .notAnInstruction
  | .qctlClearOverrun _ => some .notAnInstruction
  | .resync _ => some .notAnInstruction
  | .creplay _ => some .notAnInstruction
  | .poolrngFencedClear _ => some .notAnInstruction
  | .mgmtRegisterWrite _ _ => some .notAnInstruction
  | .recordFetch _ => some .notAnInstruction
  | .dispatchBatch => some .notAnInstruction
  | .batchReceive _ => some .notAnInstruction
  | .dieReport _ => some .notAnInstruction
  | .gangDispatch _ => some .notAnInstruction
  | .preemptDecide _ => some .notAnInstruction
  | .saveHandlerEntry _ => some .notAnInstruction
  | .blockRestore _ => some .notAnInstruction
  | .launchRetire _ => some .notAnInstruction
  | .gridEnd _ _ => some .notAnInstruction
  | .migrationLineCopy _ => some .notAnInstruction
  | .hostRead _ _ => some .notAnInstruction
  | .hostWrite _ _ => some .notAnInstruction
  | .birsp _ _ => some .notAnInstruction
  | .snpData _ => some .notAnInstruction
  | .snpInv _ => some .notAnInstruction
  | .snpCur _ => some .notAnInstruction
  | .bisnpData _ => some .notAnInstruction
  | .bisnpInv _ => some .notAnInstruction
  | .bisnpCur _ => some .notAnInstruction
  | .peerRequest _ _ => some .notAnInstruction
  | .peerRequestTimeout _ _ => some .notAnInstruction
  | .peerPortDown _ _ => some .notAnInstruction
  | .poolRequestTimeout _ _ _ => some .notAnInstruction
  | .poolPoison _ => some .notAnInstruction
  | .poolPortDown _ => some .notAnInstruction
  | .coreFailure _ => some .notAnInstruction
  | .reset => some .notAnInstruction
  | .firmwareUpdate _ => some .notAnInstruction
  | .recoveryImageStaged _ => some .notAnInstruction
  | .attestationRequest _ => some .notAnInstruction
  | .d3hotEntry => some .notAnInstruction
  | .returnToD0 => some .notAnInstruction
  | .throttle _ => some .notAnInstruction
  | .dieOverTemperature => some .notAnInstruction
  | .coolantFlowLost => some .notAnInstruction
  | .orderlyPowerOff => some .notAnInstruction
  | .illegalEncoding => some .notAnInstruction
  | .tileCommandComplete _ _ => some .notAnInstruction
  | .storePerformedAtScope _ _ => some .notAnInstruction
  | .stampEviction _ => some .notAnInstruction
  | .deviceCacheEviction _ => some .notAnInstruction
  | .mainPowerLoss => some .notAnInstruction
  | .sectorPoisoned _ => some .notAnInstruction
  | .peerRefusalReceived _ _ => some .notAnInstruction

/-- An instruction that the device executes as decoded (R31 to R51). -/
def WellFormed (i : Instr) : Prop := check i = none

end Sys2Proof
end

