-- ==== Sys2Proof/Decode.lean ====
section
/-!
DEFINITION. Decoding of instruction words and their encoding (02_encoding.md, R24 to R51). An instruction's bits are
one number, the first word lowest (R4, R37): a modifier word, the long word, the constant word.
-/

namespace Sys2Proof

/-- Bits `lo + n - 1 : lo` of a word as a number. -/
def fld (w lo n : Nat) : Nat := (w >>> lo) % 2 ^ n

/-- The guard of a long word (R29). -/
def guardOf (w : Nat) : Guard := { gs := bitAt w 12, gp := bitsAt w 7 5 }

/-- The modifier word (R35); its reserved bits 31:29 are checked by `decode`. -/
def modOf (w : Nat) : Mod :=
  { wb := bitAt w 28, wa := bitAt w 27, qf := bitAt w 26, rnd := bitsAt w 23 3, scl := bitsAt w 16 7, absc := bitAt w 15,
    negc := bitAt w 14, absb := bitAt w 13, negb := bitAt w 12, absa := bitAt w 11, nega := bitAt w 10,
    clmp := bitsAt w 8 2, sat := bitAt w 7 }

/-- A short instruction (R28). -/
def parseShort (w : Nat) : Instr :=
  let f : ShortF := { s := bitsAt w 11 5, d := bitsAt w 5 6 }
  match fld w 1 4 with
  | 0 => .movShort f
  | 1 => .iaddShort f
  | 2 => .isubShort f
  | 3 => .imulShort f
  | 4 => .andShort f
  | 5 => .orShort f
  | 6 => .xorShort f
  | 7 => .shlShort f
  | 8 => .shrShort f
  | 9 => .sarShort f
  | 10 => .iminShort f
  | 11 => .imaxShort f
  | 12 => .faddShort f
  | 13 => .fsubShort f
  | 14 => .fmulShort f
  | _ => .fmaxShort f

/-- Major 0x00 (R45, R47): IADD, IADD_I64. -/
def parse00 (m : Option Mod) (w : Nat) : Except Reject Instr :=
  if fld w 31 1 = 0 then .ok (.iadd { m := m, g := guardOf w, d := bitsAt w 13 6, a := bitsAt w 19 6, b := bitsAt w 25 6 }) else
  if fld w 31 1 = 1 then .ok (.iaddI64 { m := m, g := guardOf w, d := bitsAt w 13 6, a := bitsAt w 19 6, b := bitsAt w 25 6 }) else
  .error .reservedFunction

/-- Major 0x01 (R45, R47): ISUB, ISUB_I64. -/
def parse01 (m : Option Mod) (w : Nat) : Except Reject Instr :=
  if fld w 31 1 = 0 then .ok (.isub { m := m, g := guardOf w, d := bitsAt w 13 6, a := bitsAt w 19 6, b := bitsAt w 25 6 }) else
  if fld w 31 1 = 1 then .ok (.isubI64 { m := m, g := guardOf w, d := bitsAt w 13 6, a := bitsAt w 19 6, b := bitsAt w 25 6 }) else
  .error .reservedFunction

/-- Major 0x02 (R45, R47): IMUL, IMUL_I64. -/
def parse02 (m : Option Mod) (w : Nat) : Except Reject Instr :=
  if fld w 31 1 = 0 then .ok (.imul { m := m, g := guardOf w, d := bitsAt w 13 6, a := bitsAt w 19 6, b := bitsAt w 25 6 }) else
  if fld w 31 1 = 1 then .ok (.imulI64 { m := m, g := guardOf w, d := bitsAt w 13 6, a := bitsAt w 19 6, b := bitsAt w 25 6 }) else
  .error .reservedFunction

/-- Major 0x03 (R45, R47): IMULH, IMULH_Z32. -/
def parse03 (m : Option Mod) (w : Nat) : Except Reject Instr :=
  if fld w 31 1 = 0 then .ok (.imulh { m := m, g := guardOf w, d := bitsAt w 13 6, a := bitsAt w 19 6, b := bitsAt w 25 6 }) else
  if fld w 31 1 = 1 then .ok (.imulhZ32 { m := m, g := guardOf w, d := bitsAt w 13 6, a := bitsAt w 19 6, b := bitsAt w 25 6 }) else
  .error .reservedFunction

/-- Major 0x04 (R45, R47): IMAD, IMAD_Z64. -/
def parse04 (m : Option Mod) (w : Nat) : Except Reject Instr :=
  if fld w 31 1 = 0 then .ok (.imad { m := m, g := guardOf w, d := bitsAt w 13 6, a := bitsAt w 19 6, b := bitsAt w 25 6 }) else
  if fld w 31 1 = 1 then .ok (.imadZ64 { m := m, g := guardOf w, d := bitsAt w 13 6, a := bitsAt w 19 6, b := bitsAt w 25 6 }) else
  .error .reservedFunction

/-- Major 0x05 (R45, R47): IMIN, IMIN_Z32. -/
def parse05 (m : Option Mod) (w : Nat) : Except Reject Instr :=
  if fld w 31 1 = 0 then .ok (.imin { m := m, g := guardOf w, d := bitsAt w 13 6, a := bitsAt w 19 6, b := bitsAt w 25 6 }) else
  if fld w 31 1 = 1 then .ok (.iminZ32 { m := m, g := guardOf w, d := bitsAt w 13 6, a := bitsAt w 19 6, b := bitsAt w 25 6 }) else
  .error .reservedFunction

/-- Major 0x06 (R45, R47): IMAX, IMAX_Z32. -/
def parse06 (m : Option Mod) (w : Nat) : Except Reject Instr :=
  if fld w 31 1 = 0 then .ok (.imax { m := m, g := guardOf w, d := bitsAt w 13 6, a := bitsAt w 19 6, b := bitsAt w 25 6 }) else
  if fld w 31 1 = 1 then .ok (.imaxZ32 { m := m, g := guardOf w, d := bitsAt w 13 6, a := bitsAt w 19 6, b := bitsAt w 25 6 }) else
  .error .reservedFunction

/-- Major 0x07 (R45, R47): ICMP. -/
def parse07 (m : Option Mod) (w : Nat) : Except Reject Instr :=
  .ok (.icmp { m := m, g := guardOf w, c := BitVec.ofNat 2 (2 * fld w 18 1 + fld w 31 1), p := bitsAt w 13 5, a := bitsAt w 19 6, b := bitsAt w 25 6 })

/-- Major 0x08 (R45, R47): ICMP_Z32. -/
def parse08 (m : Option Mod) (w : Nat) : Except Reject Instr :=
  .ok (.icmpZ32 { m := m, g := guardOf w, c := BitVec.ofNat 2 (2 * fld w 18 1 + fld w 31 1), p := bitsAt w 13 5, a := bitsAt w 19 6, b := bitsAt w 25 6 })

/-- Major 0x09 (R45, R47): SEL, SEL_B64. -/
def parse09 (m : Option Mod) (w : Nat) : Except Reject Instr :=
  if fld w 31 1 = 0 then .ok (.sel { m := m, g := guardOf w, d := bitsAt w 13 6, a := bitsAt w 19 6, b := bitsAt w 25 6 }) else
  if fld w 31 1 = 1 then .ok (.selB64 { m := m, g := guardOf w, d := bitsAt w 13 6, a := bitsAt w 19 6, b := bitsAt w 25 6 }) else
  .error .reservedFunction

/-- Major 0x0A (R45, R47): LEA, LEA_Z32. -/
def parse0A (m : Option Mod) (w : Nat) : Except Reject Instr :=
  if fld w 31 1 = 0 then .ok (.lea { m := m, g := guardOf w, d := bitsAt w 13 6, a := bitsAt w 19 6, b := bitsAt w 25 6 }) else
  if fld w 31 1 = 1 then .ok (.leaZ32 { m := m, g := guardOf w, d := bitsAt w 13 6, a := bitsAt w 19 6, b := bitsAt w 25 6 }) else
  .error .reservedFunction

/-- Major 0x0B (R45, R47): AND, ANDN. -/
def parse0B (m : Option Mod) (w : Nat) : Except Reject Instr :=
  if fld w 31 1 = 0 then .ok (.and { m := m, g := guardOf w, d := bitsAt w 13 6, a := bitsAt w 19 6, b := bitsAt w 25 6 }) else
  if fld w 31 1 = 1 then .ok (.andn { m := m, g := guardOf w, d := bitsAt w 13 6, a := bitsAt w 19 6, b := bitsAt w 25 6 }) else
  .error .reservedFunction

/-- Major 0x0C (R45, R47): OR, XOR. -/
def parse0C (m : Option Mod) (w : Nat) : Except Reject Instr :=
  if fld w 31 1 = 0 then .ok (.or { m := m, g := guardOf w, d := bitsAt w 13 6, a := bitsAt w 19 6, b := bitsAt w 25 6 }) else
  if fld w 31 1 = 1 then .ok (.xor { m := m, g := guardOf w, d := bitsAt w 13 6, a := bitsAt w 19 6, b := bitsAt w 25 6 }) else
  .error .reservedFunction

/-- Major 0x0D (R45, R47): SHL, SHR. -/
def parse0D (m : Option Mod) (w : Nat) : Except Reject Instr :=
  if fld w 31 1 = 0 then .ok (.shl { m := m, g := guardOf w, d := bitsAt w 13 6, a := bitsAt w 19 6, b := bitsAt w 25 6 }) else
  if fld w 31 1 = 1 then .ok (.shr { m := m, g := guardOf w, d := bitsAt w 13 6, a := bitsAt w 19 6, b := bitsAt w 25 6 }) else
  .error .reservedFunction

/-- Major 0x0E (R45, R47): SAR, ROT. -/
def parse0E (m : Option Mod) (w : Nat) : Except Reject Instr :=
  if fld w 31 1 = 0 then .ok (.sar { m := m, g := guardOf w, d := bitsAt w 13 6, a := bitsAt w 19 6, b := bitsAt w 25 6 }) else
  if fld w 31 1 = 1 then .ok (.rot { m := m, g := guardOf w, d := bitsAt w 13 6, a := bitsAt w 19 6, b := bitsAt w 25 6 }) else
  .error .reservedFunction

/-- Major 0x0F (R45, R47): BFX, BFX_I32. -/
def parse0F (m : Option Mod) (w : Nat) : Except Reject Instr :=
  if fld w 31 1 = 0 then .ok (.bfx { m := m, g := guardOf w, d := bitsAt w 13 6, a := bitsAt w 19 6, b := bitsAt w 25 6 }) else
  if fld w 31 1 = 1 then .ok (.bfxI32 { m := m, g := guardOf w, d := bitsAt w 13 6, a := bitsAt w 19 6, b := bitsAt w 25 6 }) else
  .error .reservedFunction

/-- Major 0x10 (R45, R47): BFI. -/
def parse10 (m : Option Mod) (w : Nat) : Except Reject Instr :=
  .ok (.bfi { m := m, g := guardOf w, d := bitsAt w 13 6, a := bitsAt w 19 6, b := bitsAt w 25 6 })

/-- Major 0x11 (R45, R47): FADD, FSUB. -/
def parse11 (m : Option Mod) (w : Nat) : Except Reject Instr :=
  if fld w 31 1 = 0 then .ok (.fadd { m := m, g := guardOf w, d := bitsAt w 13 6, a := bitsAt w 19 6, b := bitsAt w 25 6 }) else
  if fld w 31 1 = 1 then .ok (.fsub { m := m, g := guardOf w, d := bitsAt w 13 6, a := bitsAt w 19 6, b := bitsAt w 25 6 }) else
  .error .reservedFunction

/-- Major 0x12 (R45, R47): FMUL. -/
def parse12 (m : Option Mod) (w : Nat) : Except Reject Instr :=
  .ok (.fmul { m := m, g := guardOf w, d := bitsAt w 13 6, a := bitsAt w 19 6, b := bitsAt w 25 6 })

/-- Major 0x13 (R45, R47): FFMA. -/
def parse13 (m : Option Mod) (w : Nat) : Except Reject Instr :=
  .ok (.ffma { m := m, g := guardOf w, d := bitsAt w 13 6, a := bitsAt w 19 6, b := bitsAt w 25 6 })

/-- Major 0x14 (R45, R47): FMIN, FMAX. -/
def parse14 (m : Option Mod) (w : Nat) : Except Reject Instr :=
  if fld w 31 1 = 0 then .ok (.fmin { m := m, g := guardOf w, d := bitsAt w 13 6, a := bitsAt w 19 6, b := bitsAt w 25 6 }) else
  if fld w 31 1 = 1 then .ok (.fmax { m := m, g := guardOf w, d := bitsAt w 13 6, a := bitsAt w 19 6, b := bitsAt w 25 6 }) else
  .error .reservedFunction

/-- Major 0x15 (R45, R47): FCMP. -/
def parse15 (m : Option Mod) (w : Nat) : Except Reject Instr :=
  .ok (.fcmp { m := m, g := guardOf w, c := BitVec.ofNat 2 (2 * fld w 18 1 + fld w 31 1), p := bitsAt w 13 5, a := bitsAt w 19 6, b := bitsAt w 25 6 })

/-- Major 0x16 (R45, R47): HADD2, HMUL2. -/
def parse16 (m : Option Mod) (w : Nat) : Except Reject Instr :=
  if fld w 31 1 = 0 then .ok (.hadd2 { m := m, g := guardOf w, d := bitsAt w 13 6, a := bitsAt w 19 6, b := bitsAt w 25 6 }) else
  if fld w 31 1 = 1 then .ok (.hmul2 { m := m, g := guardOf w, d := bitsAt w 13 6, a := bitsAt w 19 6, b := bitsAt w 25 6 }) else
  .error .reservedFunction

/-- Major 0x17 (R45, R47): HFMA2. -/
def parse17 (m : Option Mod) (w : Nat) : Except Reject Instr :=
  .ok (.hfma2 { m := m, g := guardOf w, d := bitsAt w 13 6, a := bitsAt w 19 6, b := bitsAt w 25 6 })

/-- Major 0x18 (R45, R47): MOVI. -/
def parse18 (m : Option Mod) (w : Nat) : Except Reject Instr :=
  .ok (.movi { m := m, g := guardOf w, d := bitsAt w 13 6, imm := bitsAt w 19 13 })

/-- Major 0x19 (R45, R47): IADD_IMM. -/
def parse19 (m : Option Mod) (w : Nat) : Except Reject Instr :=
  .ok (.iaddImm { m := m, g := guardOf w, d := bitsAt w 13 6, a := bitsAt w 19 6, imm := bitsAt w 25 7 })

/-- Major 0x1A (R45, R47): UADD, USUB, UMUL, UAND. -/
def parse1A (m : Option Mod) (w : Nat) : Except Reject Instr :=
  if fld w 30 1 = 0 ∧ fld w 31 1 = 0 then .ok (.uadd { m := m, g := guardOf w, d := bitsAt w 13 6, a := bitsAt w 19 6, b := bitsAt w 25 5 }) else
  if fld w 30 1 = 0 ∧ fld w 31 1 = 1 then .ok (.usub { m := m, g := guardOf w, d := bitsAt w 13 6, a := bitsAt w 19 6, b := bitsAt w 25 5 }) else
  if fld w 30 1 = 1 ∧ fld w 31 1 = 0 then .ok (.umul { m := m, g := guardOf w, d := bitsAt w 13 6, a := bitsAt w 19 6, b := bitsAt w 25 5 }) else
  if fld w 30 1 = 1 ∧ fld w 31 1 = 1 then .ok (.uand { m := m, g := guardOf w, d := bitsAt w 13 6, a := bitsAt w 19 6, b := bitsAt w 25 5 }) else
  .error .reservedFunction

/-- Major 0x1B (R45, R47): UOR, USHL, UMOV, UCMP. -/
def parse1B (m : Option Mod) (w : Nat) : Except Reject Instr :=
  if fld w 30 1 = 0 ∧ fld w 31 1 = 0 then .ok (.uor { m := m, g := guardOf w, d := bitsAt w 13 6, a := bitsAt w 19 6, b := bitsAt w 25 5 }) else
  if fld w 30 1 = 0 ∧ fld w 31 1 = 1 then .ok (.ushl { m := m, g := guardOf w, d := bitsAt w 13 6, a := bitsAt w 19 6, b := bitsAt w 25 5 }) else
  if fld w 30 1 = 1 ∧ fld w 31 1 = 0 then .ok (.umov { m := m, g := guardOf w, d := bitsAt w 13 6, a := bitsAt w 19 6 }) else
  if fld w 30 1 = 1 ∧ fld w 31 1 = 1 then .ok (.ucmp { m := m, g := guardOf w, p := bitsAt w 13 5, lt := bitAt w 18, a := bitsAt w 19 6, b := bitsAt w 25 5 }) else
  .error .reservedFunction

/-- Major 0x1C (R45, R47): CVT, CVTPK, CVTUNPK. -/
def parse1C (m : Option Mod) (w k : Nat) : Except Reject Instr :=
  if k >>> 12 ≠ 0 then .error .reservedField else
  if fld w 29 3 = 0 then .ok (.cvt { m := m, g := guardOf w, d := bitsAt w 13 6, a := bitsAt w 19 6, pos := bitsAt w 25 4, dst := bitsAt k 0 6, src := bitsAt k 6 6 }) else
  if fld w 29 3 = 1 then .ok (.cvtpk { m := m, g := guardOf w, d := bitsAt w 13 6, a := bitsAt w 19 6, pos := bitsAt w 25 4, dst := bitsAt k 0 6, src := bitsAt k 6 6 }) else
  if fld w 29 3 = 2 then .ok (.cvtunpk { m := m, g := guardOf w, d := bitsAt w 13 6, a := bitsAt w 19 6, pos := bitsAt w 25 4, dst := bitsAt k 0 6, src := bitsAt k 6 6 }) else
  .error .reservedFunction

/-- Major 0x1D (R45, R47): MOV, MOV_B64, NOT, INEG, IABS, POPC, CLZ, CTZ, BREV, FRCP, FRSQ, FSQRT, FEXP2, FLOG2. -/
def parse1D (m : Option Mod) (w : Nat) : Except Reject Instr :=
  if fld w 25 7 = 0 then .ok (.mov { m := m, g := guardOf w, d := bitsAt w 13 6, a := bitsAt w 19 6 }) else
  if fld w 25 7 = 1 then .ok (.movB64 { m := m, g := guardOf w, d := bitsAt w 13 6, a := bitsAt w 19 6 }) else
  if fld w 25 7 = 2 then .ok (.not { m := m, g := guardOf w, d := bitsAt w 13 6, a := bitsAt w 19 6 }) else
  if fld w 25 7 = 3 then .ok (.ineg { m := m, g := guardOf w, d := bitsAt w 13 6, a := bitsAt w 19 6 }) else
  if fld w 25 7 = 4 then .ok (.iabs { m := m, g := guardOf w, d := bitsAt w 13 6, a := bitsAt w 19 6 }) else
  if fld w 25 7 = 5 then .ok (.popc { m := m, g := guardOf w, d := bitsAt w 13 6, a := bitsAt w 19 6 }) else
  if fld w 25 7 = 6 then .ok (.clz { m := m, g := guardOf w, d := bitsAt w 13 6, a := bitsAt w 19 6 }) else
  if fld w 25 7 = 7 then .ok (.ctz { m := m, g := guardOf w, d := bitsAt w 13 6, a := bitsAt w 19 6 }) else
  if fld w 25 7 = 8 then .ok (.brev { m := m, g := guardOf w, d := bitsAt w 13 6, a := bitsAt w 19 6 }) else
  if fld w 25 7 = 0x10 then .ok (.frcp { m := m, g := guardOf w, d := bitsAt w 13 6, a := bitsAt w 19 6 }) else
  if fld w 25 7 = 0x11 then .ok (.frsq { m := m, g := guardOf w, d := bitsAt w 13 6, a := bitsAt w 19 6 }) else
  if fld w 25 7 = 0x12 then .ok (.fsqrt { m := m, g := guardOf w, d := bitsAt w 13 6, a := bitsAt w 19 6 }) else
  if fld w 25 7 = 0x13 then .ok (.fexp2 { m := m, g := guardOf w, d := bitsAt w 13 6, a := bitsAt w 19 6 }) else
  if fld w 25 7 = 0x14 then .ok (.flog2 { m := m, g := guardOf w, d := bitsAt w 13 6, a := bitsAt w 19 6 }) else
  .error .reservedFunction

/-- Major 0x1E (R45, R47): SHFL_XOR, SHFL, SHFL_IDX, QSWZ, QBCST, VOTE_ALL, VOTE_ANY, VOTE_UNI, BALLOT, LREDUCE_ADD_I32, LREDUCE_ADD_F32, LREDUCE_MIN_I32, LREDUCE_MAX_I32, LREDUCE_MIN_F32, LREDUCE_MAX_F32, LREDUCE_OR_B32, LREDUCE_AND_B32, PREFIX_ADD_I32, PREFIX_ADD_I32_EX, PREFIX_ADD_F32, PREFIX_ADD_F32_EX, UMOVV, UBCST, BMAND, POPCP, ISECT. -/
def parse1E (m : Option Mod) (w : Nat) : Except Reject Instr :=
  if fld w 30 2 = 0 then .ok (.shflXor { m := m, g := guardOf w, d := bitsAt w 13 6, a := bitsAt w 19 6, k := bitsAt w 25 5 }) else
  if fld w 30 2 = 1 then .ok (.shfl { m := m, g := guardOf w, d := bitsAt w 13 6, a := bitsAt w 19 6, k := bitsAt w 25 5 }) else
  if fld w 25 7 = 0x40 then .ok (.shflIdx { m := m, g := guardOf w, d := bitsAt w 13 6, a := bitsAt w 19 6 }) else
  if fld w 27 5 = 0x11 then .ok (.qswz { m := m, g := guardOf w, d := bitsAt w 13 6, a := bitsAt w 19 6, k := bitsAt w 25 2 }) else
  if fld w 27 5 = 0x12 then .ok (.qbcst { m := m, g := guardOf w, d := bitsAt w 13 6, a := bitsAt w 19 6, k := bitsAt w 25 2 }) else
  if fld w 25 7 = 0x4c then .ok (.voteAll { m := m, g := guardOf w, d := bitsAt w 13 5, a := bitsAt w 19 5 }) else
  if fld w 25 7 = 0x4d then .ok (.voteAny { m := m, g := guardOf w, d := bitsAt w 13 5, a := bitsAt w 19 5 }) else
  if fld w 25 7 = 0x4e then .ok (.voteUni { m := m, g := guardOf w, d := bitsAt w 13 5, a := bitsAt w 19 5 }) else
  if fld w 25 7 = 0x4f then .ok (.ballot { m := m, g := guardOf w, d := bitsAt w 13 6, a := bitsAt w 19 5 }) else
  if fld w 25 7 = 0x50 then .ok (.lreduceAddI32 { m := m, g := guardOf w, d := bitsAt w 13 6, a := bitsAt w 19 6 }) else
  if fld w 25 7 = 0x51 then .ok (.lreduceAddF32 { m := m, g := guardOf w, d := bitsAt w 13 6, a := bitsAt w 19 6 }) else
  if fld w 25 7 = 0x52 then .ok (.lreduceMinI32 { m := m, g := guardOf w, d := bitsAt w 13 6, a := bitsAt w 19 6 }) else
  if fld w 25 7 = 0x53 then .ok (.lreduceMaxI32 { m := m, g := guardOf w, d := bitsAt w 13 6, a := bitsAt w 19 6 }) else
  if fld w 25 7 = 0x54 then .ok (.lreduceMinF32 { m := m, g := guardOf w, d := bitsAt w 13 6, a := bitsAt w 19 6 }) else
  if fld w 25 7 = 0x55 then .ok (.lreduceMaxF32 { m := m, g := guardOf w, d := bitsAt w 13 6, a := bitsAt w 19 6 }) else
  if fld w 25 7 = 0x56 then .ok (.lreduceOrB32 { m := m, g := guardOf w, d := bitsAt w 13 6, a := bitsAt w 19 6 }) else
  if fld w 25 7 = 0x57 then .ok (.lreduceAndB32 { m := m, g := guardOf w, d := bitsAt w 13 6, a := bitsAt w 19 6 }) else
  if fld w 25 7 = 0x58 then .ok (.prefixAddI32 { m := m, g := guardOf w, d := bitsAt w 13 6, a := bitsAt w 19 6 }) else
  if fld w 25 7 = 0x59 then .ok (.prefixAddI32Ex { m := m, g := guardOf w, d := bitsAt w 13 6, a := bitsAt w 19 6 }) else
  if fld w 25 7 = 0x5a then .ok (.prefixAddF32 { m := m, g := guardOf w, d := bitsAt w 13 6, a := bitsAt w 19 6 }) else
  if fld w 25 7 = 0x5b then .ok (.prefixAddF32Ex { m := m, g := guardOf w, d := bitsAt w 13 6, a := bitsAt w 19 6 }) else
  if fld w 25 7 = 0x5c then .ok (.umovv { m := m, g := guardOf w, d := bitsAt w 13 6, a := bitsAt w 19 6 }) else
  if fld w 25 7 = 0x5d then .ok (.ubcst { m := m, g := guardOf w, d := bitsAt w 13 6, a := bitsAt w 19 6 }) else
  if fld w 25 7 = 0x5e then .ok (.bmand { m := m, g := guardOf w, d := bitsAt w 13 6, a := bitsAt w 19 6 }) else
  if fld w 25 7 = 0x5f then .ok (.popcp { m := m, g := guardOf w, d := bitsAt w 13 6, a := bitsAt w 19 6 }) else
  if fld w 30 2 = 3 then .ok (.isect { m := m, g := guardOf w, d := bitsAt w 13 6, a := bitsAt w 19 6, p := bitsAt w 25 5 }) else
  .error .reservedFunction

/-- Major 0x1F (R45, R47): PAND, POR, PXOR. -/
def parse1F (m : Option Mod) (w : Nat) : Except Reject Instr :=
  if fld w 30 2 = 0 then .ok (.pand { m := m, g := guardOf w, d := bitsAt w 13 5, a := bitsAt w 19 5, b := bitsAt w 25 5 }) else
  if fld w 30 2 = 1 then .ok (.por { m := m, g := guardOf w, d := bitsAt w 13 5, a := bitsAt w 19 5, b := bitsAt w 25 5 }) else
  if fld w 30 2 = 2 then .ok (.pxor { m := m, g := guardOf w, d := bitsAt w 13 5, a := bitsAt w 19 5, b := bitsAt w 25 5 }) else
  .error .reservedFunction

/-- Major 0x20 (R45, R47): LD. -/
def parse20 (m : Option Mod) (w : Nat) : Except Reject Instr :=
  .ok (.ld { m := m, g := guardOf w, d := bitsAt w 13 6, b := bitsAt w 19 6, size := bitsAt w 25 2, order := bitsAt w 27 2, scope := bitsAt w 29 3 })

/-- Major 0x21 (R45, R47): LD_DISP. -/
def parse21 (m : Option Mod) (w k : Nat) : Except Reject Instr :=
  .ok (.ldDisp { m := m, g := guardOf w, d := bitsAt w 13 6, b := bitsAt w 19 6, size := bitsAt w 25 2, order := bitsAt w 27 2, scope := bitsAt w 29 3, disp := bitsAt k 0 32 })

/-- Major 0x22 (R45, R47): LD_SEXT. -/
def parse22 (m : Option Mod) (w k : Nat) : Except Reject Instr :=
  .ok (.ldSext { m := m, g := guardOf w, d := bitsAt w 13 6, b := bitsAt w 19 6, size := bitsAt w 25 2, order := bitsAt w 27 2, scope := bitsAt w 29 3, disp := bitsAt k 0 32 })

/-- Major 0x23 (R45, R47): ST. -/
def parse23 (m : Option Mod) (w : Nat) : Except Reject Instr :=
  .ok (.st { m := m, g := guardOf w, d := bitsAt w 13 6, b := bitsAt w 19 6, size := bitsAt w 25 2, order := bitsAt w 27 2, scope := bitsAt w 29 3 })

/-- Major 0x24 (R45, R47): ST_DISP. -/
def parse24 (m : Option Mod) (w k : Nat) : Except Reject Instr :=
  .ok (.stDisp { m := m, g := guardOf w, d := bitsAt w 13 6, b := bitsAt w 19 6, size := bitsAt w 25 2, order := bitsAt w 27 2, scope := bitsAt w 29 3, disp := bitsAt k 0 32 })

/-- Major 0x25 (R45, R47): ATOM_CAS, ATOM. -/
def parse25 (m : Option Mod) (w k : Nat) : Except Reject Instr :=
  if k >>> 17 ≠ 0 then .error .reservedField else
  if fld k 0 4 = 7 then .ok (.atomCas { m := m, g := guardOf w, d := bitsAt w 13 6, b := bitsAt w 19 6, size := bitsAt w 25 2, order := bitsAt w 27 2, scope := bitsAt w 29 3, val := bitsAt k 5 6, cmp := bitsAt k 11 6 }) else
  .ok (.atom { m := m, g := guardOf w, d := bitsAt w 13 6, b := bitsAt w 19 6, size := bitsAt w 25 2, order := bitsAt w 27 2, scope := bitsAt w 29 3, op := bitsAt k 0 4, u := bitAt k 4, val := bitsAt k 5 6 })

/-- Major 0x26 (R45, R47): RED. -/
def parse26 (m : Option Mod) (w k : Nat) : Except Reject Instr :=
  if k >>> 17 ≠ 0 then .error .reservedField else
  .ok (.red { m := m, g := guardOf w, d := bitsAt w 13 6, b := bitsAt w 19 6, size := bitsAt w 25 2, order := bitsAt w 27 2, scope := bitsAt w 29 3, op := bitsAt k 0 4, u := bitAt k 4 })

/-- Major 0x27 (R45, R47): FENCE, FENCE_SC, FENCEX, PREF, CWB, CINV, CASEMODE, FPUSH, FPOP. -/
def parse27 (m : Option Mod) (w : Nat) : Except Reject Instr :=
  if fld w 25 4 = 3 ∧ fld w 15 4 ≠ 0 then .error .levelField else
  if fld w 25 4 = 0 then .ok (.fence { m := m, g := guardOf w, scope := bitsAt w 29 3 }) else
  if fld w 25 4 = 1 then .ok (.fenceSc { m := m, g := guardOf w, scope := bitsAt w 29 3 }) else
  if fld w 25 4 = 2 then .ok (.fencex { m := m, g := guardOf w, p := bitsAt w 13 3, q := bitsAt w 16 3, scope := bitsAt w 29 3 }) else
  if fld w 25 4 = 3 then .ok (.pref { m := m, g := guardOf w, level := bitsAt w 13 2, b := bitsAt w 19 6 }) else
  if fld w 25 4 = 4 then .ok (.cwb { m := m, g := guardOf w, b := bitsAt w 19 6, scope := bitsAt w 29 3 }) else
  if fld w 25 4 = 5 then .ok (.cinv { m := m, g := guardOf w, b := bitsAt w 19 6 }) else
  if fld w 25 4 = 6 then .ok (.casemode { m := m, g := guardOf w, d := bitsAt w 13 6, b := bitsAt w 19 6 }) else
  if fld w 25 4 = 7 then .ok (.fpush { m := m, g := guardOf w, d := bitsAt w 13 6, b := bitsAt w 19 6 }) else
  if fld w 25 4 = 8 then .ok (.fpop { m := m, g := guardOf w, d := bitsAt w 13 6, b := bitsAt w 19 6 }) else
  .error .reservedFunction

/-- Major 0x28 (R45, R47): BRA. -/
def parse28 (w : Nat) : Except Reject Instr :=
  .ok (.bra { g := guardOf w, off := bitsAt w 13 19 })

/-- Major 0x29 (R45, R47): BRU. -/
def parse29 (w : Nat) : Except Reject Instr :=
  .ok (.bru { g := guardOf w, off := bitsAt w 13 19 })

/-- Major 0x2A (R45, R47): BRD. -/
def parse2A (w : Nat) : Except Reject Instr :=
  .ok (.brd { g := guardOf w, r := bitsAt w 13 6, off := bitsAt w 19 13 })

/-- Major 0x2B (R45, R47): BRX, CALLX, RET. -/
def parse2B (w : Nat) : Except Reject Instr :=
  if fld w 25 7 = 0 then .ok (.brx { g := guardOf w, a := bitsAt w 19 6 }) else
  if fld w 25 7 = 1 then .ok (.callx { g := guardOf w, d := bitsAt w 13 6, a := bitsAt w 19 6 }) else
  if fld w 25 7 = 2 then .ok (.ret { g := guardOf w, a := bitsAt w 19 6 }) else
  .error .reservedFunction

/-- Major 0x2C (R45, R47): CALL. -/
def parse2C (w : Nat) : Except Reject Instr :=
  .ok (.call { g := guardOf w, r := bitsAt w 13 6, off := bitsAt w 19 13 })

/-- Major 0x2D (R45, R47): SPLIT. -/
def parse2D (w : Nat) : Except Reject Instr :=
  .ok (.split { g := guardOf w, off := bitsAt w 13 19 })

/-- Major 0x2E (R45, R47): NOP, JOIN, WAIT, EXIT, YIELD, REGION, BKPT, TRAP, ERET. -/
def parse2E (w : Nat) : Except Reject Instr :=
  if fld w 25 7 = 0 then .ok (.nop { g := guardOf w }) else
  if fld w 25 7 = 1 then .ok (.join { g := guardOf w }) else
  if fld w 25 7 = 2 then .ok (.wait { g := guardOf w }) else
  if fld w 25 7 = 3 then .ok (.exit { g := guardOf w }) else
  if fld w 25 7 = 4 then .ok (.yield { g := guardOf w }) else
  if fld w 25 7 = 5 then .ok (.region { g := guardOf w }) else
  if fld w 25 7 = 6 then .ok (.bkpt { g := guardOf w, code := bitsAt w 19 6 }) else
  if fld w 25 7 = 7 then .ok (.trap { g := guardOf w, code := bitsAt w 19 6 }) else
  if fld w 25 7 = 8 then .ok (.eret { g := guardOf w }) else
  .error .reservedFunction

/-- Major 0x30 (R45, R47): MLOAD, MLOADS. -/
def parse30 (w k : Nat) : Except Reject Instr :=
  if k >>> 22 ≠ 0 then .error .reservedField else
  if fld w 31 1 = 0 then .ok (.mload { g := guardOf w, e1 := bitsAt w 13 6, fmt := bitsAt k 0 6, sc := bitAt k 6, vb := bitsAt k 7 6, bs := bitsAt k 13 4 }) else
  if fld w 31 1 = 1 then .ok (.mloads { g := guardOf w, e1 := bitsAt w 13 6, e2 := bitsAt w 19 6, fmt := bitsAt k 0 6, sc := bitAt k 6, vb := bitsAt k 7 6, bs := bitsAt k 13 4 }) else
  .error .reservedFunction

/-- Major 0x31 (R45, R47): MSTREAM, MSTREAMS. -/
def parse31 (w k : Nat) : Except Reject Instr :=
  if k >>> 22 ≠ 0 then .error .reservedField else
  if fld w 31 1 = 0 then .ok (.mstream { g := guardOf w, e1 := bitsAt w 13 6, e2 := bitsAt w 19 6, fmt := bitsAt k 0 6, sc := bitAt k 6, vb := bitsAt k 7 6, bs := bitsAt k 13 4, tile := bitsAt k 17 2, sat := bitAt k 19, swap := bitAt k 20, win := bitAt k 21 }) else
  if fld w 31 1 = 1 then .ok (.mstreams { g := guardOf w, e1 := bitsAt w 13 6, e2 := bitsAt w 19 6, e3 := bitsAt w 25 6, fmt := bitsAt k 0 6, sc := bitAt k 6, vb := bitsAt k 7 6, bs := bitsAt k 13 4, tile := bitsAt k 17 2, sat := bitAt k 19, swap := bitAt k 20, win := bitAt k 21 }) else
  .error .reservedFunction

/-- Major 0x32 (R45, R47): MDRAIN. -/
def parse32 (w k : Nat) : Except Reject Instr :=
  if k >>> 21 ≠ 0 then .error .reservedField else
  .ok (.mdrain { g := guardOf w, e1 := bitsAt w 13 6, e2 := bitsAt w 19 6, e3 := bitsAt w 25 6, dfmt := bitsAt k 0 6, rfmt := bitsAt k 6 6, res := bitAt k 12, tile := bitsAt k 13 2, rnd := bitsAt k 15 3, sat := bitAt k 18, zr := bitAt k 19, it := bitAt k 20 })

/-- Major 0x33 (R45, R47): MCTX_ACQ, MCTX_REL, MSWAP, MZERO, MMOVA, MMOVV, MWAIT, MSTAT, MSTEP_GET, MSTEP_SET, IMPSTAT. -/
def parse33 (w : Nat) : Except Reject Instr :=
  if fld w 19 1 = 0 ∧ fld w 25 7 = 0 then .ok (.mctxAcq { g := guardOf w }) else
  if fld w 19 1 = 1 ∧ fld w 25 7 = 0 then .ok (.mctxRel { g := guardOf w }) else
  if fld w 25 7 = 1 then .ok (.mswap { g := guardOf w }) else
  if fld w 25 7 = 2 then .ok (.mzero { g := guardOf w, tile := bitsAt w 13 2 }) else
  if fld w 25 7 = 3 then .ok (.mmova { g := guardOf w, d := bitsAt w 13 6, a := bitsAt w 19 6 }) else
  if fld w 25 7 = 4 then .ok (.mmovv { g := guardOf w, d := bitsAt w 13 6, a := bitsAt w 19 6 }) else
  if fld w 25 7 = 5 then .ok (.mwait { g := guardOf w }) else
  if fld w 25 7 = 6 then .ok (.mstat { g := guardOf w, d := bitsAt w 13 6 }) else
  if fld w 25 7 = 7 then .ok (.mstepGet { g := guardOf w, d := bitsAt w 13 6 }) else
  if fld w 25 7 = 8 then .ok (.mstepSet { g := guardOf w, a := bitsAt w 19 6 }) else
  if fld w 25 7 = 9 then .ok (.impstat { g := guardOf w, d := bitsAt w 13 6 }) else
  .error .reservedFunction

/-- Major 0x34 (R45, R47): FETCH, FETCHC. -/
def parse34 (w : Nat) : Except Reject Instr :=
  if fld w 31 1 = 0 then .ok (.fetch { g := guardOf w, d := bitsAt w 13 6, a := bitsAt w 19 6, h := bitsAt w 25 6 }) else
  if fld w 31 1 = 1 then .ok (.fetchc { g := guardOf w, d := bitsAt w 13 6, a := bitsAt w 19 6, h := bitsAt w 25 6 }) else
  .error .reservedFunction

/-- Major 0x35 (R45, R47): HBIND, IMPOSE. -/
def parse35 (w : Nat) : Except Reject Instr :=
  if fld w 31 1 = 0 then .ok (.hbind { g := guardOf w, e1 := bitsAt w 13 6, e2 := bitsAt w 19 6, e3 := bitsAt w 25 6 }) else
  if fld w 31 1 = 1 then .ok (.impose { g := guardOf w, a := bitsAt w 13 6 }) else
  .error .reservedFunction

/-- Major 0x36 (R45, R47): BARW, BARA, BARS, BARC. -/
def parse36 (w : Nat) : Except Reject Instr :=
  if fld w 25 3 = 1 ∧ fld w 29 3 = 0 then .ok (.barw { g := guardOf w, num := bitsAt w 13 4, level := bitsAt w 17 2, mx := bitAt w 28 }) else
  if fld w 25 7 = 0 then .ok (.bara { g := guardOf w, num := bitsAt w 13 4, level := bitsAt w 17 2 }) else
  if fld w 25 7 = 2 then .ok (.bars { g := guardOf w, num := bitsAt w 13 4, level := bitsAt w 17 2, p := bitsAt w 19 5 }) else
  if fld w 25 7 = 3 then .ok (.barc { g := guardOf w, num := bitsAt w 13 4, level := bitsAt w 17 2, s := bitsAt w 19 6 }) else
  .error .reservedFunction

/-- Major 0x37 (R45, R47): TBEGIN_VAL, TBEGIN_TS. -/
def parse37 (w : Nat) : Except Reject Instr :=
  if fld w 13 1 = 0 then .ok (.tbeginVal { g := guardOf w, off := bitsAt w 19 13 }) else
  if fld w 13 1 = 1 then .ok (.tbeginTs { g := guardOf w, off := bitsAt w 19 13 }) else
  .error .reservedFunction

/-- Major 0x38 (R45, R47): TEND, TABORT, TSTAT, SPBEGIN, SPEND. -/
def parse38 (w : Nat) : Except Reject Instr :=
  if fld w 25 7 = 0 then .ok (.tend { g := guardOf w }) else
  if fld w 25 7 = 1 then .ok (.tabort { g := guardOf w, a := bitsAt w 19 6 }) else
  if fld w 25 7 = 2 then .ok (.tstat { g := guardOf w, d := bitsAt w 13 6 }) else
  if fld w 25 7 = 3 then .ok (.spbegin { g := guardOf w, n := bitsAt w 13 6, b := bitsAt w 19 6 }) else
  if fld w 25 7 = 4 then .ok (.spend { g := guardOf w }) else
  .error .reservedFunction

/-- Major 0x39 (R45, R47): LDV, STV, SEALV, FLOORV, VPROBE. -/
def parse39 (w k : Nat) : Except Reject Instr :=
  if k >>> 9 ≠ 0 then .error .reservedField else
  if fld w 27 2 ≠ 0 then .error .orderField else
  if fld w 27 2 = 0 ∧ fld k 6 3 = 0 then .ok (.ldv { g := guardOf w, d := bitsAt w 13 6, b := bitsAt w 19 6, size := bitsAt w 25 2, n := bitsAt k 0 6 }) else
  if fld w 27 2 = 0 ∧ fld k 6 3 = 1 then .ok (.stv { g := guardOf w, d := bitsAt w 13 6, b := bitsAt w 19 6, size := bitsAt w 25 2, n := bitsAt k 0 6 }) else
  if fld w 27 2 = 0 ∧ fld k 6 3 = 2 then .ok (.sealv { g := guardOf w, d := bitsAt w 13 6, b := bitsAt w 19 6, n := bitsAt k 0 6 }) else
  if fld w 27 2 = 0 ∧ fld k 6 3 = 3 then .ok (.floorv { g := guardOf w, d := bitsAt w 13 6, b := bitsAt w 19 6, n := bitsAt k 0 6 }) else
  if fld w 27 2 = 0 ∧ fld k 6 3 = 4 then .ok (.vprobe { g := guardOf w, d := bitsAt w 13 6, b := bitsAt w 19 6, n := bitsAt k 0 6 }) else
  .error .reservedFunction

/-- Major 0x3A (R45, R47): LIGA, LIGNXT, LIGX. -/
def parse3A (w k : Nat) : Except Reject Instr :=
  if fld w 25 2 = 0 then .ok (.liga { g := guardOf w, d := bitsAt w 13 6, a := bitsAt w 19 6, off := bitsAt k 0 32 }) else
  if fld w 25 2 = 1 then .ok (.lignxt { g := guardOf w, d := bitsAt w 13 6, p := bitsAt w 19 5 }) else
  if fld w 25 2 = 2 then .ok (.ligx { g := guardOf w, d := bitsAt w 13 6, a := bitsAt w 19 6, op := bitsAt w 27 2, ty := bitAt w 29 }) else
  .error .reservedFunction

/-- Major 0x3B (R45, R47): SREAD, SYSR. -/
def parse3B (w : Nat) : Except Reject Instr :=
  if fld w 27 5 = 0 then .ok (.sread { g := guardOf w, d := bitsAt w 13 6, s := bitsAt w 19 8 }) else
  .ok (.sysr { g := guardOf w, d := bitsAt w 13 6, s := bitsAt w 19 13 })

/-- Major 0x3C (R45, R47): SYSW_CODEBASE, SYSW_HEAP_WINDOW, SYSW_PRED, SYSW_GSAVE, SYSW_GLOAD, SYSW_BSAVE, SYSW_BLOAD, SYSW_ESAVE, SYSW_ELOAD, SYSW_MIGREL, SYSW. -/
def parse3C (w : Nat) : Except Reject Instr :=
  if fld w 19 13 = 0x100 then .ok (.syswCodebase { g := guardOf w, a := bitsAt w 13 6 }) else
  if 0x101 ≤ fld w 19 13 ∧ fld w 19 13 ≤ 0x103 then .ok (.syswHeapWindow { g := guardOf w, a := bitsAt w 13 6, which := BitVec.ofNat 2 (fld w 19 13 - 0x101) }) else
  if fld w 19 13 = 0x185 then .ok (.syswPred { g := guardOf w, a := bitsAt w 13 6 }) else
  if fld w 19 13 = 0x186 then .ok (.syswGsave { g := guardOf w, a := bitsAt w 13 6 }) else
  if fld w 19 13 = 0x187 then .ok (.syswGload { g := guardOf w, a := bitsAt w 13 6 }) else
  if fld w 19 13 = 0x188 then .ok (.syswBsave { g := guardOf w, a := bitsAt w 13 6 }) else
  if fld w 19 13 = 0x189 then .ok (.syswBload { g := guardOf w, a := bitsAt w 13 6 }) else
  if fld w 19 13 = 0x18a then .ok (.syswEsave { g := guardOf w, a := bitsAt w 13 6 }) else
  if fld w 19 13 = 0x18b then .ok (.syswEload { g := guardOf w, a := bitsAt w 13 6 }) else
  if fld w 19 13 = 0x190 then .ok (.syswMigrel { g := guardOf w, a := bitsAt w 13 6 }) else
  .ok (.sysw { g := guardOf w, a := bitsAt w 13 6, s := bitsAt w 19 13 })

/-- Major 0x3F (R45, R47): LIK_V, LIK_U. -/
def parse3F (w k : Nat) : Except Reject Instr :=
  if fld w 19 1 = 0 then .ok (.likV { g := guardOf w, d := bitsAt w 13 6, k := bitsAt k 0 32 }) else
  if fld w 19 1 = 1 then .ok (.likU { g := guardOf w, d := bitsAt w 13 6, k := bitsAt k 0 32 }) else
  .error .reservedFunction

/-- A long word `w` with its modifier word `m` and constant word `k` (R25, R45). Majors above 0x27 accept no modifier
word (R36). -/
def parseLong (m : Option Mod) (w k : Nat) : Except Reject Instr :=
  let plain (r : Except Reject Instr) : Except Reject Instr :=
    match m with
    | none => r
    | some _ => .error .modifierNotAccepted
  match fld w 1 6 with
  | 0x00 => parse00 m w
  | 0x01 => parse01 m w
  | 0x02 => parse02 m w
  | 0x03 => parse03 m w
  | 0x04 => parse04 m w
  | 0x05 => parse05 m w
  | 0x06 => parse06 m w
  | 0x07 => parse07 m w
  | 0x08 => parse08 m w
  | 0x09 => parse09 m w
  | 0x0A => parse0A m w
  | 0x0B => parse0B m w
  | 0x0C => parse0C m w
  | 0x0D => parse0D m w
  | 0x0E => parse0E m w
  | 0x0F => parse0F m w
  | 0x10 => parse10 m w
  | 0x11 => parse11 m w
  | 0x12 => parse12 m w
  | 0x13 => parse13 m w
  | 0x14 => parse14 m w
  | 0x15 => parse15 m w
  | 0x16 => parse16 m w
  | 0x17 => parse17 m w
  | 0x18 => parse18 m w
  | 0x19 => parse19 m w
  | 0x1A => parse1A m w
  | 0x1B => parse1B m w
  | 0x1C => parse1C m w k
  | 0x1D => parse1D m w
  | 0x1E => parse1E m w
  | 0x1F => parse1F m w
  | 0x20 => parse20 m w
  | 0x21 => parse21 m w k
  | 0x22 => parse22 m w k
  | 0x23 => parse23 m w
  | 0x24 => parse24 m w k
  | 0x25 => parse25 m w k
  | 0x26 => parse26 m w k
  | 0x27 => parse27 m w
  | 0x28 => plain (parse28 w)
  | 0x29 => plain (parse29 w)
  | 0x2A => plain (parse2A w)
  | 0x2B => plain (parse2B w)
  | 0x2C => plain (parse2C w)
  | 0x2D => plain (parse2D w)
  | 0x2E => plain (parse2E w)
  | 0x30 => plain (parse30 w k)
  | 0x31 => plain (parse31 w k)
  | 0x32 => plain (parse32 w k)
  | 0x33 => plain (parse33 w)
  | 0x34 => plain (parse34 w)
  | 0x35 => plain (parse35 w)
  | 0x36 => plain (parse36 w)
  | 0x37 => plain (parse37 w)
  | 0x38 => plain (parse38 w)
  | 0x39 => plain (parse39 w k)
  | 0x3A => plain (parse3A w k)
  | 0x3B => plain (parse3B w)
  | 0x3C => plain (parse3C w)
  | 0x3F => plain (parse3F w k)
  | _ => .error .reservedMajor

/-- Whether a long word is followed by a constant word (R25, R45, R47): it depends on the major opcode, and for major
0x3A on the sub-operation. -/
def takesConst (w : Nat) : Bool :=
  match fld w 1 6 with
  | 0x1C => true
  | 0x21 => true
  | 0x22 => true
  | 0x24 => true
  | 0x25 => true
  | 0x26 => true
  | 0x30 => true
  | 0x31 => true
  | 0x32 => true
  | 0x39 => true
  | 0x3F => true
  | 0x3A => fld w 25 2 == 0
  | _ => false

/-- The bytes of the instruction that starts with the bits `b`, as far as they decide it (R25): 2, 4, 8 or 12. The
length is that of R25 even where the encoding is illegal. -/
def lengthOf (b : Nat) : Nat :=
  if fld b 0 1 = 0 then 2
  else if fld b 1 6 = 0x3E then
    if fld b 32 1 = 0 then 4
    else if takesConst (fld b 32 32) then 12 else 8
  else if takesConst (fld b 0 32) then 8 else 4

/-- The instruction that the bits `b` hold, its first halfword lowest, before the checks of `check` (R25, R36). -/
def parse (b : Nat) : Except Reject Instr :=
  if fld b 0 1 = 0 then .ok (parseShort (fld b 0 16))
  else if fld b 1 6 = 0x3E then
    if fld b 29 3 ≠ 0 then .error .modifierReserved
    else if fld b 32 1 = 0 then .error .modifierBeforeShort
    else if fld b 33 6 = 0x3E then .error .modifierTwice
    else parseLong (some (modOf (fld b 0 32))) (fld b 32 32) (fld b 64 32)
  else parseLong none (fld b 0 32) (fld b 32 32)

/-- The decoder: the well-formed instruction the bits hold and its length in bytes, or why there is none (R46). -/
def decode (b : Nat) : Except Reject (Instr × Nat) :=
  match parse b with
  | .error r => .error r
  | .ok i =>
    match check i with
    | some r => .error r
    | none => .ok (i, lengthOf b)

/-- The decoder on bytes, the one at the lowest address first (R4). -/
def decodeBytes (bs : List Byte) : Except Reject (Instr × Nat) := decode (ofLeBytes (bs.take 12))

/-- The instruction this decoder reads from an instruction whose bits are `w`, as the opcode table numbers them, every
bit at or above `nbits` zero. -/
def decodeTableWord (nbits w : Nat) : Option Instr :=
  match decode (w % 2 ^ nbits) with
  | .ok (i, _) => some i
  | .error _ => none

/-- An instruction's bits and its length in bytes. -/
structure Code where
  bits : Nat
  len : Nat
deriving DecidableEq, Repr

/-- The bits of a modifier word (R35). -/
def modBits (m : Mod) : Nat :=
  0x7D + 0x80 * bit m.sat + 0x100 * m.clmp.toNat + 0x400 * bit m.nega + 0x800 * bit m.absa + 0x1000 * bit m.negb +
  0x2000 * bit m.absb + 0x4000 * bit m.negc + 0x8000 * bit m.absc + 0x10000 * m.scl.toNat + 0x800000 * m.rnd.toNat +
  0x4000000 * bit m.qf + 0x8000000 * bit m.wa + 0x10000000 * bit m.wb

/-- The bits of a long word from its major opcode, its guard and its body, already in place (R29). -/
def longBits (major : Nat) (g : Guard) (body : Nat) : Nat :=
  1 + 2 * major + 0x80 * g.gp.toNat + 0x1000 * bit g.gs + body

/-- A long instruction without constant word. -/
def long (m : Option Mod) (major : Nat) (g : Guard) (body : Nat) : Code :=
  match m with
  | none => { bits := longBits major g body, len := 4 }
  | some m => { bits := modBits m + 2 ^ 32 * longBits major g body, len := 8 }

/-- A long instruction with the constant word `k`. -/
def longK (m : Option Mod) (major : Nat) (g : Guard) (body k : Nat) : Code :=
  match m with
  | none => { bits := longBits major g body + 2 ^ 32 * k, len := 8 }
  | some m => { bits := modBits m + 2 ^ 32 * longBits major g body + 2 ^ 64 * k, len := 12 }

/-- A short instruction (R28). -/
def short (op : Nat) (f : ShortF) : Code := { bits := 2 * op + 0x20 * f.d.toNat + 0x800 * f.s.toNat, len := 2 }

/-- The encoder: the bits of an instruction, ignored fields zero (R45); events have none. -/
def encode (i : Instr) : Option Code :=
  match i with
  | .movShort f => some (short 0 f)
  | .iaddShort f => some (short 1 f)
  | .isubShort f => some (short 2 f)
  | .imulShort f => some (short 3 f)
  | .andShort f => some (short 4 f)
  | .orShort f => some (short 5 f)
  | .xorShort f => some (short 6 f)
  | .shlShort f => some (short 7 f)
  | .shrShort f => some (short 8 f)
  | .sarShort f => some (short 9 f)
  | .iminShort f => some (short 10 f)
  | .imaxShort f => some (short 11 f)
  | .faddShort f => some (short 12 f)
  | .fsubShort f => some (short 13 f)
  | .fmulShort f => some (short 14 f)
  | .fmaxShort f => some (short 15 f)
  | .iadd f => some (long f.m 0x00 f.g (f.d.toNat * 0x2000 + f.a.toNat * 0x80000 + f.b.toNat * 0x2000000))
  | .iaddI64 f => some (long f.m 0x00 f.g (f.d.toNat * 0x2000 + f.a.toNat * 0x80000 + f.b.toNat * 0x2000000 + 0x80000000))
  | .isub f => some (long f.m 0x01 f.g (f.d.toNat * 0x2000 + f.a.toNat * 0x80000 + f.b.toNat * 0x2000000))
  | .isubI64 f => some (long f.m 0x01 f.g (f.d.toNat * 0x2000 + f.a.toNat * 0x80000 + f.b.toNat * 0x2000000 + 0x80000000))
  | .imul f => some (long f.m 0x02 f.g (f.d.toNat * 0x2000 + f.a.toNat * 0x80000 + f.b.toNat * 0x2000000))
  | .imulI64 f => some (long f.m 0x02 f.g (f.d.toNat * 0x2000 + f.a.toNat * 0x80000 + f.b.toNat * 0x2000000 + 0x80000000))
  | .imulh f => some (long f.m 0x03 f.g (f.d.toNat * 0x2000 + f.a.toNat * 0x80000 + f.b.toNat * 0x2000000))
  | .imulhZ32 f => some (long f.m 0x03 f.g (f.d.toNat * 0x2000 + f.a.toNat * 0x80000 + f.b.toNat * 0x2000000 + 0x80000000))
  | .imad f => some (long f.m 0x04 f.g (f.d.toNat * 0x2000 + f.a.toNat * 0x80000 + f.b.toNat * 0x2000000))
  | .imadZ64 f => some (long f.m 0x04 f.g (f.d.toNat * 0x2000 + f.a.toNat * 0x80000 + f.b.toNat * 0x2000000 + 0x80000000))
  | .imin f => some (long f.m 0x05 f.g (f.d.toNat * 0x2000 + f.a.toNat * 0x80000 + f.b.toNat * 0x2000000))
  | .iminZ32 f => some (long f.m 0x05 f.g (f.d.toNat * 0x2000 + f.a.toNat * 0x80000 + f.b.toNat * 0x2000000 + 0x80000000))
  | .imax f => some (long f.m 0x06 f.g (f.d.toNat * 0x2000 + f.a.toNat * 0x80000 + f.b.toNat * 0x2000000))
  | .imaxZ32 f => some (long f.m 0x06 f.g (f.d.toNat * 0x2000 + f.a.toNat * 0x80000 + f.b.toNat * 0x2000000 + 0x80000000))
  | .icmp f => some (long f.m 0x07 f.g ((f.c.toNat / 2) * 0x40000 + (f.c.toNat % 2) * 0x80000000 + f.p.toNat * 0x2000 + f.a.toNat * 0x80000 + f.b.toNat * 0x2000000))
  | .icmpZ32 f => some (long f.m 0x08 f.g ((f.c.toNat / 2) * 0x40000 + (f.c.toNat % 2) * 0x80000000 + f.p.toNat * 0x2000 + f.a.toNat * 0x80000 + f.b.toNat * 0x2000000))
  | .sel f => some (long f.m 0x09 f.g (f.d.toNat * 0x2000 + f.a.toNat * 0x80000 + f.b.toNat * 0x2000000))
  | .selB64 f => some (long f.m 0x09 f.g (f.d.toNat * 0x2000 + f.a.toNat * 0x80000 + f.b.toNat * 0x2000000 + 0x80000000))
  | .lea f => some (long f.m 0x0A f.g (f.d.toNat * 0x2000 + f.a.toNat * 0x80000 + f.b.toNat * 0x2000000))
  | .leaZ32 f => some (long f.m 0x0A f.g (f.d.toNat * 0x2000 + f.a.toNat * 0x80000 + f.b.toNat * 0x2000000 + 0x80000000))
  | .and f => some (long f.m 0x0B f.g (f.d.toNat * 0x2000 + f.a.toNat * 0x80000 + f.b.toNat * 0x2000000))
  | .andn f => some (long f.m 0x0B f.g (f.d.toNat * 0x2000 + f.a.toNat * 0x80000 + f.b.toNat * 0x2000000 + 0x80000000))
  | .or f => some (long f.m 0x0C f.g (f.d.toNat * 0x2000 + f.a.toNat * 0x80000 + f.b.toNat * 0x2000000))
  | .xor f => some (long f.m 0x0C f.g (f.d.toNat * 0x2000 + f.a.toNat * 0x80000 + f.b.toNat * 0x2000000 + 0x80000000))
  | .shl f => some (long f.m 0x0D f.g (f.d.toNat * 0x2000 + f.a.toNat * 0x80000 + f.b.toNat * 0x2000000))
  | .shr f => some (long f.m 0x0D f.g (f.d.toNat * 0x2000 + f.a.toNat * 0x80000 + f.b.toNat * 0x2000000 + 0x80000000))
  | .sar f => some (long f.m 0x0E f.g (f.d.toNat * 0x2000 + f.a.toNat * 0x80000 + f.b.toNat * 0x2000000))
  | .rot f => some (long f.m 0x0E f.g (f.d.toNat * 0x2000 + f.a.toNat * 0x80000 + f.b.toNat * 0x2000000 + 0x80000000))
  | .bfx f => some (long f.m 0x0F f.g (f.d.toNat * 0x2000 + f.a.toNat * 0x80000 + f.b.toNat * 0x2000000))
  | .bfxI32 f => some (long f.m 0x0F f.g (f.d.toNat * 0x2000 + f.a.toNat * 0x80000 + f.b.toNat * 0x2000000 + 0x80000000))
  | .bfi f => some (long f.m 0x10 f.g (f.d.toNat * 0x2000 + f.a.toNat * 0x80000 + f.b.toNat * 0x2000000))
  | .fadd f => some (long f.m 0x11 f.g (f.d.toNat * 0x2000 + f.a.toNat * 0x80000 + f.b.toNat * 0x2000000))
  | .fsub f => some (long f.m 0x11 f.g (f.d.toNat * 0x2000 + f.a.toNat * 0x80000 + f.b.toNat * 0x2000000 + 0x80000000))
  | .fmul f => some (long f.m 0x12 f.g (f.d.toNat * 0x2000 + f.a.toNat * 0x80000 + f.b.toNat * 0x2000000))
  | .ffma f => some (long f.m 0x13 f.g (f.d.toNat * 0x2000 + f.a.toNat * 0x80000 + f.b.toNat * 0x2000000))
  | .fmin f => some (long f.m 0x14 f.g (f.d.toNat * 0x2000 + f.a.toNat * 0x80000 + f.b.toNat * 0x2000000))
  | .fmax f => some (long f.m 0x14 f.g (f.d.toNat * 0x2000 + f.a.toNat * 0x80000 + f.b.toNat * 0x2000000 + 0x80000000))
  | .fcmp f => some (long f.m 0x15 f.g ((f.c.toNat / 2) * 0x40000 + (f.c.toNat % 2) * 0x80000000 + f.p.toNat * 0x2000 + f.a.toNat * 0x80000 + f.b.toNat * 0x2000000))
  | .hadd2 f => some (long f.m 0x16 f.g (f.d.toNat * 0x2000 + f.a.toNat * 0x80000 + f.b.toNat * 0x2000000))
  | .hmul2 f => some (long f.m 0x16 f.g (f.d.toNat * 0x2000 + f.a.toNat * 0x80000 + f.b.toNat * 0x2000000 + 0x80000000))
  | .hfma2 f => some (long f.m 0x17 f.g (f.d.toNat * 0x2000 + f.a.toNat * 0x80000 + f.b.toNat * 0x2000000))
  | .movi f => some (long f.m 0x18 f.g (f.d.toNat * 0x2000 + f.imm.toNat * 0x80000))
  | .iaddImm f => some (long f.m 0x19 f.g (f.d.toNat * 0x2000 + f.a.toNat * 0x80000 + f.imm.toNat * 0x2000000))
  | .uadd f => some (long f.m 0x1A f.g (f.d.toNat * 0x2000 + f.a.toNat * 0x80000 + f.b.toNat * 0x2000000))
  | .usub f => some (long f.m 0x1A f.g (f.d.toNat * 0x2000 + f.a.toNat * 0x80000 + f.b.toNat * 0x2000000 + 0x80000000))
  | .umul f => some (long f.m 0x1A f.g (f.d.toNat * 0x2000 + f.a.toNat * 0x80000 + f.b.toNat * 0x2000000 + 0x40000000))
  | .uand f => some (long f.m 0x1A f.g (f.d.toNat * 0x2000 + f.a.toNat * 0x80000 + f.b.toNat * 0x2000000 + 0x40000000 + 0x80000000))
  | .uor f => some (long f.m 0x1B f.g (f.d.toNat * 0x2000 + f.a.toNat * 0x80000 + f.b.toNat * 0x2000000))
  | .ushl f => some (long f.m 0x1B f.g (f.d.toNat * 0x2000 + f.a.toNat * 0x80000 + f.b.toNat * 0x2000000 + 0x80000000))
  | .umov f => some (long f.m 0x1B f.g (f.d.toNat * 0x2000 + f.a.toNat * 0x80000 + 0x40000000))
  | .ucmp f => some (long f.m 0x1B f.g (f.p.toNat * 0x2000 + bit f.lt * 0x40000 + f.a.toNat * 0x80000 + f.b.toNat * 0x2000000 + 0x40000000 + 0x80000000))
  | .cvt f => some (longK f.m 0x1C f.g (f.d.toNat * 0x2000 + f.a.toNat * 0x80000 + f.pos.toNat * 0x2000000) (f.dst.toNat + f.src.toNat * 0x40))
  | .cvtpk f => some (longK f.m 0x1C f.g (f.d.toNat * 0x2000 + f.a.toNat * 0x80000 + f.pos.toNat * 0x2000000 + 0x20000000) (f.dst.toNat + f.src.toNat * 0x40))
  | .cvtunpk f => some (longK f.m 0x1C f.g (f.d.toNat * 0x2000 + f.a.toNat * 0x80000 + f.pos.toNat * 0x2000000 + 0x40000000) (f.dst.toNat + f.src.toNat * 0x40))
  | .mov f => some (long f.m 0x1D f.g (f.d.toNat * 0x2000 + f.a.toNat * 0x80000))
  | .movB64 f => some (long f.m 0x1D f.g (f.d.toNat * 0x2000 + f.a.toNat * 0x80000 + 0x2000000))
  | .not f => some (long f.m 0x1D f.g (f.d.toNat * 0x2000 + f.a.toNat * 0x80000 + 0x4000000))
  | .ineg f => some (long f.m 0x1D f.g (f.d.toNat * 0x2000 + f.a.toNat * 0x80000 + 0x6000000))
  | .iabs f => some (long f.m 0x1D f.g (f.d.toNat * 0x2000 + f.a.toNat * 0x80000 + 0x8000000))
  | .popc f => some (long f.m 0x1D f.g (f.d.toNat * 0x2000 + f.a.toNat * 0x80000 + 0xa000000))
  | .clz f => some (long f.m 0x1D f.g (f.d.toNat * 0x2000 + f.a.toNat * 0x80000 + 0xc000000))
  | .ctz f => some (long f.m 0x1D f.g (f.d.toNat * 0x2000 + f.a.toNat * 0x80000 + 0xe000000))
  | .brev f => some (long f.m 0x1D f.g (f.d.toNat * 0x2000 + f.a.toNat * 0x80000 + 0x10000000))
  | .frcp f => some (long f.m 0x1D f.g (f.d.toNat * 0x2000 + f.a.toNat * 0x80000 + 0x20000000))
  | .frsq f => some (long f.m 0x1D f.g (f.d.toNat * 0x2000 + f.a.toNat * 0x80000 + 0x22000000))
  | .fsqrt f => some (long f.m 0x1D f.g (f.d.toNat * 0x2000 + f.a.toNat * 0x80000 + 0x24000000))
  | .fexp2 f => some (long f.m 0x1D f.g (f.d.toNat * 0x2000 + f.a.toNat * 0x80000 + 0x26000000))
  | .flog2 f => some (long f.m 0x1D f.g (f.d.toNat * 0x2000 + f.a.toNat * 0x80000 + 0x28000000))
  | .shflXor f => some (long f.m 0x1E f.g (f.d.toNat * 0x2000 + f.a.toNat * 0x80000 + f.k.toNat * 0x2000000))
  | .shfl f => some (long f.m 0x1E f.g (f.d.toNat * 0x2000 + f.a.toNat * 0x80000 + f.k.toNat * 0x2000000 + 0x40000000))
  | .shflIdx f => some (long f.m 0x1E f.g (f.d.toNat * 0x2000 + f.a.toNat * 0x80000 + 0x80000000))
  | .qswz f => some (long f.m 0x1E f.g (f.d.toNat * 0x2000 + f.a.toNat * 0x80000 + f.k.toNat * 0x2000000 + 0x88000000))
  | .qbcst f => some (long f.m 0x1E f.g (f.d.toNat * 0x2000 + f.a.toNat * 0x80000 + f.k.toNat * 0x2000000 + 0x90000000))
  | .voteAll f => some (long f.m 0x1E f.g (f.d.toNat * 0x2000 + f.a.toNat * 0x80000 + 0x98000000))
  | .voteAny f => some (long f.m 0x1E f.g (f.d.toNat * 0x2000 + f.a.toNat * 0x80000 + 0x9a000000))
  | .voteUni f => some (long f.m 0x1E f.g (f.d.toNat * 0x2000 + f.a.toNat * 0x80000 + 0x9c000000))
  | .ballot f => some (long f.m 0x1E f.g (f.d.toNat * 0x2000 + f.a.toNat * 0x80000 + 0x9e000000))
  | .lreduceAddI32 f => some (long f.m 0x1E f.g (f.d.toNat * 0x2000 + f.a.toNat * 0x80000 + 0xa0000000))
  | .lreduceAddF32 f => some (long f.m 0x1E f.g (f.d.toNat * 0x2000 + f.a.toNat * 0x80000 + 0xa2000000))
  | .lreduceMinI32 f => some (long f.m 0x1E f.g (f.d.toNat * 0x2000 + f.a.toNat * 0x80000 + 0xa4000000))
  | .lreduceMaxI32 f => some (long f.m 0x1E f.g (f.d.toNat * 0x2000 + f.a.toNat * 0x80000 + 0xa6000000))
  | .lreduceMinF32 f => some (long f.m 0x1E f.g (f.d.toNat * 0x2000 + f.a.toNat * 0x80000 + 0xa8000000))
  | .lreduceMaxF32 f => some (long f.m 0x1E f.g (f.d.toNat * 0x2000 + f.a.toNat * 0x80000 + 0xaa000000))
  | .lreduceOrB32 f => some (long f.m 0x1E f.g (f.d.toNat * 0x2000 + f.a.toNat * 0x80000 + 0xac000000))
  | .lreduceAndB32 f => some (long f.m 0x1E f.g (f.d.toNat * 0x2000 + f.a.toNat * 0x80000 + 0xae000000))
  | .prefixAddI32 f => some (long f.m 0x1E f.g (f.d.toNat * 0x2000 + f.a.toNat * 0x80000 + 0xb0000000))
  | .prefixAddI32Ex f => some (long f.m 0x1E f.g (f.d.toNat * 0x2000 + f.a.toNat * 0x80000 + 0xb2000000))
  | .prefixAddF32 f => some (long f.m 0x1E f.g (f.d.toNat * 0x2000 + f.a.toNat * 0x80000 + 0xb4000000))
  | .prefixAddF32Ex f => some (long f.m 0x1E f.g (f.d.toNat * 0x2000 + f.a.toNat * 0x80000 + 0xb6000000))
  | .umovv f => some (long f.m 0x1E f.g (f.d.toNat * 0x2000 + f.a.toNat * 0x80000 + 0xb8000000))
  | .ubcst f => some (long f.m 0x1E f.g (f.d.toNat * 0x2000 + f.a.toNat * 0x80000 + 0xba000000))
  | .bmand f => some (long f.m 0x1E f.g (f.d.toNat * 0x2000 + f.a.toNat * 0x80000 + 0xbc000000))
  | .popcp f => some (long f.m 0x1E f.g (f.d.toNat * 0x2000 + f.a.toNat * 0x80000 + 0xbe000000))
  | .isect f => some (long f.m 0x1E f.g (f.d.toNat * 0x2000 + f.a.toNat * 0x80000 + f.p.toNat * 0x2000000 + 0xc0000000))
  | .pand f => some (long f.m 0x1F f.g (f.d.toNat * 0x2000 + f.a.toNat * 0x80000 + f.b.toNat * 0x2000000))
  | .por f => some (long f.m 0x1F f.g (f.d.toNat * 0x2000 + f.a.toNat * 0x80000 + f.b.toNat * 0x2000000 + 0x40000000))
  | .pxor f => some (long f.m 0x1F f.g (f.d.toNat * 0x2000 + f.a.toNat * 0x80000 + f.b.toNat * 0x2000000 + 0x80000000))
  | .ld f => some (long f.m 0x20 f.g (f.d.toNat * 0x2000 + f.b.toNat * 0x80000 + f.size.toNat * 0x2000000 + f.order.toNat * 0x8000000 + f.scope.toNat * 0x20000000))
  | .ldDisp f => some (longK f.m 0x21 f.g (f.d.toNat * 0x2000 + f.b.toNat * 0x80000 + f.size.toNat * 0x2000000 + f.order.toNat * 0x8000000 + f.scope.toNat * 0x20000000) (f.disp.toNat))
  | .ldSext f => some (longK f.m 0x22 f.g (f.d.toNat * 0x2000 + f.b.toNat * 0x80000 + f.size.toNat * 0x2000000 + f.order.toNat * 0x8000000 + f.scope.toNat * 0x20000000) (f.disp.toNat))
  | .st f => some (long f.m 0x23 f.g (f.d.toNat * 0x2000 + f.b.toNat * 0x80000 + f.size.toNat * 0x2000000 + f.order.toNat * 0x8000000 + f.scope.toNat * 0x20000000))
  | .stDisp f => some (longK f.m 0x24 f.g (f.d.toNat * 0x2000 + f.b.toNat * 0x80000 + f.size.toNat * 0x2000000 + f.order.toNat * 0x8000000 + f.scope.toNat * 0x20000000) (f.disp.toNat))
  | .atom f => some (longK f.m 0x25 f.g (f.d.toNat * 0x2000 + f.b.toNat * 0x80000 + f.size.toNat * 0x2000000 + f.order.toNat * 0x8000000 + f.scope.toNat * 0x20000000) (f.op.toNat + bit f.u * 0x10 + f.val.toNat * 0x20))
  | .atomCas f => some (longK f.m 0x25 f.g (f.d.toNat * 0x2000 + f.b.toNat * 0x80000 + f.size.toNat * 0x2000000 + f.order.toNat * 0x8000000 + f.scope.toNat * 0x20000000) (0x7 + f.val.toNat * 0x20 + f.cmp.toNat * 0x800))
  | .red f => some (longK f.m 0x26 f.g (f.d.toNat * 0x2000 + f.b.toNat * 0x80000 + f.size.toNat * 0x2000000 + f.order.toNat * 0x8000000 + f.scope.toNat * 0x20000000) (f.op.toNat + bit f.u * 0x10))
  | .fence f => some (long f.m 0x27 f.g (f.scope.toNat * 0x20000000))
  | .fenceSc f => some (long f.m 0x27 f.g (0x2000000 + f.scope.toNat * 0x20000000))
  | .fencex f => some (long f.m 0x27 f.g (f.p.toNat * 0x2000 + f.q.toNat * 0x10000 + 0x4000000 + f.scope.toNat * 0x20000000))
  | .pref f => some (long f.m 0x27 f.g (f.level.toNat * 0x2000 + f.b.toNat * 0x80000 + 0x6000000))
  | .cwb f => some (long f.m 0x27 f.g (f.b.toNat * 0x80000 + 0x8000000 + f.scope.toNat * 0x20000000))
  | .cinv f => some (long f.m 0x27 f.g (f.b.toNat * 0x80000 + 0xa000000))
  | .casemode f => some (long f.m 0x27 f.g (f.d.toNat * 0x2000 + f.b.toNat * 0x80000 + 0xc000000))
  | .fpush f => some (long f.m 0x27 f.g (f.d.toNat * 0x2000 + f.b.toNat * 0x80000 + 0xe000000))
  | .fpop f => some (long f.m 0x27 f.g (f.d.toNat * 0x2000 + f.b.toNat * 0x80000 + 0x10000000))
  | .bra f => some (long none 0x28 f.g (f.off.toNat * 0x2000))
  | .bru f => some (long none 0x29 f.g (f.off.toNat * 0x2000))
  | .brd f => some (long none 0x2A f.g (f.r.toNat * 0x2000 + f.off.toNat * 0x80000))
  | .brx f => some (long none 0x2B f.g (f.a.toNat * 0x80000))
  | .callx f => some (long none 0x2B f.g (f.d.toNat * 0x2000 + f.a.toNat * 0x80000 + 0x2000000))
  | .ret f => some (long none 0x2B f.g (f.a.toNat * 0x80000 + 0x4000000))
  | .call f => some (long none 0x2C f.g (f.r.toNat * 0x2000 + f.off.toNat * 0x80000))
  | .split f => some (long none 0x2D f.g (f.off.toNat * 0x2000))
  | .nop f => some (long none 0x2E f.g (0))
  | .join f => some (long none 0x2E f.g (0x2000000))
  | .wait f => some (long none 0x2E f.g (0x4000000))
  | .exit f => some (long none 0x2E f.g (0x6000000))
  | .yield f => some (long none 0x2E f.g (0x8000000))
  | .region f => some (long none 0x2E f.g (0xa000000))
  | .bkpt f => some (long none 0x2E f.g (f.code.toNat * 0x80000 + 0xc000000))
  | .trap f => some (long none 0x2E f.g (f.code.toNat * 0x80000 + 0xe000000))
  | .eret f => some (long none 0x2E f.g (0x10000000))
  | .mload f => some (longK none 0x30 f.g (f.e1.toNat * 0x2000) (f.fmt.toNat + bit f.sc * 0x40 + f.vb.toNat * 0x80 + f.bs.toNat * 0x2000))
  | .mloads f => some (longK none 0x30 f.g (f.e1.toNat * 0x2000 + f.e2.toNat * 0x80000 + 0x80000000) (f.fmt.toNat + bit f.sc * 0x40 + f.vb.toNat * 0x80 + f.bs.toNat * 0x2000))
  | .mstream f => some (longK none 0x31 f.g (f.e1.toNat * 0x2000 + f.e2.toNat * 0x80000) (f.fmt.toNat + bit f.sc * 0x40 + f.vb.toNat * 0x80 + f.bs.toNat * 0x2000 + f.tile.toNat * 0x20000 + bit f.sat * 0x80000 + bit f.swap * 0x100000 + bit f.win * 0x200000))
  | .mstreams f => some (longK none 0x31 f.g (f.e1.toNat * 0x2000 + f.e2.toNat * 0x80000 + f.e3.toNat * 0x2000000 + 0x80000000) (f.fmt.toNat + bit f.sc * 0x40 + f.vb.toNat * 0x80 + f.bs.toNat * 0x2000 + f.tile.toNat * 0x20000 + bit f.sat * 0x80000 + bit f.swap * 0x100000 + bit f.win * 0x200000))
  | .mdrain f => some (longK none 0x32 f.g (f.e1.toNat * 0x2000 + f.e2.toNat * 0x80000 + f.e3.toNat * 0x2000000) (f.dfmt.toNat + f.rfmt.toNat * 0x40 + bit f.res * 0x1000 + f.tile.toNat * 0x2000 + f.rnd.toNat * 0x8000 + bit f.sat * 0x40000 + bit f.zr * 0x80000 + bit f.it * 0x100000))
  | .mctxAcq f => some (long none 0x33 f.g (0))
  | .mctxRel f => some (long none 0x33 f.g (0x80000))
  | .mswap f => some (long none 0x33 f.g (0x2000000))
  | .mzero f => some (long none 0x33 f.g (f.tile.toNat * 0x2000 + 0x4000000))
  | .mmova f => some (long none 0x33 f.g (f.d.toNat * 0x2000 + f.a.toNat * 0x80000 + 0x6000000))
  | .mmovv f => some (long none 0x33 f.g (f.d.toNat * 0x2000 + f.a.toNat * 0x80000 + 0x8000000))
  | .mwait f => some (long none 0x33 f.g (0xa000000))
  | .mstat f => some (long none 0x33 f.g (f.d.toNat * 0x2000 + 0xc000000))
  | .mstepGet f => some (long none 0x33 f.g (f.d.toNat * 0x2000 + 0xe000000))
  | .mstepSet f => some (long none 0x33 f.g (f.a.toNat * 0x80000 + 0x10000000))
  | .impstat f => some (long none 0x33 f.g (f.d.toNat * 0x2000 + 0x12000000))
  | .fetch f => some (long none 0x34 f.g (f.d.toNat * 0x2000 + f.a.toNat * 0x80000 + f.h.toNat * 0x2000000))
  | .fetchc f => some (long none 0x34 f.g (f.d.toNat * 0x2000 + f.a.toNat * 0x80000 + f.h.toNat * 0x2000000 + 0x80000000))
  | .hbind f => some (long none 0x35 f.g (f.e1.toNat * 0x2000 + f.e2.toNat * 0x80000 + f.e3.toNat * 0x2000000))
  | .impose f => some (long none 0x35 f.g (f.a.toNat * 0x2000 + 0x80000000))
  | .bara f => some (long none 0x36 f.g (f.num.toNat * 0x2000 + f.level.toNat * 0x20000))
  | .barw f => some (long none 0x36 f.g (f.num.toNat * 0x2000 + f.level.toNat * 0x20000 + 0x2000000 + bit f.mx * 0x10000000))
  | .bars f => some (long none 0x36 f.g (f.num.toNat * 0x2000 + f.level.toNat * 0x20000 + f.p.toNat * 0x80000 + 0x4000000))
  | .barc f => some (long none 0x36 f.g (f.num.toNat * 0x2000 + f.level.toNat * 0x20000 + f.s.toNat * 0x80000 + 0x6000000))
  | .tbeginVal f => some (long none 0x37 f.g (f.off.toNat * 0x80000))
  | .tbeginTs f => some (long none 0x37 f.g (0x2000 + f.off.toNat * 0x80000))
  | .tend f => some (long none 0x38 f.g (0))
  | .tabort f => some (long none 0x38 f.g (f.a.toNat * 0x80000 + 0x2000000))
  | .tstat f => some (long none 0x38 f.g (f.d.toNat * 0x2000 + 0x4000000))
  | .spbegin f => some (long none 0x38 f.g (f.n.toNat * 0x2000 + f.b.toNat * 0x80000 + 0x6000000))
  | .spend f => some (long none 0x38 f.g (0x8000000))
  | .ldv f => some (longK none 0x39 f.g (f.d.toNat * 0x2000 + f.b.toNat * 0x80000 + f.size.toNat * 0x2000000) (f.n.toNat))
  | .stv f => some (longK none 0x39 f.g (f.d.toNat * 0x2000 + f.b.toNat * 0x80000 + f.size.toNat * 0x2000000) (f.n.toNat + 0x40))
  | .sealv f => some (longK none 0x39 f.g (f.d.toNat * 0x2000 + f.b.toNat * 0x80000) (f.n.toNat + 0x80))
  | .floorv f => some (longK none 0x39 f.g (f.d.toNat * 0x2000 + f.b.toNat * 0x80000) (f.n.toNat + 0xc0))
  | .vprobe f => some (longK none 0x39 f.g (f.d.toNat * 0x2000 + f.b.toNat * 0x80000) (f.n.toNat + 0x100))
  | .liga f => some (longK none 0x3A f.g (f.d.toNat * 0x2000 + f.a.toNat * 0x80000) (f.off.toNat))
  | .lignxt f => some (long none 0x3A f.g (f.d.toNat * 0x2000 + f.p.toNat * 0x80000 + 0x2000000))
  | .ligx f => some (long none 0x3A f.g (f.d.toNat * 0x2000 + f.a.toNat * 0x80000 + 0x4000000 + f.op.toNat * 0x8000000 + bit f.ty * 0x20000000))
  | .sread f => some (long none 0x3B f.g (f.d.toNat * 0x2000 + f.s.toNat * 0x80000))
  | .sysr f => some (long none 0x3B f.g (f.d.toNat * 0x2000 + f.s.toNat * 0x80000))
  | .sysw f => some (long none 0x3C f.g (f.a.toNat * 0x2000 + f.s.toNat * 0x80000))
  | .syswCodebase f => some (long none 0x3C f.g (f.a.toNat * 0x2000 + 0x8000000))
  | .syswHeapWindow f => some (long none 0x3C f.g (f.a.toNat * 0x2000 + (0x101 + f.which.toNat) * 0x80000))
  | .syswPred f => some (long none 0x3C f.g (f.a.toNat * 0x2000 + 0xc280000))
  | .syswGsave f => some (long none 0x3C f.g (f.a.toNat * 0x2000 + 0xc300000))
  | .syswGload f => some (long none 0x3C f.g (f.a.toNat * 0x2000 + 0xc380000))
  | .syswBsave f => some (long none 0x3C f.g (f.a.toNat * 0x2000 + 0xc400000))
  | .syswBload f => some (long none 0x3C f.g (f.a.toNat * 0x2000 + 0xc480000))
  | .syswEsave f => some (long none 0x3C f.g (f.a.toNat * 0x2000 + 0xc500000))
  | .syswEload f => some (long none 0x3C f.g (f.a.toNat * 0x2000 + 0xc580000))
  | .syswMigrel f => some (long none 0x3C f.g (f.a.toNat * 0x2000 + 0xc800000))
  | .likV f => some (longK none 0x3F f.g (f.d.toNat * 0x2000) (f.k.toNat))
  | .likU f => some (longK none 0x3F f.g (f.d.toNat * 0x2000 + 0x80000) (f.k.toNat))
  | .yieldEnd _ => none
  | .loadComplete _ _ => none
  | .storeWritePoint _ => none
  | .redPerform _ => none
  | .pageWalk _ => none
  | .ldvWaitEnd _ _ => none
  | .fetchComplete _ _ => none
  | .fetchcBytesArrive _ _ => none
  | .imposerBytesArrive _ _ _ => none
  | .casemodeComplete _ _ => none
  | .streamStart _ _ => none
  | .swapTakeEffect _ => none
  | .matrixStep _ => none
  | .mloadComplete _ => none
  | .mloadsCountPhase _ => none
  | .mloadsComplete _ => none
  | .drainRow _ _ => none
  | .commitTokenGrant _ => none
  | .quoinTake _ => none
  | .spendTokenReached _ _ => none
  | .backoffExpire _ _ => none
  | .ligaFramesAvailable _ => none
  | .ligatureLifetimeLimit _ => none
  | .stallTimeLimit _ => none
  | .handlerEntry _ => none
  | .groupEnd _ => none
  | .blockEnd _ => none
  | .traceSample _ _ => none
  | .qdoor _ _ => none
  | .qctlEn _ _ => none
  | .qctlHold _ _ => none
  | .qctlEvict _ => none
  | .qctlAbort _ => none
  | .qctlClearOverrun _ => none
  | .resync _ => none
  | .creplay _ => none
  | .poolrngFencedClear _ => none
  | .mgmtRegisterWrite _ _ => none
  | .recordFetch _ => none
  | .dispatchBatch => none
  | .batchReceive _ => none
  | .dieReport _ => none
  | .gangDispatch _ => none
  | .preemptDecide _ => none
  | .saveHandlerEntry _ => none
  | .blockRestore _ => none
  | .launchRetire _ => none
  | .gridEnd _ _ => none
  | .migrationLineCopy _ => none
  | .hostRead _ _ => none
  | .hostWrite _ _ => none
  | .birsp _ _ => none
  | .snpData _ => none
  | .snpInv _ => none
  | .snpCur _ => none
  | .bisnpData _ => none
  | .bisnpInv _ => none
  | .bisnpCur _ => none
  | .peerRequest _ _ => none
  | .peerRequestTimeout _ _ => none
  | .peerPortDown _ _ => none
  | .poolRequestTimeout _ _ _ => none
  | .poolPoison _ => none
  | .poolPortDown _ => none
  | .coreFailure _ => none
  | .reset => none
  | .firmwareUpdate _ => none
  | .recoveryImageStaged _ => none
  | .attestationRequest _ => none
  | .d3hotEntry => none
  | .returnToD0 => none
  | .throttle _ => none
  | .dieOverTemperature => none
  | .coolantFlowLost => none
  | .orderlyPowerOff => none
  | .illegalEncoding => none
  | .tileCommandComplete _ _ => none
  | .storePerformedAtScope _ _ => none
  | .stampEviction _ => none
  | .deviceCacheEviction _ => none
  | .mainPowerLoss => none
  | .sectorPoisoned _ => none
  | .peerRefusalReceived _ _ => none

end Sys2Proof
end

