-- ==== Sys2Proof/Config.lean ====
section
/-!
DEFINITION. What the manual leaves open: free values without a body, so that no proof can see them, and the fixed
numbers of the device.
-/

namespace Sys2Proof.Config

/-- A free byte: byte `k` of a device-private layout (R350, R367), for the counter value `n` at which it is written
(log 7). -/
opaque privateByte (n k : Nat) : Byte

/-- Where in a context's spill area the device puts entries (R338, R400), for the counter value `n` (log 58). -/
opaque spillPlace (n : Nat) : Nat

/-- The 64-byte SHAKE256 digest that R437 and R439 name and do not define (log 9). -/
opaque shake256 (bytes : List Byte) : List Byte

/-- The verdict of ML-DSA-65 verification: key, message, signature (R437, log 9). -/
opaque mldsaVerify (key message sig : List Byte) : Bool

/-- The signature under the key pair derived from a seed (R439, log 9). -/
opaque mldsaSign (seed message : List Byte) : List Byte

/-- The public key of the key pair derived from a seed (R439, log 9). -/
opaque mldsaPublic (seed : List Byte) : List Byte

/-- How many times a cache misses in an A-clock (R434), for the counter value `n` (log 34). -/
opaque misses (n : Nat) : Nat

/-- Whether the host grants a line exclusively (R406), for the counter value `n` (log 8). -/
opaque grantExclusive (n : Nat) : Bool

/-- Whether the HBM stacks and links train at a boot (R435 step 4), for the counter value `n` (log 8). -/
opaque linksTrain (n : Nat) : Bool

/-- The rate in GT/s at which the host link has trained (R403, R422; log 49). -/
opaque linkRate : Nat

/-- The width at which the host link has trained (R403, R422; log 49). -/
opaque linkWidth : Nat

/-- Logical cores of the device (R17). -/
def cores : Nat := 640

/-- Group slots of a core (R17). -/
def slots : Nat := 192

/-- Bytes of a core's vector register file (R39). -/
def vrfBytes : Nat := 1048576

/-- Helper frames of a core (R39). -/
def frames : Nat := 1024

/-- Bytes of device HBM (R276): physical addresses 0 to 0x8F_FFFF_FFFF. -/
def hbmBytes : Nat := 0x9000000000

/-- Capability list offset while the window is live (R412, R422): the start of its range. -/
def capPtr : DWord := 0x4000

end Sys2Proof.Config
end

