-- ==== Sys2Proof/Machine/State.lean ====
section
/-!
DEFINITION. The state of the Kweust L8 as plain data, the reasons a step can stop, and the state after reset.
Every list whose element has a number is looked up by that number; an unlisted element has the value of its `reset`.
-/

namespace Sys2Proof.Machine

/-- The five sticky flags of R42. -/
abbrev Sticky := BitVec 5

/-- Why a step stops with a fault. -/
inductive Fault where
  /-- Raised by the meaning of an instruction when no resident group issues it: the manual gives an instruction a
  meaning for an issuing group only (R110). Safe: the machine never issues that way. -/
  | noIssuer
deriving DecidableEq, Repr

/-- Why a step refuses. -/
inductive Refusal where
  /-- The dispatcher's arm of an instruction without a meaning yet. Safe. -/
  | notModelled (mnemonic : String)
  /-- Raised by the meaning of an event whose conditions do not hold: such an event does not happen. Safe. -/
  | notEnabled (event : String)
deriving DecidableEq, Repr

/-- The answer of a step. -/
abbrev Out (σ : Type) := Host.Outcome σ Fault Refusal

/-! ## Lanes -/

/-- The five waiting points of R175. -/
inductive WaitPoint where
  | tend
  | backoff
  | spend
  | rerun
  | liga
deriving DecidableEq, Repr

/-- The lane states of R109, with a lane parked at a point of R175. -/
inductive LaneSt where
  | live
  | parked
  | suspended
  | exited
  | waiting (p : WaitPoint)
deriving DecidableEq, Repr

/-- One logged aligned word (R182, R339, R340): word address, value, the byte mask of a write, and the effective address of
the last write of it. -/
structure LogWord where
  word : Nat
  val : Word
  mask : BitVec 4
  va : DWord
deriving DecidableEq, Repr

/-- A logged store or reduction that follows a reduction of a word whose value the lane has not read (R170): address,
size, the operation when it is a reduction, the operand, and the effective address. -/
structure TxOp where
  pa : Nat
  size : Nat
  red : Option (BitVec 4 × Bool)
  x : Nat
  va : DWord
deriving DecidableEq, Repr

/-- A lane's transaction or speculative iteration (R76, R179, R189, R192). `moved` is set when a line of its sets is
migrated (R395); `retry` marks a lane of a deterministic launch that retries after reason 1 or 2 (R187), `turn` is the number of
the batch whose validation it failed. -/
structure Tx where
  isOpen : Bool
  depth : Nat
  ts : Bool
  path : Word
  start : Word
  att : Nat
  reads : List LogWord
  writes : List LogWord
  pend : List TxOp
  stamps : List (Nat × Nat)
  moved : Bool
  held : Sticky
  code : BitVec 8
  reason : BitVec 4
  statAtt : Nat
  spec : Bool
  ordered : Bool
  iter : Word
  domain : Nat
  squashed : Bool
  retry : Bool
  turn : Nat
deriving DecidableEq, Repr

/-- The closed transaction state with status 0 (R179). -/
def Tx.reset : Tx :=
  { isOpen := false, depth := 0, ts := false, path := 0, start := 0, att := 0, reads := [], writes := [], pend := [],
    stamps := [], moved := false, held := 0, code := 0, reason := 0, statAtt := 0, spec := false, ordered := false,
    iter := 0, domain := 0, squashed := false, retry := false, turn := 0 }

/-- One lane (R38, R40, R41, R109, R111, R179, R364, R375). `txStop` marks a lane whose transaction a translation fault has
aborted: it does not issue until the group is resumed (R186). -/
structure Lane where
  v : Vector Word 64
  p : BitVec 32
  pc : Word
  st : LaneSt
  lent : Bool
  age : Nat
  fsticky : Sticky
  kscr : Vector Word 4
  tx : Tx
  txHeld : Option Tx
  wake : Option Nat
  txStop : Bool
  stHeld : LaneSt
  tva : DWord
  tpc : Word
  tlstate : Word
deriving DecidableEq, Repr

/-- A lane at the start of a group (R40) with the given PC. -/
def Lane.reset (pc : Word) : Lane :=
  { v := Vector.replicate 64 0, p := 0, pc := pc, st := .live, lent := false, age := 0, fsticky := 0,
    kscr := Vector.replicate 4 0, tx := Tx.reset, txHeld := none, wake := none, txStop := false, stHeld := .live, tva := 0, tpc := 0,
    tlstate := 0 }

/-! ## Ligatures -/

/-- A LIGX partial of a helper (R203). -/
structure Partial where
  d : Nat
  f32 : Bool
  op : BitVec 2
  val : Word
deriving DecidableEq, Repr

/-- One helper of a ligature (R201 to R203, R356): its own lane state, the lane it borrows, its claims, partials. -/
structure Helper where
  lane : Lane
  lender : Nat
  lendLane : Nat
  claims : Nat
  partials : List Partial
  done : Bool
deriving DecidableEq, Repr

/-- A ligature (R199 to R206): recruiter lane, LIGA address, iteration count, claim counter, helpers, the copies of
the uniform and of the recruiter's vector registers (R80, R206), the lifetime counter and its limit (R358). -/
structure Lig where
  lane : Nat
  addr : Word
  count : Word
  claim : Nat
  helpers : List Helper
  u : Vector DWord 64
  regs : Vector Word 64
  life : Nat
  limit : Nat
deriving DecidableEq, Repr

/-! ## Memory instructions in flight -/

/-- A leaf of the page tables: physical page base, page bits, permissions, home, galley, and the address of its entry (R381). -/
structure Leaf where
  base : Nat
  bits : Nat
  r : Bool
  w : Bool
  x : Bool
  u : Bool
  home : Nat
  galley : Option Nat
  peer : Nat
  entry : Nat
deriving DecidableEq, Repr

/-- The translation an outstanding access keeps: the heap window at its issue (R134), and the leaves of addresses that have been
translated, each with its virtual address (R126, R283, R396). -/
structure Frozen where
  heapbase : DWord
  heaplim : DWord
  heapoff : DWord
  leaves : List (Nat × Leaf)
deriving DecidableEq, Repr

/-- The kinds of memory instruction of R386. -/
inductive MemKind where
  | ld (sext : Bool)
  | st
  | atom (op : BitVec 4) (u : Bool)
  | red (op : BitVec 4) (u : Bool)
  | ldv
  | stv
  | sealv
  | floorv
  | vprobe
  | cwb
  | cinv
  | fetch
deriving DecidableEq, Repr

/-- One executing thread of a memory instruction with the source values it read (R387): lane or helper number,
effective address, data or length, compare value. -/
structure MemThread where
  t : Nat
  ea : DWord
  data : DWord
  cmp : DWord
deriving DecidableEq, Repr

/-- A memory instruction as issued: the unit of translation, of the operand log and of replay (R386, R387). `num` is
the impression number, of a FETCH the command counter before it (R207), `handle` the handle slot's entry, `fails` the lanes whose translation failed, `active` the threads it was
issued for, `tr` the translation it keeps. -/
structure MemOp where
  kind : MemKind
  pc : Word
  len : Nat
  seq : Nat
  helper : Bool
  threads : List MemThread
  size : Nat
  order : BitVec 2
  scope : BitVec 3
  dst : Nat
  num : Word
  handle : Nat
  fails : List (Nat × DWord)
  active : List Nat
  tr : Frozen
deriving DecidableEq, Repr

/-- A register value on its way to a lane (R144, R172): the load or FETCH has taken its value. -/
structure LoadVal where
  t : Nat
  val : DWord
deriving DecidableEq, Repr

/-- An outstanding load: destination, whether it is a pair, values, site; and the lanes of a FETCH that failed, with their
addresses and the class that the first reader of the destination raises (R212, R392). -/
structure Load where
  helper : Bool
  dst : Nat
  pair : Bool
  vals : List LoadVal
  pc : Word
  len : Nat
  bad : List (Nat × DWord)
  cls : Nat
  seq : Word
deriving DecidableEq, Repr

/-! ## Faults on their way to a handler -/

/-- A fault that is raised: the trap-state values of R375 and the record values of R378. -/
structure Raise where
  cls : Nat
  code : BitVec 8
  addr : Word
  len : Nat
  deferred : Bool
  write : Bool
  mask : BitVec 32
  vas : List (Nat × DWord)
  seq : Word
  recPc : Word
  recVa : DWord
  helper : Option Nat
  helperPc : Word
  info : DWord
deriving DecidableEq, Repr

/-- Whether a group is privileged and in which handler (R132, R363). -/
inductive Priv where
  | user
  | handler (cls : Nat)
  | save
  | restore
deriving DecidableEq, Repr

/-- The group's trap-state registers (R375); `phase` and `mx` are the phase and form of a pending barrier wait, and `stat` what
an interrupted LIGA is to report (R205), which have no register. -/
structure Trap where
  tcause : Word
  taddr : Word
  tseq : Word
  tmask : Word
  tinfo : DWord
  tcbase : DWord
  tdepth : Word
  trestart : Word
  tbarw : Word
  tj : Vector DWord 16
  phase : Nat
  mx : Bool
  stat : Nat
deriving DecidableEq, Repr

/-- Trap state before the first handler entry (log 3). -/
def Trap.reset : Trap :=
  { tcause := 0, taddr := 0, tseq := 0, tmask := 0, tinfo := 0, tcbase := 0, tdepth := 0, trestart := 0, tbarw := 0,
    tj := Vector.replicate 16 0, phase := 0, mx := false, stat := 0 }

/-! ## Barriers -/

/-- One arrival (R163, R165): the member's logical identifier, whether it arrived by BARS, and the clock. -/
structure Arrival where
  member : Nat
  bars : Bool
  at_ : Nat
deriving DecidableEq, Repr

/-- A barrier (R163 to R166): its phase, the arrivals of the phase in order, each member's last arrival phase, the
byte counter, and the member whose BARS was the last arrival of the phase before. -/
structure Bar where
  phase : Nat
  arrived : List Arrival
  arr : List (Nat × Nat)
  count : Int
  last : Option Nat
deriving DecidableEq, Repr

/-- A barrier at launch (R163, R166). -/
def Bar.reset : Bar := { phase := 0, arrived := [], arr := [], count := 0, last := none }

/-- The barrier a group waits at (R164, R375). -/
structure BarWait where
  bars : Bool
  mx : Bool
  p : BitVec 5
  level : BitVec 2
  num : BitVec 4
  phase : Nat
deriving DecidableEq, Repr

/-! ## Groups -/

/-- The debug registers of a group (R425, R428): comparators, sys.dbgctl, and the pending skip and step; `due` marks a step
whose event waits for the accesses of the stepped instruction (R372). -/
structure Debug where
  ibp : Vector DWord 4
  wpa : Vector DWord 4
  wpc : Vector DWord 4
  dbgctl : DWord
  skip : Bool
  step : Bool
  due : Bool
deriving DecidableEq, Repr

/-- Debug registers without a debug block (R424). -/
def Debug.reset : Debug :=
  { ibp := Vector.replicate 4 0, wpa := Vector.replicate 4 0, wpc := Vector.replicate 4 0, dbgctl := 0,
    skip := false, step := false, due := false }

/-- The Quoin key counters of a group (R344); `seen` is, by 16 times the level plus the number of a barrier, the phases of it
that are counted. -/
structure QKey where
  ge : Nat
  ce : Nat
  be : Nat
  k : Nat
  seen : List (Nat × Nat)
deriving DecidableEq, Repr

/-- Why a group does not issue for the moment. -/
structure Hold where
  /-- Pre-emption has stopped the group (R266), or it waits for its block after a restore (R366). -/
  stopped : Bool
  /-- The group waits on the host path (R389). -/
  host : Bool
  /-- A debug event parked the group (R429). -/
  park : Bool
  /-- YIELD: the clock until which the group is idle (R129). -/
  idleTo : Option Nat
  /-- The barrier wait in progress (R164). -/
  bar : Option BarWait
  /-- The privileged group idles after a YIELD of its handler. -/
  idlePriv : Bool
  /-- The group's last instruction could not issue, and why (R431). -/
  waitFor : Option Nat
  /-- The helper set's last instruction could not issue, and why. -/
  waitHelp : Option Nat
  /-- The next issue outside handlers is forced (R111, R129). -/
  forced : Bool
  /-- The next issue of the running handler is forced (R129). -/
  forcedPriv : Bool
  /-- The banks that the group's waiting CASEMODE has in their modes (R160 step 4); none waits without it. -/
  switched : Option (List Nat)
deriving DecidableEq, Repr

/-- No hold. -/
def Hold.reset : Hold :=
  { stopped := false, host := false, park := false, idleTo := none, bar := none, idlePriv := false, waitFor := none,
    waitHelp := none, forced := false, forcedPriv := false, switched := none }

/-- What a group has in flight (R172, R196, R386, R387, R374): memory instructions not yet translated, the operand log
and whether it is being replayed (R390), outstanding loads, waiting LDVs, FETCH commands on their way, the fault that waits for lent
lanes with the vector entry read when it was raised (R373, R374), and the deferred faults of LDVs (R196): those the group's next
instruction raises, and those that were pending when it entered its handler, kept until it returns (log 35). `hostPath` says
that the log is replayed after a doorbell of the host path (R389, R390). -/
structure Flight where
  walks : List MemOp
  opLog : List MemOp
  replay : Bool
  loads : List Load
  ldvs : List MemOp
  fetches : List MemOp
  pend : Option Raise
  vec : Option (DWord × Word)
  deferred : List Raise
  kept : List Raise
  hostPath : Bool
deriving DecidableEq, Repr

/-- Nothing in flight. -/
def Flight.reset : Flight :=
  { walks := [], opLog := [], replay := false, loads := [], ldvs := [], fetches := [], pend := none, vec := none, deferred := [],
    kept := [], hostPath := false }

/-- A group of 32 lanes (R18, R40). `stack` lists the divergence entries with the top one first (R118); `counted` is the stall
reason of the last A-clock, 0xFF when the group issued in it (R433). -/
structure Group where
  gid : Nat
  core : Nat
  slot : Nat
  bid : Nat
  lid : Nat
  ctx : Nat
  grp : Nat
  nregs : Nat
  codebase : DWord
  entry : Word
  u : Vector DWord 64
  lanes : Vector Lane 32
  stack : List (BitVec 32 × Word)
  restart : Word
  seq : Word
  endstat : Nat
  priv : Priv
  trap : Trap
  gbar : Vector Bar 2
  hold : Hold
  stalls : Vector Word 16
  counted : Nat
  stallCnt : Nat
  dbg : Debug
  lig : Option Lig
  mctx : Option Nat
  key : QKey
  fl : Flight
deriving DecidableEq, Repr

/-! ## Blocks, launches, queues, contexts -/

/-- A handle binding (R234): the 32-byte entry as a number, the counted barrier. -/
structure Handle where
  entry : Nat
  cnt : Bool
  bar : Nat
deriving DecidableEq, Repr

/-- The phases of a block's life (R266, R268). -/
inductive BlockPhase where
  | gang
  | resident
  | draining
  | saving
  | saved
  | restoring
deriving DecidableEq, Repr

/-- The device-private part of a saved engine image (R318, R367): plane sets are kept beside it. -/
structure PlaneSet where
  planes : Nat
  sparse : Bool
  depth : Nat
  fmt : BitVec 6
  scaled : Bool
  cols : List (List (Nat × Byte))
  scales : List (List Byte)
deriving DecidableEq, Repr

/-- The empty plane set (R215). -/
def PlaneSet.reset : PlaneSet :=
  { planes := 0, sparse := false, depth := 0, fmt := 0, scaled := false, cols := [], scales := [] }

/-- How far a matrix command has come. -/
inductive CmdPhase where
  | queued
  | running
  | counted
  | failed (r : Raise)
deriving DecidableEq, Repr

/-- A matrix command (R207, R210, R233): the instruction with the values it read. `prv` is set when the issuing group was
privileged, `set` is what a stream bound or what the count phase of an MLOADS has read, `scales` the scale bytes of the lanes,
`vals` the lane values of MMOVA, `old` what a drain's destination held before its stores where its residual is there (R320);
`raised` marks a deferred fault whose handler has been entered, `swapped` a stream whose exchange of the sets has taken effect
(R312). -/
structure MCmd where
  ins : Instr
  gid : Nat
  bid : Nat
  prv : Bool
  x : Nat
  seq : Word
  pc : Word
  len : Nat
  word : Word
  konst : Word
  u1 : DWord
  u2 : DWord
  u3 : DWord
  u3a : DWord
  u3b : DWord
  u62 : DWord
  u63 : DWord
  vals : List (Word × Word)
  scales : List (List Byte)
  set : Option PlaneSet
  old : List (DWord × List Byte)
  phase : CmdPhase
  raised : Bool
  swapped : Bool
  tr : Frozen
deriving DecidableEq, Repr

/-- What a saved engine keeps beside its image (R318, R367): the two plane sets, and of each command record in arrival
order the parts the 64 bytes do not hold. -/
structure EngineSave where
  live : PlaneSet
  shadow : PlaneSet
  cmds : List MCmd
deriving DecidableEq, Repr

/-- A block (R252, R159, R162, R234, R266). `left` lists the group indices that have not ended, `stalls` the restart point
and the counters of those that have; `preempt` is the host's request (R413), `area` and `entry` are the save area and the
save handler's entry taken when the block was chosen (R363); `saved` keeps the device-private state of saved groups, `eng`
that of a saved engine. -/
structure Block where
  bid : Nat
  lid : Nat
  idx : Nat
  core : Nat
  ctx : Nat
  banks : List Nat
  bars : Vector Bar 16
  handles : List (Nat × Handle)
  phase : BlockPhase
  preempt : Bool
  area : Option Nat
  left : List Nat
  stalls : List (Nat × Word × Vector Word 16)
  entry : Option (DWord × Word)
  saved : List Group
  eng : Option EngineSave
deriving DecidableEq, Repr

/-- A decoded launch record (R416). -/
structure LaunchRec where
  args : Vector DWord 8
  cbase : DWord
  entry : Word
  gx : Nat
  gy : Nat
  gz : Nat
  bx : Nat
  by_ : Nat
  bz : Nat
  regs : Nat
  clusterdim : Nat
  banks : Nat
  gbar : Nat
  bbar : Nat
  cbar : Nat
  dbar : Nat
  stall : Nat
  liglim : Nat
  coresident : Bool
  det : Bool
  restartable : Bool
  overlap : Bool
  irq : Bool
  compl : DWord
  cval : Word
deriving DecidableEq, Repr

/-- A restart point kept for a discarded block (R130): group index, restart point, stall counters. -/
structure Restart where
  idx : Nat
  groups : List (Nat × Word × Vector Word 16)
deriving DecidableEq, Repr

/-- The room reserved for a launch cluster or a gang (R253, R258): linear block index and logical core, or the
hardware cluster for a launch cluster whose cores the die chooses. -/
structure Reserve where
  idx : Nat
  clu : Nat
  core : Option Nat
deriving DecidableEq, Repr

/-- How a launch ended (R417). -/
inductive LaunchEnd where
  | refused (detail : Nat)
  | fault (cls : Nat) (record : Nat)
  | aborted
deriving DecidableEq, Repr

/-- A fetched launch (R248, R253, R258, R265, R269). `quoin` is the group that holds the Quoin (R22, R345). -/
structure Launch where
  lid : Nat
  q : Nat
  ctx : Nat
  cls : Nat
  lr : LaunchRec
  next : Nat
  again : List Restart
  done : Nat
  reserve : List Reserve
  ganged : Bool
  gridSet : Bool
  gridBars : Vector Bar 4
  cluBars : List (Nat × Vector Bar 8)
  quoin : Option Nat
  how : Option LaunchEnd
deriving DecidableEq, Repr

/-- A queue block (R413). -/
structure Queue where
  base : DWord
  z : Nat
  cls : Nat
  ctx : Nat
  en : Bool
  hold : Bool
  evict : Bool
  abort : Bool
  read : Nat
  done : Nat
  last : Nat
  overrun : Bool
  anyDoor : Bool
  lids : List Nat
deriving DecidableEq, Repr

/-- A queue after reset (R413; QBASE: log 3). -/
def Queue.reset : Queue :=
  { base := 0, z := 0, cls := 0, ctx := 0, en := false, hold := false, evict := false, abort := false, read := 0,
    done := 0, last := 0, overrun := false, anyDoor := false, lids := [] }

/-- The context registers and what the device keeps for a context (R44, R412, R419, R421). -/
structure Ctx where
  heapbase : DWord
  heaplim : DWord
  heapoff : DWord
  vector : DWord
  ptbase : DWord
  galtab : DWord
  spill : DWord
  spillsz : DWord
  fltring : DWord
  saveBase : DWord
  saveCnt : Nat
  dbgAddr : DWord
  trBase : DWord
  trSize : Nat
  brec : Bool
  sample : Bool
  sper : Nat
  head : Word
  tail : Word
  lost : Nat
  areas : List Nat
deriving DecidableEq, Repr

/-- A context before its first load (log 3). -/
def Ctx.reset : Ctx :=
  { heapbase := 0, heaplim := 0, heapoff := 0, vector := 0, ptbase := 0, galtab := 0, spill := 0, spillsz := 0,
    fltring := 0, saveBase := 0, saveCnt := 0, dbgAddr := 0, trBase := 0, trSize := 0,
    brec := false, sample := false, sper := 10, head := 0, tail := 0, lost := 0, areas := [] }

/-- A core's registers (R14, R261, R425, R434). `rot` is each context's sample rotation and `sampled` the A-clock of its last
sample (R433). -/
structure CoreRegs where
  evsel : Vector Word 8
  evcnt : Vector DWord 8
  failed : Bool
  ptr : Vector Nat 4
  rot : List (Nat × Nat)
  sampled : List (Nat × Nat)
deriving DecidableEq, Repr

/-- Core registers after reset (R425). -/
def CoreRegs.reset : CoreRegs :=
  { evsel := Vector.replicate 8 0, evcnt := Vector.replicate 8 0, failed := false, ptr := Vector.replicate 4 0,
    rot := [], sampled := [] }

/-! ## Case and Fount -/

/-- The modes of a Case bank (R160). -/
inductive BankMode where
  | cache
  | scratch
  | fifo
deriving DecidableEq, Repr

/-- A Case bank (R159 to R161): mode, owning block, switch in progress with the group that waits for it, FIFO. -/
structure Bank where
  mode : BankMode
  owner : Option Nat
  switch : Option (BankMode × Nat)
  fifo : List Word
deriving DecidableEq, Repr

/-- A bank owned by no block (R159). -/
def Bank.reset : Bank := { mode := .cache, owner := none, switch := none, fifo := [] }

/-- A hardware cluster: banks that are not in the state of `Bank.reset`, the Fount cache and the launch of the last
Fount command (R321, R322). -/
structure Cluster where
  banks : List (Nat × Bank)
  fcache : List (Nat × List Byte)
  lastFount : Option Nat
deriving DecidableEq, Repr

/-- A cluster after reset. -/
def Cluster.reset : Cluster := { banks := [], fcache := [], lastFount := none }

/-! ## Engines -/

/-- The step register of a matrix context (R232). -/
structure StepReg where
  sv : Bool
  row : Nat
  plane : Nat
  dv : Bool
  drow : Nat
deriving DecidableEq, Repr

/-- The step register after an acquire (R215). -/
def StepReg.reset : StepReg := { sv := false, row := 0, plane := 0, dv := false, drow := 0 }

/-- A matrix context (R215): holder, four tiles with their non-zero elements by 256 i + c, flag union, step
register. -/
structure MCtx where
  holder : Option Nat
  tiles : Vector (List (Nat × Word)) 4
  flags : Sticky
  step : StepReg
deriving DecidableEq, Repr

/-- A free matrix context. -/
def MCtx.reset : MCtx :=
  { holder := none, tiles := Vector.replicate 4 [], flags := 0, step := StepReg.reset }

/-- A copy request of a core (R238): the 32 bytes as a number, bytes arrived, a deferred fault, and whether it has been
raised. -/
structure ImpReq where
  gid : Nat
  bid : Nat
  grp : Nat
  prv : Bool
  seq : Word
  pc : Word
  len : Nat
  req : Nat
  pos : Nat
  failed : Option Raise
  raised : Bool
  tr : Frozen
deriving DecidableEq, Repr

/-- A FETCHC command (R237): the lanes whose bytes have not arrived, with coordinates and Case offset. -/
structure FetchC where
  gid : Nat
  bid : Nat
  grp : Nat
  prv : Bool
  seq : Word
  pc : Word
  len : Nat
  h : Handle
  lanes : List (Nat × Word × Word × Nat)
  failed : Option Raise
  raised : Bool
  tr : Frozen
deriving DecidableEq, Repr

/-- A core's matrix engine and Imposer (R215, R217, R238, R312). `queue` is in arrival order. -/
structure Engine where
  cx : Vector MCtx 2
  live : PlaneSet
  shadow : PlaneSet
  queue : List MCmd
  lastStream : Nat
  imps : List ImpReq
  fetchcs : List FetchC
deriving DecidableEq, Repr

/-- An engine after reset. -/
def Engine.reset : Engine :=
  { cx := Vector.replicate 2 MCtx.reset, live := PlaneSet.reset, shadow := PlaneSet.reset, queue := [],
    lastStream := 1, imps := [], fetchcs := [] }

/-! ## Memory in flight, versions, impressions, transactions at the slices -/

/-- Where an access goes after translation (R139, R402): a byte of physical memory, where the memory of peer device
d stands at (d + 1) x 2^52 + PA, or a byte of a Case bank, at clu x 2^22 + bank x 2^16 + offset. -/
inductive Place where
  | mem (key : Nat)
  | case (key : Nat)
deriving DecidableEq, Repr

/-- What a queued write does: bytes at offsets from its place, or one reduction (R150). -/
inductive WriteKind where
  | store (bytes : List (Nat × Byte))
  | red (op : BitVec 4) (u : Bool) (size : Nat) (x : DWord)
deriving DecidableEq, Repr

/-- A write of a group on its way to its home (R146, R152, R287). `path` is the access path by its code (R284): a write of an
engine is seen on no path until it is performed, or an edge of R292 shows it to its core's lanes. `sync` marks a synchronisation access, `rel` a
release; `bar` is the block barrier that counts the bytes of an engine's write, `seq` its command's number; `vis` is 0 before the write point, 1 past it and seen by the core, 2 seen by the hardware cluster, and
`heldBack` marks a synchronisation store that is held unseen at the write point (R291). -/
structure SqEntry where
  id : Nat
  gid : Nat
  core : Nat
  lid : Nat
  bidx : Nat
  place : Place
  path : Nat
  kind : WriteKind
  sync : Bool
  rel : Bool
  scope : BitVec 3
  grp : Nat
  vis : Nat
  heldBack : Bool
  pc : Word
  seq : Word
  va : DWord
  bar : Option Nat
deriving DecidableEq, Repr

/-- A write kept by block index of a deterministic launch (R399, R400). -/
structure Version where
  lid : Nat
  addr : Nat
  idx : Nat
  val : Byte
deriving DecidableEq, Repr

/-- One retained impression of a sector (R350). -/
structure Imp where
  n : Word
  isSealed : Bool
  mask : BitVec 32
  bytes : List Byte
  spilled : Bool
deriving DecidableEq, Repr

/-- The impression list of a sector, the newest kept last (R194, R350). -/
structure Sector where
  sector : Nat
  galley : Nat
  list : List Imp
deriving DecidableEq, Repr

/-- A galley page that impression instructions have accessed (R351, R382): its base and address bits, the floor it was loaded
with, the leaf entries they reached it through, and after migrations the page numbers the entries may still name (R355). -/
structure GalleyPage where
  page : Nat
  bits : Nat
  floor : Word
  entries : List Nat
  was : List Nat
deriving DecidableEq, Repr

/-- A speculative read mark (R338, R348): one for each logged read, with the words read. -/
structure Mark where
  words : List Nat
  domain : Nat
  iter : Word
  gid : Nat
  lane : Nat
deriving DecidableEq, Repr

/-- What a commit batch is: the lanes of a TEND, one SPEND, or an ATOM or RED of a deterministic launch. -/
inductive BatchKind where
  | tend
  | spend
  | atom
deriving DecidableEq, Repr

/-- Which issuer issues, and what (R110, R27): the group, whether it is its helper set, the instruction's address,
length and words, the active lanes or helpers, whether the instruction could not issue, and whether a fault was raised in
its place. -/
structure Issue where
  gid : Nat
  helper : Bool
  addr : Word
  len : Nat
  word : Word
  konst : Word
  active : List Nat
  waited : Bool
  faulted : Bool
deriving DecidableEq, Repr

/-- A commit batch (R183, R342): its group and lanes, the survivors, the slices it needs, and those it holds. `ask` ranks the
request it has outstanding by its arrival, `op` is the ATOM or RED of an `atom` batch, `iss` the issue that presented it. -/
structure Batch where
  id : Nat
  kind : BatchKind
  gid : Nat
  lid : Nat
  lanes : List Nat
  need : List Nat
  held : List Nat
  quoin : Bool
  ask : Nat
  op : Option MemOp
  iss : Issue
deriving DecidableEq, Repr

/-- A page copy (R393, R394): source and destination line frames, and the copy bits. -/
structure Migr where
  core : Nat
  gid : Nat
  seq : Word
  lines : List (Nat × Nat × Bool)
deriving DecidableEq, Repr

/-! ## The outside -/

/-- The device-cache states of R406. -/
inductive L3St where
  | i
  | s
  | e
  | o
  | m
deriving DecidableEq, Repr

/-- The launch, the context and the launch site of an asynchronous error (R379), or of the write that made a line dirty, for the
record when the line is lost (R409). -/
structure Writer where
  lid : Nat
  ctx : Nat
  site : AsyncSite
deriving DecidableEq, Repr

/-- A line of host or pool memory in the device cache (R406): state, the compute die that holds it dirty, the
launch's access that last wrote it, and the home's bytes under dirty data. -/
structure L3Line where
  line : Nat
  st : L3St
  die : Nat
  by_ : Option Writer
  home : List Byte
deriving DecidableEq, Repr

/-- A message the device sends (R403 to R411, R439). -/
inductive Msg where
  | rdShared (line : Nat)
  | rdOwn (line : Nat)
  | cleanEvictNoData (line : Nat)
  | cleanEvict (line : Nat)
  | dirtyEvict (line : Nat)
  | bisnpInv (line : Nat)
  | bisnpData (line : Nat)
  | snoopReply (line : Nat) (st : L3St)
  | hostData (pa : Nat) (bytes : List Byte)
  | hostPoison (pa : Nat)
  | peerData (dev : Nat) (bytes : List Byte)
  | peerRefused (dev : Nat)
  | attestation (bytes : List Byte)
deriving DecidableEq, Repr

/-- A die's last report to the global dispatcher (R256): free slots and register bytes by core, free banks and
cluster barrier sets by cluster. -/
structure Report where
  cores : List (Nat × Nat × Nat)
  clus : List (Nat × Nat × Nat)
deriving DecidableEq, Repr

/-- A batch of whole blocks on its way to a die (R256), those that restart with their restart points. -/
structure Send where
  die : Nat
  lid : Nat
  blocks : List Restart
deriving DecidableEq, Repr

/-- A write of the device in its own name that waits for the host or a commit batch (R343, R405), with what follows it in
order: bytes at a physical address, one added to a squashes word (R190), a record of 64-byte slots for the trace buffer of `n`
slots at an address (R432), an interrupt (R418), the end of a RESYNC (R420). -/
inductive Late where
  | write (pa : Nat) (bytes : List Byte)
  | trace (base n : Nat) (slots : List (List Byte))
  | bump (die : Nat) (word : Nat)
  | msix (v : Nat)
  | event (bit : Nat)
  | resyncDone
deriving DecidableEq, Repr

/-- The management registers and links (R403 to R421). `resync` is the busy bit of RESYNC (R412, R420). -/
structure HostSide where
  devnum : Word
  resync : Bool
  event : DWord
  ptime : Word
  ctxbase : DWord
  poolrng : Vector DWord 16
  peeracc : BitVec 256
  routes : Vector (BitVec 16) 256
  msix : List Nat
  poolUp : BitVec 2
  peerUp : BitVec 16
  outbox : List Msg
  l3 : List L3Line
  hostHeld : List (Nat × HostKeep)
  snoops : List Nat
deriving DecidableEq, Repr

/-- The host side after reset (R412; port states: log 3). -/
def HostSide.reset : HostSide :=
  { devnum := 0, resync := false, event := 0, ptime := 4000, ctxbase := 0, poolrng := Vector.replicate 16 0, peeracc := 0,
    routes := Vector.replicate 256 0, msix := [], poolUp := 3, peerUp := 0xFFFF, outbox := [],
    l3 := [], hostHeld := [], snoops := [] }

/-- The dispatchers (R249, R256): the last queue served in each class, reports by die, batches on their way. -/
structure Dispatch where
  rr : Vector Nat 4
  reports : List (Nat × Report)
  sends : List Send
deriving DecidableEq, Repr

/-- The power states of R440. -/
inductive Power where
  | d0
  | d3hot
  | off
deriving DecidableEq, Repr

/-- Where boot ended (R435, R438). -/
inductive Boot where
  | running
  | recovery
  | unusable
deriving DecidableEq, Repr

/-- Flash, fuses, and what firmware derived at boot (R435 to R441); `cert` is the alias key's certificate (R439), `rewrite`
the image a rewrite of the flash under way puts into it (R438). -/
structure Firmware where
  image : List Byte
  repair : Vector Word 32
  cause : BitVec 8
  keyDigest : List Byte
  minSvn : Nat
  secret : List Byte
  boot : Boot
  power : Power
  mhz : Nat
  applied : Vector Word 32
  digest : List Byte
  svn : Nat
  bootCause : BitVec 8
  cert : List Byte
  rewrite : Option (List Byte)
deriving DecidableEq, Repr

/-! ## The machine -/

/-- No issue in progress. -/
def Issue.none : Issue :=
  { gid := 0, helper := false, addr := 0, len := 0, word := 0, konst := 0, active := [], waited := false, faulted := false }

/-- An issuer: a group, or the helper set of a group's ligature (R260). -/
structure Who where
  gid : Nat
  helper : Bool
deriving DecidableEq, Repr

/-- What may be put on the agenda: one issue, one event, one idle A-clock (log 2). -/
inductive Item where
  | issue (w : Who)
  | event (i : Instr)
  | tick
deriving DecidableEq, Repr

/-- Which completions wait for their events instead of following at once (log 2), the entries a group's store queue
holds, `none` when it is never full (R146, log 50), and the bytes one entry takes of a die's log room and of a spill area
(R338, R400, log 58). -/
structure Defer where
  walk : Bool
  load : Bool
  fetch : Bool
  queue : Option Nat
  entry : Nat
deriving DecidableEq, Repr

/-- The state of the device. `async` holds the asynchronous errors that engines and retired reductions have met and
that have not yet ended their grids (R152, R213, R379); `galfloor` lists the galley pages that impression
instructions have accessed, `floors` the highest floor of the FLOORVs of each galley (R421), `late` the device's own writes
that wait, oldest first. -/
structure State where
  clock : Nat
  groups : List Group
  blocks : List Block
  launches : List Launch
  queues : Vector Queue 64
  ctxs : Vector Ctx 64
  cores : List (Nat × CoreRegs)
  clusters : List (Nat × Cluster)
  engines : List (Nat × Engine)
  mem : List Host.Cell
  caseMem : List Host.Cell
  poison : List Nat
  sq : List SqEntry
  wp : List SqEntry
  ver : List Version
  stamps : List (Nat × Nat)
  evicted : List (Nat × Nat)
  imps : List Sector
  galUsed : List (Nat × Nat)
  galfloor : List GalleyPage
  floors : List (Nat × Word)
  marks : List Mark
  batches : List Batch
  migr : List Migr
  host : HostSide
  disp : Dispatch
  fw : Firmware
  iss : Issue
  async : List Writer
  late : List Late
  agenda : List Item
  defer : Defer
  nextId : Nat
  fresh : Nat
deriving DecidableEq, Repr

/-- Flash and fuses as the model starts with them (log 6), and the running device (R435, R440). -/
def Firmware.reset : Firmware :=
  { image := [], repair := Vector.replicate 32 0, cause := 0, keyDigest := [], minSvn := 0, secret := [],
    boot := .running, power := .d0, mhz := 900, applied := Vector.replicate 32 0, digest := [], svn := 0,
    bootCause := 0, cert := [], rewrite := none }

/-- The machine right after reset (R435): no launch, no group, HBM zero, every management register at its reset
value, %clock 0. -/
def State.reset : State :=
  { clock := 0, groups := [], blocks := [], launches := [], queues := Vector.replicate 64 Queue.reset,
    ctxs := Vector.replicate 64 Ctx.reset, cores := [], clusters := [], engines := [], mem := [], caseMem := [],
    poison := [], sq := [], wp := [], ver := [], stamps := [], evicted := [], imps := [], galUsed := [],
    galfloor := [], floors := [], marks := [], batches := [], migr := [], host := HostSide.reset,
    disp := { rr := Vector.replicate 4 63, reports := [], sends := [] }, fw := Firmware.reset, iss := Issue.none,
    async := [], late := [], agenda := [], defer := { walk := false, load := false, fetch := false, queue := none, entry := 8 }, nextId := 1, fresh := 0 }

end Sys2Proof.Machine
end

