-- ==== Sys2Proof/Machine/Cells.lean ====
section
/-!
DEFINITION. Sparse storage in one canonical form: pairs of a key and a value with keys strictly rising and no value
equal to 0, the value an unlisted key reads as (R435 step 5 for device HBM; log 5). Lists looked up by number.
-/

namespace Sys2Proof.Machine

/-- The value at a key; 0 when the key is not listed. -/
def cellGet {n : Nat} : List (Nat × BitVec n) → Nat → BitVec n
  | [], _ => 0
  | (k, b) :: r, a => if k = a then b else cellGet r a

/-- Sets the value at a key and keeps the canonical form. -/
def cellPut {n : Nat} : List (Nat × BitVec n) → Nat → BitVec n → List (Nat × BitVec n)
  | [], a, b => if b = 0 then [] else [(a, b)]
  | (k, c) :: r, a, b =>
    if a < k then (if b = 0 then (k, c) :: r else (a, b) :: (k, c) :: r)
    else if a = k then (if b = 0 then r else (a, b) :: r)
    else (k, c) :: cellPut r a b

/-- Every key of the list is above `lo`, keys rise, and no value is 0. -/
def cellsAbove {n : Nat} : Nat → List (Nat × BitVec n) → Bool
  | _, [] => true
  | lo, (k, b) :: r => lo < k && b != 0 && cellsAbove k r

/-- The canonical form. -/
def cellsWf {n : Nat} : List (Nat × BitVec n) → Bool
  | [] => true
  | (k, b) :: r => b != 0 && cellsAbove k r

/-- The canonical form of a memory. -/
abbrev Memory.wf (m : List Host.Cell) : Bool := cellsWf m

/-- `n` bytes from an address. -/
def bytesAt (m : List Host.Cell) (a : Nat) : Nat → List Byte
  | 0 => []
  | n + 1 => cellGet m a :: bytesAt m (a + 1) n

/-- Writes bytes from an address upward. -/
def bytesPut (m : List Host.Cell) (a : Nat) : List Byte → List Host.Cell
  | [] => m
  | b :: bs => bytesPut (cellPut m a b) (a + 1) bs

/-- Writes bytes at offsets from an address. -/
def offsetsPut (m : List Host.Cell) (a : Nat) : List (Nat × Byte) → List Host.Cell
  | [] => m
  | (o, b) :: bs => offsetsPut (cellPut m (a + o) b) a bs

/-- A little-endian number of `n` bytes at an address (R4). -/
def numAt (m : List Host.Cell) (a n : Nat) : Nat := ofLeBytes (bytesAt m a n)

/-- The element of a numbered list, or the default of an unlisted number. -/
def listGet {α : Type} (d : α) : List (Nat × α) → Nat → α
  | [], _ => d
  | (k, x) :: r, a => if k = a then x else listGet d r a

/-- Sets the element of a numbered list. -/
def listPut {α : Type} : List (Nat × α) → Nat → α → List (Nat × α)
  | [], a, x => [(a, x)]
  | (k, y) :: r, a, x =>
    if a < k then (a, x) :: (k, y) :: r else if a = k then (a, x) :: r else (k, y) :: listPut r a x

/-- An element of a vector by a number; the default past its end. -/
def vget {α : Type} {n : Nat} (d : α) (v : Vector α n) (i : Nat) : α := v[i]?.getD d

/-- Sets an element of a vector by a number; nothing past its end. -/
def vset {α : Type} {n : Nat} (v : Vector α n) (i : Nat) (x : α) : Vector α n := v.setIfInBounds i x

/-- The numbers from 0 to `n - 1` that satisfy a condition. -/
def numbers (n : Nat) (c : Nat → Bool) : List Nat := (List.range n).filter c

/-- The least number of a list under a key, with its key; the first on ties. -/
def leastBy (key : Nat → Nat) : List Nat → Option Nat
  | [] => none
  | x :: xs =>
    match leastBy key xs with
    | none => some x
    | some y => if key y < key x then some y else some x

/-- The greatest number of a list under a key; the first on ties. -/
def greatestBy (key : Nat → Nat) : List Nat → Option Nat
  | [] => none
  | x :: xs =>
    match greatestBy key xs with
    | none => some x
    | some y => if key x < key y then some y else some x

/-- Inserts a number into a rising list once. -/
def insertNat (a : Nat) : List Nat → List Nat
  | [] => [a]
  | b :: r => if a < b then a :: b :: r else if a = b then b :: r else b :: insertNat a r

end Sys2Proof.Machine
end

