-- ==== Sys2Proof/Machine/Numbers.lean ====
section
/-!
DEFINITION. Number formats and arithmetic rules (03_numbers.md, R56 to R72): decoding of element codes to exact
values, exact arithmetic, rounding with flags, the unary functions of R93 and the generator of R69.
-/

namespace Sys2Proof

/-- The five sticky flags in the order of %fsticky (R42): invalid, division by zero, overflow, underflow, inexact. -/
abbrev Flags := BitVec 5

def flagInvalid : Flags := 1
def flagDivZero : Flags := 2
def flagOverflow : Flags := 4
def flagUnderflow : Flags := 8
def flagInexact : Flags := 16

/-- The rounding modes of R63; `rs` carries the 16-bit draw n of R66. -/
inductive RMode where
  | rn
  | rz
  | rd
  | ru
  | rna
  | rs (draw : Nat)
deriving DecidableEq, Repr

/-- An exact value: a NaN, an infinity, or `(m + δ) × 2^e` with the sign `neg`, where `δ` is 0, or, when `sticky`,
some number strictly between 0 and 1. A zero has `m = 0` and keeps its sign. -/
inductive FVal where
  | nan (signalling : Bool)
  | inf (neg : Bool)
  | fin (neg : Bool) (m : Nat) (e : Int) (sticky : Bool)
deriving DecidableEq, Repr

/-- A float format: precision, exponent of the least quantum, largest finite value `maxM × 2^maxE`, whether it has
infinities, a sign and a negative zero, and the exponent bias used for ties when the precision is 1 (R63). -/
structure FloatSpec where
  prec : Nat
  qmin : Int
  maxM : Nat
  maxE : Int
  hasInf : Bool
  signed : Bool
  negZero : Bool
  nanCode : Nat
  infCode : Nat
  signBit : Nat
  bias : Int
deriving DecidableEq, Repr

/-- The largest finite magnitude code of a narrow format (R57). -/
def narrowTop (k : Nat) (signed inf : Bool) : Nat :=
  if signed then (if inf then 2 ^ (k - 1) - 2 else 2 ^ (k - 1) - 1) else (if inf then 2 ^ k - 3 else 2 ^ k - 2)

/-- The parameters of a float format (R56, R57); `none` for integers, raw bits and .x8. -/
def floatSpec : Fmt → Option FloatSpec
  | .f32 => some ⟨24, -149, 2 ^ 24 - 1, 104, true, true, true, 0x7FC00000, 0x7F800000, 31, 127⟩
  | .f16 => some ⟨11, -24, 2 ^ 11 - 1, 5, true, true, true, 0x7E00, 0x7C00, 15, 15⟩
  | .bf16 => some ⟨8, -133, 2 ^ 8 - 1, 120, true, true, true, 0x7FC0, 0x7F80, 15, 127⟩
  | .narrow k p signed inf =>
    let t := p - 1
    let b : Int := ((2 ^ (k - p - 1) : Nat) : Int)
    let qmin : Int := 1 - b - (t : Int)
    let top := narrowTop k signed inf
    let e := top >>> t
    let m := if e = 0 then top else 2 ^ t + top % 2 ^ t
    let x : Int := if e = 0 then qmin else (e : Int) - b - (t : Int)
    some ⟨p, qmin, m, x, inf, signed, false, if signed then 2 ^ (k - 1) else 2 ^ k - 1, top + 1, k - 1, b⟩
  | _ => none

/-- The value of a non-NaN magnitude code in a float format. -/
def magValue (s : FloatSpec) (neg : Bool) (c : Nat) : FVal :=
  let t := s.prec - 1
  let e := c >>> t
  if e = 0 then .fin neg c s.qmin false
  else .fin neg (2 ^ t + c % 2 ^ t) (s.qmin + (e : Int) - 1) false

/-- The value of an element code (R57, R59, R60, R61). Bits above the width are ignored. -/
def decodeElem (f : Fmt) (code : Nat) : FVal :=
  match f with
  | .x8 => let c := code % 256; if c = 255 then .nan false else .fin false 1 ((c : Int) - 127) false
  | .int w signed =>
    let c := code % 2 ^ w
    if signed && 2 ^ (w - 1) ≤ c then .fin true (2 ^ w - c) 0 false else .fin false c 0 false
  | .raw w => .fin false (code % 2 ^ w) 0 false
  | .narrow k p signed inf =>
    match floatSpec (.narrow k p signed inf) with
    | none => .nan false
    | some s =>
      let c := code % 2 ^ k
      if c = s.nanCode then .nan false
      else
        let neg := signed && c.testBit (k - 1)
        let mag := if signed then c % 2 ^ (k - 1) else c
        if inf && mag = s.infCode then .inf neg else magValue s (neg && mag != 0) mag
  | f =>
    match floatSpec f with
    | none => .nan false
    | some s =>
      let c := code % 2 ^ (s.signBit + 1)
      let neg := c.testBit s.signBit
      let mag := c % 2 ^ s.signBit
      if mag = s.infCode then .inf neg
      else if mag > s.infCode then .nan (!mag.testBit (s.prec - 2))
      else magValue s neg mag

/-- The position of the highest one bit plus one: 0 for 0. -/
def bitLen (n : Nat) : Nat := if n = 0 then 0 else Nat.log2 n + 1

/-- Rounds the magnitude `(m + δ) × 2^e` to a multiple of `2^q`: the multiple below, the 16-bit fraction of R66
(floor), how the remainder compares with one half (0 below, 1 equal, 2 above), and whether there is a remainder. -/
def splitAt (m : Nat) (e : Int) (sticky : Bool) (q : Int) : Nat × Nat × Nat × Bool :=
  if q ≤ e then
    let k := (e - q).toNat
    let n := m <<< k
    -- a sticky value is only split above its own unit by the callers; below it the remainder counts as a fraction
    (n, 0, 0, sticky)
  else
    let k := (q - e).toNat
    let n := m >>> k
    let r := m % 2 ^ k
    let half := 2 ^ (k - 1)
    let c := if r < half then 0 else if r = half then (if sticky then 2 else 1) else 2
    (n, (r <<< 16) >>> k, c, r != 0 || sticky)

/-- Whether the rounding mode takes the multiple above, given the parity of the one below (R63, R66). -/
def roundsUp (mode : RMode) (neg oddBelow : Bool) (frac16 cmp : Nat) (inexact : Bool) : Bool :=
  match mode with
  | .rn => cmp == 2 || (cmp == 1 && oddBelow)
  | .rz => false
  | .rd => neg && inexact
  | .ru => !neg && inexact
  | .rna => cmp ≥ 1
  | .rs d => inexact && frac16 + d ≥ 65536

/-- The exponent of the highest one bit of `m × 2^e`. -/
def floorLog2 (m : Nat) (e : Int) : Int := (bitLen m : Int) - 1 + e

/-- Rounds a non-zero magnitude to `prec` digits with quantum exponent at least `qmin`: the multiple `n`, the quantum
exponent `q` and whether the result is inexact. -/
def roundMag (prec : Nat) (bias qmin : Int) (mode : RMode) (neg : Bool) (m : Nat) (e : Int) (sticky : Bool) :
    Nat × Int × Bool :=
  let q := max (floorLog2 m e - ((prec : Int) - 1)) qmin
  let (n, fr, c, ix) := splitAt m e sticky q
  -- with one digit there is no last significand bit: the exponent field decides (R63)
  let odd := if prec = 1 then n != 0 && (q + bias) % 2 != 0 else n % 2 == 1
  if roundsUp mode neg odd fr c ix then (n + 1, q, ix) else (n, q, ix)

/-- Whether a magnitude rounded with an unbounded exponent to `prec` digits lies below the least normal value
(R64, tiny after rounding). -/
def tinyAfter (s : FloatSpec) (mode : RMode) (neg : Bool) (m : Nat) (e : Int) (sticky : Bool) : Bool :=
  let (n, q, _) := roundMag s.prec s.bias (floorLog2 m e - s.prec) mode neg m e sticky
  n != 0 && floorLog2 n q < s.qmin + ((s.prec : Int) - 1)

/-- The code of `n × 2^q` with the sign: `n` below `2^prec`, or equal to it. -/
def packFin (s : FloatSpec) (neg : Bool) (n : Nat) (q : Int) : Nat :=
  let t := s.prec - 1
  let mag := (q - s.qmin).toNat * 2 ^ t + n
  let sign := if s.signed && neg && (mag != 0 || s.negZero) then 2 ^ s.signBit else 0
  sign + mag

/-- Compares `n × 2^q` with the largest finite value. -/
def aboveMax (s : FloatSpec) (n : Nat) (q : Int) : Bool :=
  let lo := min q s.maxE
  n <<< (q - lo).toNat > s.maxM <<< (s.maxE - lo).toNat

/-- The code of the largest finite value with a sign. -/
def packMax (s : FloatSpec) (neg : Bool) : Nat :=
  let t := s.prec - 1
  let mag := (s.maxE - s.qmin).toNat * 2 ^ t + s.maxM
  if s.signed && neg then 2 ^ s.signBit + mag else mag

/-- The code of an infinity. -/
def packInf (s : FloatSpec) (neg : Bool) : Nat := if s.signed && neg then 2 ^ s.signBit + s.infCode else s.infCode

/-- Whether an overflow is outward under the mode (R64). -/
def outward (mode : RMode) (neg : Bool) : Bool :=
  match mode with
  | .rn => true
  | .rna => true
  | .rs _ => true
  | .ru => !neg
  | .rd => neg
  | .rz => false

/-- R63 and R64: an exact value rounded into a float format, as a code with the flags. -/
def roundFloat (s : FloatSpec) (mode : RMode) (sat : Bool) (x : FVal) : Nat × Flags :=
  match x with
  | .nan sig => (s.nanCode, if sig then flagInvalid else 0)
  | .inf neg =>
    if !s.signed && neg then (if sat then (0, 0) else (s.nanCode, flagInvalid))
    else if sat then (packMax s neg, 0)
    else if s.hasInf then (packInf s neg, 0)
    else (s.nanCode, flagInvalid)
  | .fin neg m e sticky =>
    if m = 0 && !sticky then (packFin s neg 0 s.qmin, 0)
    else
      let (n, q, ix) := roundMag s.prec s.bias s.qmin mode neg m e sticky
      if !s.signed && neg && n != 0 then (if sat then (0, 0) else (s.nanCode, flagInvalid))
      else if aboveMax s n q then
        if outward mode neg then
          if sat then (packMax s neg, flagOverflow ||| flagInexact)
          else if s.hasInf then (packInf s neg, flagOverflow ||| flagInexact)
          else (s.nanCode, flagOverflow ||| flagInexact ||| flagInvalid)
        else (packMax s neg, flagOverflow ||| flagInexact)
      else
        let uf := if ix && (n = 0 || tinyAfter s mode neg m e sticky) then flagUnderflow else 0
        (packFin s neg n q, uf ||| (if ix then flagInexact else 0))

/-- R64: an exact value rounded to an integer format of width `w`, saturating; the flags are invalid alone, or
inexact. -/
def roundInt (w : Nat) (signed : Bool) (mode : RMode) (x : FVal) : Nat × Flags :=
  let lo : Int := if signed then -((2 ^ (w - 1) : Nat) : Int) else 0
  let hi : Int := if signed then ((2 ^ (w - 1) : Nat) : Int) - 1 else ((2 ^ w : Nat) : Int) - 1
  let code (i : Int) : Nat := (i % ((2 ^ w : Nat) : Int)).toNat
  match x with
  | .nan _ => (0, flagInvalid)
  | .inf neg => (code (if neg then lo else hi), flagInvalid)
  | .fin neg m e sticky =>
    let (n, fr, c, ix) := splitAt m e sticky 0
    let n := if roundsUp mode neg (n % 2 == 1) fr c ix then n + 1 else n
    let v : Int := if neg then -(n : Int) else n
    if v < lo then (code lo, flagInvalid)
    else if v > hi then (code hi, flagInvalid)
    else (code v, if ix then flagInexact else 0)

/-- R62: an exact value rounded to a .x8 scale code. -/
def roundX8 (mode : RMode) (sat : Bool) (x : FVal) : Nat × Flags :=
  match x with
  | .nan _ => (0xFF, flagInvalid)
  | .inf neg =>
    if neg then (if sat then (0, 0) else (0xFF, flagInvalid)) else if sat then (0xFE, 0) else (0xFF, flagInvalid)
  | .fin neg m e sticky =>
    if neg || (m = 0 && !sticky) then (if sat then (0, 0) else (0xFF, flagInvalid))
    else
      let (n, q, ix) := roundMag 1 127 (floorLog2 m e) mode false m e sticky
      let k := floorLog2 n q
      if k > 127 then (0xFE, flagOverflow ||| flagInexact)
      else if k < -127 then (0, flagUnderflow ||| flagInexact)
      else ((k + 127).toNat, if ix then flagInexact else 0)

/-- An exact value converted into any format that has values (R62 to R64). -/
def roundTo (f : Fmt) (mode : RMode) (sat : Bool) (x : FVal) : Nat × Flags :=
  match f with
  | .int w signed => roundInt w signed mode x
  | .x8 => roundX8 mode sat x
  | .raw _ => (0, 0)
  | f =>
    match floatSpec f with
    | some s => roundFloat s mode sat x
    | none => (0, 0)

/-- The opposite of a value (R65); a NaN stays. -/
def FVal.negate : FVal → FVal
  | .nan s => .nan s
  | .inf n => .inf (!n)
  | .fin n m e s => .fin (!n) m e s

/-- The absolute value (R65); a NaN stays. -/
def FVal.abs : FVal → FVal
  | .nan s => .nan s
  | .inf _ => .inf false
  | .fin _ m e s => .fin false m e s

/-- Whether a value is a signalling NaN. -/
def FVal.isSig : FVal → Bool
  | .nan s => s
  | _ => false

/-- Whether a value is a NaN. -/
def FVal.isNan : FVal → Bool
  | .nan _ => true
  | _ => false

/-- A source after the modifier's absolute value and negation, in that order (R65 step 1). -/
def modSource (absolute neg : Bool) (x : FVal) : FVal :=
  let x := if absolute then x.abs else x
  if neg then x.negate else x

/-- The flag of a signalling NaN among operands (R59). -/
def sigFlag (b : Bool) : Flags := if b then flagInvalid else 0

/-- The sum of two exact finite values without remainder. `down` is the mode .rd, which decides the sign of an exact
zero (R91). -/
def addFin (down : Bool) (na : Bool) (ma : Nat) (ea : Int) (nb : Bool) (mb : Nat) (eb : Int) : FVal :=
  let e := min ea eb
  let a : Int := (ma <<< (ea - e).toNat : Nat)
  let b : Int := (mb <<< (eb - e).toNat : Nat)
  let s := (if na then -a else a) + (if nb then -b else b)
  if s = 0 then .fin (if na = nb && ma = 0 && mb = 0 then na else down) 0 e false
  else .fin (s < 0) s.natAbs e false

/-- The exact sum of two values (R59, R91) and the flags of forming it. -/
def addVal (down : Bool) (x y : FVal) : FVal × Flags :=
  match x, y with
  | .nan a, y => (.nan false, sigFlag (a || y.isSig))
  | _, .nan b => (.nan false, sigFlag b)
  | .inf a, .inf b => if a = b then (.inf a, 0) else (.nan false, flagInvalid)
  | .inf a, _ => (.inf a, 0)
  | _, .inf b => (.inf b, 0)
  | .fin na ma ea _, .fin nb mb eb _ => (addFin down na ma ea nb mb eb, 0)

/-- The exact product of two values (R59, R91) and the flags of forming it. -/
def mulVal (x y : FVal) : FVal × Flags :=
  match x, y with
  | .nan a, y => (.nan false, sigFlag (a || y.isSig))
  | _, .nan b => (.nan false, sigFlag b)
  | .inf a, .inf b => (.inf (a != b), 0)
  | .inf a, .fin n m _ _ => if m = 0 then (.nan false, flagInvalid) else (.inf (a != n), 0)
  | .fin n m _ _, .inf b => if m = 0 then (.nan false, flagInvalid) else (.inf (n != b), 0)
  | .fin na ma ea _, .fin nb mb eb _ => (.fin (na != nb) (ma * mb) (ea + eb) false, 0)

/-- The exact value `x × y + z` with one rounding to come (R91): `inf × 0` is invalid and gives a NaN even beside a
quiet NaN. -/
def fmaVal (down : Bool) (x y z : FVal) : FVal × Flags :=
  let (p, f) := mulVal x y
  let (r, g) := addVal down p z
  (r, f ||| g)

/-- The order of two non-NaN values with −0 below +0: whether the first is the smaller (R59). -/
def lessTotal (x y : FVal) : Bool :=
  match x, y with
  | .inf a, .inf b => a && !b
  | .inf a, _ => a
  | _, .inf b => !b
  | .fin na ma ea _, .fin nb mb eb _ =>
    let e := min ea eb
    let a : Int := (ma <<< (ea - e).toNat : Nat)
    let b : Int := (mb <<< (eb - e).toNat : Nat)
    let a := if na then -a else a
    let b := if nb then -b else b
    if a = b then na && !nb && ma = 0 else a < b
  | _, _ => false

/-- FMIN (`mx` false) and FMAX (`mx` true) of R59: the other operand when one is a NaN, the canonical NaN when both
are, invalid for a signalling NaN. -/
def minmaxVal (mx : Bool) (x y : FVal) : FVal × Flags :=
  let f := sigFlag (x.isSig || y.isSig)
  if x.isNan && y.isNan then (.nan false, f)
  else if x.isNan then (y, f)
  else if y.isNan then (x, f)
  else if mx then (if lessTotal x y then y else x, f) else (if lessTotal y x then y else x, f)

/-- The comparison of R92: equal, less; −0 equals +0; false for NaNs. -/
def eqVal (x y : FVal) : Bool :=
  if x.isNan || y.isNan then false
  else match x, y with
    | .fin _ 0 _ _, .fin _ 0 _ _ => true
    | _, _ => !lessTotal x y && !lessTotal y x

def ltVal (x y : FVal) : Bool :=
  if x.isNan || y.isNan then false
  else match x, y with
    | .fin _ 0 _ _, .fin _ 0 _ _ => false
    | _, _ => lessTotal x y

/-- Step 3 of R65: the exact value multiplied by 2^k. -/
def scaleVal (k : Int) : FVal → FVal
  | .fin n m e s => .fin n m (e + k) s
  | x => x

/-- Whether a magnitude is above 1, or is 1 with a remainder. -/
def magAboveOne (m : Nat) (e : Int) (sticky : Bool) : Bool :=
  if m = 0 then false
  else
    let l := floorLog2 m e
    l > 0 || (l = 0 && (m != 2 ^ (bitLen m - 1) || sticky))

/-- Step 4 of R65: clamp code 1 to [0, 1], code 2 to [−1, 1]; a NaN becomes +0. A zero keeps its sign. -/
def clampVal (c : BitVec 2) (x : FVal) : FVal :=
  if c = 0 then x
  else
    let one (n : Bool) : FVal := .fin n 1 0 false
    match x with
    | .nan _ => .fin false 0 0 false
    | .inf n => if n then (if c = 1 then .fin false 0 0 false else one true) else one false
    | .fin n m e s =>
      if m = 0 && !s then x
      else if n && c = 1 then .fin false 0 0 false
      else if magAboveOne m e s then one n
      else x

/-- Integer square root (floor) by binary digits, from the digit `k` down. -/
def isqrtFrom (n : Nat) : Nat → Nat → Nat
  | 0, r => if (r + 1) * (r + 1) ≤ n then r + 1 else r
  | k + 1, r => isqrtFrom n k (if (r + 2 ^ (k + 1)) * (r + 2 ^ (k + 1)) ≤ n then r + 2 ^ (k + 1) else r)

/-- Integer square root (floor). -/
def isqrt (n : Nat) : Nat := isqrtFrom n (bitLen n / 2) 0

/-- The reciprocal of a non-zero finite magnitude (R93), to 80 digits and a remainder. -/
def recipVal (neg : Bool) (m : Nat) (e : Int) : FVal :=
  let k := bitLen m + 80
  .fin neg (2 ^ k / m) (-e - (k : Int)) (2 ^ k % m != 0)

/-- The square root of a positive magnitude (R93). -/
def sqrtVal (m : Nat) (e : Int) : FVal :=
  let odd := e % 2 != 0
  let m := if odd then 2 * m else m
  let e := if odd then e - 1 else e
  let k := 64
  let n := m <<< (2 * k)
  let r := isqrt n
  .fin false r (e / 2 - (k : Int)) (r * r != n)

/-- The reciprocal of the square root of a positive magnitude (R93). -/
def rsqrtVal (m : Nat) (e : Int) : FVal :=
  let odd := e % 2 != 0
  let m := if odd then 2 * m else m
  let e := if odd then e - 1 else e
  let k := bitLen m + 80
  let r := isqrt (2 ^ (2 * k) / m)
  .fin false r (-(e / 2) - (k : Int)) (r * r * m != 2 ^ (2 * k))

/-- Bounds of `2^(1/2 + …)` products: multiplies the bounds by the square roots of 2 whose digits in `f` are set.
`f` has `n` fraction digits; `c` bounds the current root, all with `p` fraction digits. -/
def exp2Digits (p f : Nat) : Nat → Nat → Nat → Nat → Nat → Nat × Nat
  | 0, _, _, lo, hi => (lo, hi)
  | n + 1, clo, chi, lo, hi =>
    let rlo := isqrt (clo <<< p)
    let rhi := isqrt (chi <<< p) + 1
    if f.testBit n then exp2Digits p f n rlo rhi ((lo * rlo) >>> p) (((hi * rhi) >>> p) + 1)
    else exp2Digits p f n rlo rhi lo hi

/-- `2^(f / 2^n)` for `0 < f < 2^n`, irrational: its 64 leading fraction digits and a remainder. -/
def exp2Frac (f n : Nat) : Nat :=
  let p := 320
  let (lo, _) := exp2Digits p f n (2 ^ (p + 1)) (2 ^ (p + 1)) (2 ^ p) (2 ^ p)
  lo >>> (p - 64)

/-- 2^x for a finite x (R93). Exponents beyond ±2^20 lie outside every format, whatever the scale. -/
def exp2Val (neg : Bool) (m : Nat) (e : Int) : FVal :=
  if m = 0 then .fin false 1 0 false
  else if floorLog2 m e ≥ 20 then .fin false 1 (if neg then -(2 ^ 20 : Int) else 2 ^ 20) false
  else if e ≥ 0 then
    let i : Int := (m <<< e.toNat : Nat)
    .fin false 1 (if neg then -i else i) false
  else
    let n := (-e).toNat
    let v : Int := if neg then -(m : Int) else m
    let i := v / ((2 ^ n : Nat) : Int)
    let f := (v % ((2 ^ n : Nat) : Int)).toNat
    if f = 0 then .fin false 1 i false else .fin false (exp2Frac f n) (i - 64) true

/-- The first `n` binary digits of log2 y for the lower bound `y` of a number in [1, 2) with `p` fraction digits. -/
def log2Digits (p : Nat) : Nat → Nat → Nat → Nat
  | 0, _, acc => acc
  | n + 1, y, acc =>
    let y2 := (y * y) >>> p
    if y2 ≥ 2 ^ (p + 1) then log2Digits p n (y2 / 2) (2 * acc + 1) else log2Digits p n y2 (2 * acc)

/-- log2 of a positive magnitude (R93): exact for a power of two, else 100 fraction digits and a remainder. -/
def log2Val (m : Nat) (e : Int) : FVal :=
  let l := bitLen m - 1
  let i : Int := (l : Int) + e
  if m = 2 ^ l then .fin (i < 0) i.natAbs 0 false
  else
    let p := 512
    let d := log2Digits p 100 (m <<< (p - l)) 0
    let v : Int := i * ((2 ^ 100 : Nat) : Int) + (d : Int)
    if v < 0 then .fin true (-v - 1).toNat (-100) true else .fin false v.toNat (-100) true

/-- The unary float functions of R93. -/
inductive UnaryFn where
  | rcp
  | rsq
  | sqrt
  | exp2
  | log2
deriving DecidableEq, Repr

/-- The exact result of a unary function and the flags of forming it (R93, its table of special operands). -/
def unaryVal (fn : UnaryFn) (x : FVal) : FVal × Flags :=
  match x with
  | .nan s => (.nan false, sigFlag s)
  | .inf neg =>
    match fn with
    | .rcp => (.fin neg 0 0 false, 0)
    | .rsq => if neg then (.nan false, flagInvalid) else (.fin false 0 0 false, 0)
    | .sqrt => if neg then (.nan false, flagInvalid) else (.inf false, 0)
    | .exp2 => if neg then (.fin false 0 0 false, 0) else (.inf false, 0)
    | .log2 => if neg then (.nan false, flagInvalid) else (.inf false, 0)
  | .fin neg m e _ =>
    if m = 0 then
      match fn with
      | .rcp => (.inf neg, flagDivZero)
      | .rsq => (.inf neg, flagDivZero)
      | .sqrt => (.fin neg 0 0 false, 0)
      | .exp2 => (.fin false 1 0 false, 0)
      | .log2 => (.inf true, flagDivZero)
    else
      match fn with
      | .rcp => (recipVal neg m e, 0)
      | .exp2 => (exp2Val neg m e, 0)
      | .rsq => if neg then (.nan false, flagInvalid) else (rsqrtVal m e, 0)
      | .sqrt => if neg then (.nan false, flagInvalid) else (sqrtVal m e, 0)
      | .log2 => if neg then (.nan false, flagInvalid) else (log2Val m e, 0)

/-- One round of the generator of R69. -/
def genRound (k0 k1 a b c d : Word) : Word × Word × Word × Word :=
  let p := a * 0xE817FB2D#32
  let q := c * 0xA6B9C3D7#32
  (q ^^^ (q >>> 16) ^^^ b ^^^ k0, p ^^^ (p <<< 5), p ^^^ (p >>> 13) ^^^ d ^^^ k1, q ^^^ (q <<< 9))

/-- The rounds of the generator that remain. -/
def genRounds : Nat → Word → Word → Word → Word → Word → Word → Word
  | 0, _, _, a, _, _, _ => a
  | n + 1, k0, k1, a, b, c, d =>
    let (a', b', c', d') := genRound k0 k1 a b c d
    genRounds n (k0 + 0x6C8E9CF5#32) (k1 + 0x3D4D51CB#32) a' b' c' d'

/-- The counter-based generator of R69. -/
def gen (seed : DWord) (row col stream : Word) : Word := genRounds 10 (loWord seed) (hiWord seed) row col stream 0

/-- binary32 rounding to nearest, the `round(·, .f32, .rn)` of the pseudocode. -/
def roundF32 (x : FVal) : Word × Flags :=
  match floatSpec .f32 with
  | some s => let (c, f) := roundFloat s .rn false x; (BitVec.ofNat 32 c, f)
  | none => (0, 0)

/-- The value of a binary32 register. -/
def f32 (w : Word) : FVal := decodeElem .f32 w.toNat

/-- The sum of two binary32 registers rounded to nearest (R104, R150, R203). -/
def addF32 (x y : Word) : Word × Flags :=
  let (v, f) := addVal false (f32 x) (f32 y)
  let (w, g) := roundF32 v
  (w, f ||| g)

/-- The minimum or maximum of two binary32 registers (R59). -/
def minmaxF32 (mx : Bool) (x y : Word) : Word × Flags :=
  let (v, f) := minmaxVal mx (f32 x) (f32 y)
  let (w, g) := roundF32 v
  (w, f ||| g)

end Sys2Proof
end

