-- ==== Sys2Proof/Machine/Mem.lean ====
section
/-!
DEFINITION. Lookups in the state, homes of physical addresses, and accesses performed at their home: bytes, block
versions (R399), stamps (R341), poison (R392), redirects of a migration (R394), the device cache (R406) and lines the
host holds (R405).
-/

namespace Sys2Proof.Machine

/-! ## Lookups -/

def State.group? (s : State) (g : Nat) : Option Group := s.groups.find? fun x => x.gid == g

def State.updGroup (s : State) (g : Nat) (f : Group → Group) : State :=
  { s with groups := s.groups.map fun x => if x.gid == g then f x else x }

def State.block? (s : State) (b : Nat) : Option Block := s.blocks.find? fun x => x.bid == b

def State.updBlock (s : State) (b : Nat) (f : Block → Block) : State :=
  { s with blocks := s.blocks.map fun x => if x.bid == b then f x else x }

def State.launch? (s : State) (l : Nat) : Option Launch := s.launches.find? fun x => x.lid == l

def State.updLaunch (s : State) (l : Nat) (f : Launch → Launch) : State :=
  { s with launches := s.launches.map fun x => if x.lid == l then f x else x }

def State.ctx (s : State) (c : Nat) : Ctx := vget Ctx.reset s.ctxs c

def State.updCtx (s : State) (c : Nat) (f : Ctx → Ctx) : State := { s with ctxs := vset s.ctxs c (f (s.ctx c)) }

def State.queue (s : State) (q : Nat) : Queue := vget Queue.reset s.queues q

def State.updQueue (s : State) (q : Nat) (f : Queue → Queue) : State :=
  { s with queues := vset s.queues q (f (s.queue q)) }

def State.coreRegs (s : State) (c : Nat) : CoreRegs := listGet CoreRegs.reset s.cores c

def State.updCore (s : State) (c : Nat) (f : CoreRegs → CoreRegs) : State :=
  { s with cores := listPut s.cores c (f (s.coreRegs c)) }

def State.cluster (s : State) (k : Nat) : Cluster := listGet Cluster.reset s.clusters k

def State.updCluster (s : State) (k : Nat) (f : Cluster → Cluster) : State :=
  { s with clusters := listPut s.clusters k (f (s.cluster k)) }

def State.bank (s : State) (k b : Nat) : Bank := listGet Bank.reset (s.cluster k).banks b

def State.updBank (s : State) (k b : Nat) (f : Bank → Bank) : State :=
  s.updCluster k fun c => { c with banks := listPut c.banks b (f (listGet Bank.reset c.banks b)) }

def State.engine (s : State) (c : Nat) : Engine := listGet Engine.reset s.engines c

def State.updEngine (s : State) (c : Nat) (f : Engine → Engine) : State :=
  { s with engines := listPut s.engines c (f (s.engine c)) }

def State.updHost (s : State) (f : HostSide → HostSide) : State := { s with host := f s.host }

/-- Counts an event of code `c` on a core (R434). -/
def State.countEvent (s : State) (core c n : Nat) : State :=
  if n = 0 then s
  else
    let r := s.coreRegs core
    if (List.range 8).any fun k => (vget 0 r.evsel k).toNat == c then
      s.updCore core fun r => { r with evcnt := Vector.ofFn fun (k : Fin 8) =>
        if (r.evsel[k]).toNat = c then BitVec.ofNat 64 (min ((r.evcnt[k]).toNat + n) (2 ^ 48 - 1)) else r.evcnt[k] }
    else s

/-- The hardware cluster and die of a logical core (R19). -/
def coreClu (c : Nat) : Nat := c / 4
def coreDie (c : Nat) : Nat := c / 80

/-- The launch of a group is deterministic: the viewer of its reads and the tag of its writes (R20, R399). -/
def State.detTag (s : State) (lid bidx : Nat) : Option (Nat × Nat) :=
  match s.launch? lid with
  | some l => if l.lr.det then some (lid, bidx) else none
  | none => none

/-- The linear block index of a group. -/
def State.blockIdx (s : State) (g : Group) : Nat :=
  match s.block? g.bid with
  | some b => b.idx
  | none => 0

def State.groupTag (s : State) (g : Group) : Option (Nat × Nat) := s.detTag g.lid (s.blockIdx g)

/-! ## Homes (R276, R402) -/

def inHbm (pa : Nat) : Bool := pa < Config.hbmBytes
def inHost (pa : Nat) : Bool := 0x1000000000000 ≤ pa && pa < 0x2000000000000
def inPool (pa : Nat) : Bool := 0x2000000000000 ≤ pa && pa < 0x4000000000000
def inPeer (key : Nat) : Bool := 2 ^ 52 ≤ key

/-- Whether an address lies in a memory range of R402. -/
def inMemory (pa : Nat) : Bool := inHbm pa || inHost pa || inPool pa

/-- The key of a physical address of peer device `d`. -/
def peerKey (d pa : Nat) : Nat := (d + 1) * 2 ^ 52 + pa

/-- The base die of a physical address of device, host or pool memory (R276). -/
def homeBase (pa : Nat) : Nat := (pa >>> 13) % 4

/-- The L3 slice, on its base die, that caches a physical address of device, host or pool memory (R276). -/
def l3Slice (pa : Nat) : Nat := ((pa >>> 8) % 32) ^^^ ((pa >>> 15) % 32)

/-- The HBM stack of a physical address of device memory, of its base die's three (R276). -/
def homeStack (pa : Nat) : Nat := 3 * homeBase pa + (pa >>> 15) % 3

/-- The home slice of a physical address, a device-wide number (R276). -/
def homeSlice (pa : Nat) : Nat :=
  let h := 2 * homeBase pa + (pa >>> 15) % 2
  32 * h + (((pa >>> 8) % 32) ^^^ ((pa >>> 16) % 32))

/-- The pool range an address lies in: the lowest-numbered enabled one (R407). -/
def poolRange (s : State) (pa : Nat) : Option Nat :=
  (List.range 16).find? fun i =>
    let e := vget 0 s.host.poolrng i
    let base := (e.extractLsb' 0 24).toNat * 2 ^ 28
    let size := (e.extractLsb' 28 20).toNat * 2 ^ 28
    e.getLsbD 63 && base ≤ pa && pa < base + size

/-- The pool range of an address is fenced (R409). -/
def fenced (s : State) (pa : Nat) : Bool :=
  inPool pa && (match poolRange s pa with
    | some i => (vget 0 s.host.poolrng i).getLsbD 62
    | none => false)

/-- Where the line frame of a copied line went (R394). -/
def movedTo (ms : List Migr) (frame : Nat) : Option Nat :=
  ms.findSome? fun m => m.lines.findSome? fun (a, b, c) => if c && a == frame then some b else none

/-- The key at the end of a chain of `n` redirects: a destination may itself have been migrated on (R394). -/
def redirectBy (ms : List Migr) : Nat → Nat → Nat
  | 0, key => key
  | n + 1, key =>
    match movedTo ms (key / 256) with
    | some b => redirectBy ms n (b * 256 + key % 256)
    | none => key

/-- The key an access to a migrated line is redirected to (R394). -/
def redirect (s : State) (key : Nat) : Nat := redirectBy s.migr s.migr.length key

/-- A migration that has not been released has a bit for the frame of an address: no cache keeps it (R393). -/
def migrating (s : State) (key : Nat) : Bool := s.migr.any fun m => m.lines.any fun l => l.1 == key / 256

/-! ## Bytes at home -/

/-- The version of the highest block index, the newest on ties. Among the versions of several deterministic launches, of which
each is of index -1 to the others, R399 leaves the newest open: the model takes this one, and takes it ahead of an untagged
byte (log 59). -/
def topVersion (vs : List Version) : Option Byte :=
  (vs.foldl (fun (best : Option Version) v =>
    match best with
    | none => some v
    | some w => if w.idx ≤ v.idx then some v else some w) none).map Version.val

/-- The byte of a deterministic launch's versions a viewer reads (R399): for a block of the launch, the highest index
not above its own; for any other viewer, or where the launch holds none it sees, the highest index of the others. -/
def versionByte (s : State) (viewer : Option (Nat × Nat)) (key : Nat) : Option Byte :=
  let vs := s.ver.filter fun v => v.addr == key
  match viewer with
  | none => topVersion vs
  | some (l, b) =>
    match topVersion (vs.filter fun v => v.lid == l && v.idx ≤ b) with
    | some x => some x
    | none => topVersion (vs.filter fun v => v.lid != l)

/-- A byte of physical memory as a viewer reads it at its home slice. -/
def homeByte (s : State) (viewer : Option (Nat × Nat)) (key : Nat) : Byte :=
  let key := redirect s key
  match versionByte s viewer key with
  | some b => b
  | none => cellGet s.mem key

/-- A byte of a place. -/
def placeByte (s : State) (viewer : Option (Nat × Nat)) : Place → Nat → Byte
  | .mem k, o => homeByte s viewer (k + o)
  | .case k, o => cellGet s.caseMem (k + o)

/-- `n` bytes of a place as a number (R4). -/
def placeNum (s : State) (viewer : Option (Nat × Nat)) (p : Place) (n : Nat) : Nat :=
  ofLeBytes ((List.range n).map (placeByte s viewer p))

/-- A number at a physical address as an observer outside every launch reads it (R380, R404). -/
def physNum (s : State) (pa n : Nat) : Nat := placeNum s none (.mem pa) n

/-- A sector of a read is poisoned, or its pool range is fenced (R392, R409). -/
def poisonedAt (s : State) (p : Place) (n : Nat) : Bool :=
  match p with
  | .case _ => false
  | .mem k =>
    let k := redirect s k
    s.poison.any (fun x => k / 32 ≤ x && x ≤ (k + n - 1) / 32) || (n != 0 && fenced s k)

/-- The asynchronous error code an access meets on its link: 2 for an unreachable peer (R410), 3 for a fenced pool range
(R409). -/
def linkCode (s : State) (p : Place) : Option (BitVec 8) :=
  match p with
  | .case _ => none
  | .mem k =>
    if inPeer k then (if vget 0 s.host.routes (k / 2 ^ 52 - 1) = 0 then some 2 else none)
    else if fenced s k then some 3 else none

/-- Advances the write stamp of a frame (R341). -/
def bumpStamp (s : State) (key : Nat) : State :=
  if inHbm key then
    let f := key / 256
    { s with stamps := listPut s.stamps f (listGet 0 s.stamps f + 1) }
  else s

/-- The current write stamp of a frame (R341). -/
def stampOf (s : State) (frame : Nat) : Nat := listGet 0 s.stamps frame

/-- The state in which the host grants a line for a read (R406): S, or E as it chooses. -/
def granted (s : State) : L3St := if Config.grantExclusive s.fresh then .e else .s

/-- The device cache takes a line for a read (R406). -/
def l3Read (s : State) (die key : Nat) : State :=
  if inHost key || inPool key then
    let n := key / 64
    match s.host.l3.find? (fun x => x.line == n) with
    | none => { s.updHost (fun h => { h with
        l3 := { line := n, st := granted s, die := die, by_ := none, home := [] } :: h.l3, outbox := h.outbox ++ [.rdShared n] })
        with fresh := s.fresh + 1 }
    | some x =>
      if x.st == .i then { s.updHost (fun h => { h with
          l3 := h.l3.map (fun y => if y.line == n then { y with st := granted s } else y), outbox := h.outbox ++ [.rdShared n] })
          with fresh := s.fresh + 1 }
      else if x.st == .m && x.die != die then s.updHost fun h => { h with
          l3 := h.l3.map (fun y => if y.line == n then { y with st := .o } else y) }
      else s
  else s

/-- The device cache takes write ownership of a line (R406). -/
def l3Write (s : State) (die : Nat) (by_ : Option Writer) (key : Nat) : State :=
  if inHost key || inPool key then
    let n := key / 64
    let home := bytesAt s.mem (n * 64) 64
    match s.host.l3.find? (fun x => x.line == n) with
    | none => s.updHost fun h => { h with
        l3 := { line := n, st := .m, die := die, by_ := by_, home := home } :: h.l3, outbox := h.outbox ++ [.rdOwn n] }
    | some x =>
      let dirty := x.st == .m || x.st == .o
      let ask := x.st == .i || x.st == .s
      s.updHost fun h => { h with
        l3 := h.l3.map (fun y => if y.line == n then
          { y with st := .m, die := die, by_ := by_, home := if dirty then y.home else home } else y),
        outbox := if ask then h.outbox ++ [.rdOwn n] else h.outbox }
  else s

/-- Enters a byte of a deterministic launch's block (R399). -/
def putVersion (vs : List Version) (lid key idx : Nat) (b : Byte) : List Version :=
  vs.filter (fun v => !(v.lid == lid && v.addr == key && v.idx == idx)) ++ [{ lid := lid, addr := key, idx := idx, val := b }]

/-- The block of an index has ended and awaits neither restart nor restore (R400). -/
def endedIdx (s : State) (l : Launch) (t : Nat) : Bool :=
  t < l.next && !l.again.any (fun r => r.idx == t) &&
  !s.blocks.any (fun b => b.lid == l.lid && b.idx == t) &&
  !s.disp.sends.any (fun d => d.lid == l.lid && d.blocks.any fun r => r.idx == t)

/-- The entry of index `t` is one that no block can read any more, the next index held being `u` (R400). -/
def deadIdx (s : State) (l : Launch) (t u : Nat) : Bool := (List.range (u - t)).all fun k => endedIdx s l (t + k)

/-- The next index above `t` that a launch holds of a byte. -/
def nextIdx (s : State) (v : Version) : Option Nat :=
  leastBy id ((s.ver.filter fun w => w.lid == v.lid && w.addr == v.addr && v.idx < w.idx).map (·.idx))

/-- Drops the entries of a launch that no block can read (R400). The highest index of a byte stays: the memory of R399
outside the launch. -/
def dropVersions (s : State) (lid : Nat) : State :=
  match s.launch? lid with
  | none => s
  | some l => { s with ver := s.ver.filter fun v => v.lid != lid || (match nextIdx s v with
      | some u => !deadIdx s l v.idx u
      | none => true) }

/-- The bytes of a write to physical memory, tagged or not (R399); entries that no block can read once a higher index stands are
dropped (R400). -/
def putMem (s : State) (tag : Option (Nat × Nat)) (key : Nat) (bs : List (Nat × Byte)) : State :=
  match tag with
  | none => { s with mem := offsetsPut s.mem key bs }
  | some (l, b) => dropVersions { s with ver := bs.foldl (fun v (o, x) => putVersion v l (key + o) b x) s.ver } l

/-- The offsets of a write cover the whole 32-byte sector at `key` (R392). -/
def coversSector (key : Nat) (bs : List (Nat × Byte)) : Bool :=
  (List.range 32).all fun o => bs.any fun (p, _) => key + p == (key / 32) * 32 + o

/-- The page is still a galley page by one of the leaf entries it was reached through: G set, and the frame its own, or that of a
page it was migrated from (R355, R382). -/
def GalleyPage.stands (s : State) (p : GalleyPage) : Bool :=
  p.entries.any fun a =>
    let e := physNum s a 8
    e.testBit 6 && (p.page / 2 ^ p.bits :: p.was).contains (e % 2 ^ 52 / 2 ^ p.bits)

/-- Pages whose entries the write of a sector changed and that are galley pages no longer drop their impressions and their
floor: made galley pages again, they begin anew with the page's bytes (R194, R333, R351). -/
def dropGalleys (s : State) (key : Nat) : State :=
  let gone := fun (p : GalleyPage) => p.entries.any (fun a => a / 32 == key / 32) && !p.stands s
  if s.galfloor.any gone then
    { s with galfloor := s.galfloor.filter (fun p => !gone p),
             imps := s.imps.filter fun c => !s.galfloor.any fun p => gone p && c.sector * 32 / 2 ^ p.bits == p.page / 2 ^ p.bits }
  else s

/-- One write performed at its home (R277): redirected, dropped when its pool range is fenced, with the stamp of its
frame advanced, the poison of a wholly written sector cleared and the device cache's line taken. The bytes lie in one
sector. A write of a page-table entry can end a galley page. -/
def writeHome (s : State) (tag : Option (Nat × Nat)) (die : Nat) (by_ : Option Writer) (p : Place)
    (bs : List (Nat × Byte)) : State :=
  if bs.isEmpty then s
  else
    match p with
    | .case k => { s with caseMem := offsetsPut s.caseMem k bs }
    | .mem k =>
      let k := redirect s k
      if fenced s k then s
      else
        let s := l3Write s die by_ k
        let s := dropGalleys (bumpStamp (putMem s tag k bs) k) k
        if coversSector k bs then { s with poison := s.poison.filter (· != k / 32) } else s

/-- Groups bytes at rising keys by 32-byte sectors. -/
def bySector : List (Nat × Byte) → List (Nat × List (Nat × Byte))
  | [] => []
  | (k, b) :: r =>
    match bySector r with
    | (q, bs) :: t => if q = k / 32 * 32 then (q, (k - q, b) :: bs) :: t else (k / 32 * 32, [(k % 32, b)]) :: (q, bs) :: t
    | [] => [(k / 32 * 32, [(k % 32, b)])]

/-- A run of bytes written at home, one write for each sector it touches. -/
def writeRun (s : State) (tag : Option (Nat × Nat)) (die : Nat) (by_ : Option Writer) (p : Place) (bytes : List Byte) :
    State :=
  match p with
  | .case k => { s with caseMem := bytesPut s.caseMem k bytes }
  | .mem k =>
    (bySector ((List.range bytes.length).zip bytes |>.map fun (i, b) => (k + i, b))).foldl
      (fun s (q, bs) => writeHome s tag die by_ (.mem q) bs) s

/-! ## Lines the host holds (R405) -/

/-- The parts of a span in line frames, redirected (R394): an address and a length for each. -/
def redirected (s : State) (k n : Nat) : List (Nat × Nat) :=
  (List.range ((k + n + 255) / 256 - k / 256)).map fun i =>
    let lo := max k (256 * (k / 256 + i))
    (redirect s lo, min (k + n) (256 * (k / 256 + i + 1)) - lo)

/-- A line of device HBM, by the number the host knows it under, lies in a span after every redirect (R394). -/
def lineIn (s : State) (k n l : Nat) : Bool :=
  let a := redirect s (64 * l)
  inHbm a && (redirected s k n).any fun (b, m) => b < a + 64 && a < b + m

/-- The access waits for the host: it holds the line, for a read it may have modified it, or it has been asked and has not
answered. -/
def hostHolds (s : State) (p : Place) (n : Nat) (write : Bool) : Bool :=
  match p with
  | .case _ => false
  | .mem k => s.host.hostHeld.any fun (l, keep) =>
      (write || keep == .mayModify || s.host.snoops.contains l) && lineIn s k n l

/-- Sends the back-invalidation snoops an access needs (R405). -/
def askHost (s : State) (p : Place) (n : Nat) (write : Bool) : State :=
  match p with
  | .case _ => s
  | .mem k =>
    let lines := (s.host.hostHeld.filter fun (l, keep) =>
      (write || keep == .mayModify) && !s.host.snoops.contains l && lineIn s k n l).map (·.1)
    s.updHost fun h => { h with
      snoops := h.snoops ++ lines,
      outbox := h.outbox ++ lines.map (fun l => if write then Msg.bisnpInv l else Msg.bisnpData l) }

/-- The same for an event: nothing happens when the host has been asked, or holds nothing of it. -/
def askOnce (s : State) (p : Place) (n : Nat) (write : Bool) : Option State :=
  let t := askHost s p n write
  if t.host.snoops.length = s.host.snoops.length then none else some t

/-! ## Atomic operations (R150) -/

/-- The signed value of the low `8 n` bits. -/
def signedOf (n : Nat) (x : Nat) : Int :=
  if 2 ^ (8 * n - 1) ≤ x then (x : Int) - ((2 ^ (8 * n) : Nat) : Int) else x

/-- The new value of an atomic operation and whether it is written; `size` is 4 or 8 bytes. -/
def atomOp (op : Nat) (u : Bool) (size m x c : Nat) : Nat × Bool :=
  let w := 2 ^ (8 * size)
  match op with
  | 0 => ((m + x) % w, true)
  | 1 => (if u then min m x else if signedOf size m ≤ signedOf size x then m else x, true)
  | 2 => (if u then max m x else if signedOf size m ≤ signedOf size x then x else m, true)
  | 3 => (m &&& x, true)
  | 4 => (m ||| x, true)
  | 5 => (m ^^^ x, true)
  | 6 => (x, true)
  | 7 => if m = c then (x, true) else (m, false)
  | 8 => ((addF32 (BitVec.ofNat 32 m) (BitVec.ofNat 32 x)).1.toNat, true)
  | 9 => ((minmaxF32 false (BitVec.ofNat 32 m) (BitVec.ofNat 32 x)).1.toNat, true)
  | 10 => ((minmaxF32 true (BitVec.ofNat 32 m) (BitVec.ofNat 32 x)).1.toNat, true)
  | _ => (m, false)

/-- A number as bytes at offsets from its place. -/
def numBytes (n x : Nat) : List (Nat × Byte) := (List.range n).map fun i => (i, BitVec.ofNat 8 (x >>> (8 * i)))

/-! ## Queued writes (R146, R287, R291) -/

/-- Whether a queued write covers a byte. -/
def SqEntry.covers (e : SqEntry) (p : Place) : Bool :=
  match e.kind, e.place, p with
  | .store bs, .mem k, .mem a => bs.any fun (o, _) => k + o == a
  | .store bs, .case k, .case a => bs.any fun (o, _) => k + o == a
  | .red _ _ n _, .mem k, .mem a => k ≤ a && a < k + n
  | .red _ _ n _, .case k, .case a => k ≤ a && a < k + n
  | _, _, _ => false

/-- The byte a queued store gives a place. -/
def SqEntry.byte (e : SqEntry) (p : Place) : Option Byte :=
  match e.kind, e.place, p with
  | .store bs, .mem k, .mem a => (bs.find? fun (o, _) => k + o == a).map (·.2)
  | .store bs, .case k, .case a => (bs.find? fun (o, _) => k + o == a).map (·.2)
  | _, _, _ => none

/-- The places a queued write covers. -/
def SqEntry.places (e : SqEntry) : List Place :=
  match e.kind, e.place with
  | .store bs, .mem k => bs.map fun (o, _) => .mem (k + o)
  | .store bs, .case k => bs.map fun (o, _) => .case (k + o)
  | .red _ _ n _, .mem k => (List.range n).map fun o => .mem (k + o)
  | .red _ _ n _, .case k => (List.range n).map fun o => .case (k + o)

/-- A queued write reaches a byte of a span, both after every redirect (R394). -/
def SqEntry.reaches (s : State) (e : SqEntry) (k n : Nat) : Bool :=
  e.places.any fun p => match p with
    | .mem a => (redirected s k n).any fun (b, m) => b ≤ redirect s a && redirect s a < b + m
    | .case _ => false

/-- Two queued writes share a byte. -/
def SqEntry.overlaps (e f : SqEntry) : Bool := e.places.any f.covers

/-- The write goes to host, pool or peer memory: path X (R284). -/
def SqEntry.pathX (e : SqEntry) : Bool := e.path == 4

/-- The path of a lane's access to a place (R284). -/
def lanePath : Place → Nat
  | .mem k => if inHbm k then 0 else 4
  | .case _ => 0

/-- The entry is past the write point and seen by a core (R146, R287): by its own, or, once it has been performed in
its cluster, by every core of it. -/
def SqEntry.seenBy (e : SqEntry) (core : Nat) : Bool :=
  !e.heldBack && ((e.vis ≥ 1 && e.core == core) || (e.vis ≥ 2 && coreClu e.core == coreClu core))

/-- A release or fence of a group on path X, or else on path L, takes the entry along (R289, R290, R292): its core sees it, or it is
a write of a drain that the group has waited for (R230). -/
def SqEntry.shownOn (e : SqEntry) (gid core : Nat) (x : Bool) : Bool :=
  e.pathX == x && (e.seenBy core || (e.heldBack && !e.sync && e.gid == gid))

/-- The launch site of an access or command with an error code (R379). -/
def siteOf (s : State) (lid : Nat) (code : BitVec 8) (pc seq : Word) (va : DWord) (block core grp : Nat) : AsyncSite :=
  { queue := BitVec.ofNat 6 (((s.launch? lid).map Launch.q).getD 0), code := code, pc := pc, seq := seq, va := va,
    block := BitVec.ofNat 32 block, core := BitVec.ofNat 16 core, grp := BitVec.ofNat 8 grp }

/-- An asynchronous error of a launch, kept until it ends the grid (R379). -/
def asyncError (s : State) (lid : Nat) (code : BitVec 8) (pc seq : Word) (va : DWord) (block core grp : Nat) : State :=
  { s with async := s.async ++
      [{ lid := lid, ctx := ((s.launch? lid).map Launch.ctx).getD 0, site := siteOf s lid code pc seq va block core grp }] }

/-- The writer of a line by its launch and launch site: the code is that of the pool range's failure (R409). -/
def State.writer (s : State) (lid : Nat) (pc seq : Word) (va : DWord) (block core grp : Nat) : Writer :=
  { lid := lid, ctx := ((s.launch? lid).map Launch.ctx).getD 0, site := siteOf s lid 3 pc seq va block core grp }

/-- The writer of a line by the group that writes. -/
def State.writerOf (s : State) (g : Group) (pc seq : Word) (va : DWord) : Writer :=
  s.writer g.lid pc seq va (s.blockIdx g) g.core g.grp

/-- The writer of a queued write. -/
def SqEntry.writer (s : State) (e : SqEntry) : Writer := s.writer e.lid e.pc e.seq e.va e.bidx e.core e.grp

/-- Performs one queued write at its home (R277, R150). A RED reads the data its block sees (R153); one that meets poison
writes nothing and is reported against its launch site (R152), as is a write that its link loses (R409, R410). -/
def performEntry (s : State) (e : SqEntry) : State :=
  let tag := s.detTag e.lid e.bidx
  let by_ := some (e.writer s)
  let fail (c : BitVec 8) : State := asyncError s e.lid c e.pc e.seq e.va e.bidx e.core e.grp
  let s' := match linkCode s e.place, e.kind with
    | some c, _ => fail c
    | none, .store bs => writeHome s tag (coreDie e.core) by_ e.place bs
    | none, .red op u n x =>
      if poisonedAt s e.place n then fail 1
      else
        let m := placeNum s tag e.place n
        let (v, w) := atomOp op.toNat u n m x.toNat 0
        if w then writeHome s tag (coreDie e.core) by_ e.place (numBytes n v) else s
  -- a performed write is progress of its group (R397)
  s'.updGroup e.gid fun g => { g with stallCnt := 0 }

/-- The writes of a list that satisfy a condition, and every earlier one that shares a byte with one of them. -/
def mustOf (c : SqEntry → Bool) (l : List SqEntry) : List SqEntry :=
  l.foldr (fun e acc => if c e || acc.any e.overlaps then e :: acc else acc) []

/-- Performs the writes past their write point that satisfy a condition, and every earlier one that shares a byte with
one of them, in order. -/
def performWhere (s : State) (c : SqEntry → Bool) : State :=
  let must := mustOf c s.wp
  let s' := must.foldl performEntry s
  { s' with wp := s'.wp.filter fun e => !must.any (fun f => f.id == e.id) }

/-- The writes a flush at a scope acts on are performed for the observers of the scope (R154, R291): at .blk they are seen by the
core, which the write point is enough for; at .clu they are seen by the cluster; beyond, they are performed at home. -/
def showWhere (s : State) (scope : Nat) (c : SqEntry → Bool) : State :=
  if scope = 0 then s
  else if scope ≤ 2 then
    let must := if scope = 2 then mustOf c s.wp else s.wp.filter c
    { s with wp := s.wp.map fun e => if must.any (fun f => f.id == e.id) then
        { e with vis := max e.vis scope, heldBack := e.heldBack && e.sync } else e }
  else performWhere s c

/-- A queued write goes to a line frame that a migration has a bit for. -/
def SqEntry.migrating (s : State) (e : SqEntry) : Bool := e.places.any fun
  | .mem k => Machine.migrating s k
  | .case _ => false

/-- A write leaves the store queue (R146, R287, R291): a reduction is applied by the memory port; a synchronisation
store at .clu or wider is held at the write point; a store of a deterministic launch (R277), or to a frame that is being
migrated (R393), goes to its home slice; any other passes and is seen by its core. A release first performs what its core
sees on its path: on path L the writes of engines too that an edge of R292 has shown to lanes (R289, R290). -/
def passEntry (s : State) (e : SqEntry) : State :=
  let s := if e.rel then showWhere s e.scope.toNat fun f => f.shownOn e.gid e.core e.pathX else s
  match e.kind with
  | .red _ _ _ _ => performEntry (performWhere s fun f => f.overlaps e) e
  | .store _ =>
    if (s.detTag e.lid e.bidx).isSome || e.migrating s then performEntry (performWhere s fun f => f.overlaps e) e
    else if e.sync && e.scope.toNat ≥ 2 then { s with wp := s.wp ++ [{ e with vis := 1, heldBack := true }] }
    else { s with wp := s.wp ++ [{ e with vis := 1 }] }

/-- The held synchronisation store of a group, behind which its later stores wait (R291). -/
def heldOf (s : State) (gid : Nat) : Option SqEntry := s.wp.find? fun e => e.gid == gid && e.sync && e.heldBack

/-- Performs a group's held synchronisation store (R291). -/
def performHeld (s : State) (gid : Nat) : State :=
  match heldOf s gid with
  | some e => performWhere s fun f => f.id == e.id
  | none => s

/-- Sends the oldest queued write of a group past the write point. -/
def passOldest (s : State) (gid : Nat) : State :=
  match s.sq.find? (fun e => e.gid == gid) with
  | some e => passEntry (performHeld { s with sq := s.sq.filter fun f => f.id != e.id } gid) e
  | none => performHeld s gid

/-- Sends a number of queued writes of a group past the write point. -/
def passMany (s : State) (gid : Nat) : Nat → State
  | 0 => performHeld s gid
  | n + 1 => passMany (passOldest s gid) gid n

/-- Empties a group's store queue past the write point (R273). -/
def drainQueue (s : State) (gid : Nat) : State := passMany s gid (s.sq.filter fun e => e.gid == gid).length

/-- Orders a group's earlier accesses of path L, or of path X, ahead of what follows, for the observers of a scope
(R154, R289, R293): on path L the writes of engines too that an edge of R292 has shown to its lanes (R290, R292). -/
def flush (s : State) (gid core scope : Nat) (x : Bool) : State :=
  let s := drainQueue s gid
  showWhere s scope fun e => e.shownOn gid core x

/-- The words in the sets of a batch's lanes, with the domain word of a SPEND (R342). -/
def batchWords (s : State) (b : Batch) : List Nat :=
  match s.group? b.gid with
  | some g => b.lanes.flatMap fun l =>
      let t := (vget (Lane.reset 0) g.lanes l).tx
      (if b.kind == .spend then [t.domain] else []) ++ t.reads.map (·.word) ++ t.writes.map (·.word)
  | none => []

/-- A batch holds the token of the slice of a word the access touches, and the word is in its sets: the access waits
(R343), the words of migrated lines redirected (R394). -/
def tokenHeld (s : State) (p : Place) (n : Nat) : Bool :=
  match p with
  | .case _ => false
  | .mem k => s.batches.any fun b => !b.held.isEmpty && (batchWords s b).any fun w =>
      let w := redirect s w
      b.held.contains (homeSlice w) && (redirected s k n).any fun (a, m) => w < a + m && a < w + 4

/-- An access at its home waits: the host holds the line, or a commit batch the word (R343, R405). -/
def waitsHome (s : State) (p : Place) (n : Nat) (write : Bool) : Bool := hostHolds s p n write || tokenHeld s p n

/-! ## The spill area (R338, R400) -/

/-- The block indices a launch holds of an aligned word. -/
def wordIdxs (s : State) (lid w : Nat) : List Nat :=
  ((s.ver.filter fun v => v.lid == lid && v.addr / 4 == w / 4).map (·.idx)).eraseDups

/-- The log words of the lanes of a condition on groups (R338). -/
def logWords (s : State) (c : Group → Bool) : Nat :=
  (s.groups.filter c).foldl (fun n g => (List.range 32).foldl (fun n l =>
    let t := (vget (Lane.reset 0) g.lanes l).tx
    n + t.reads.length + t.writes.length + t.pend.length) n) 0

/-- The versions beyond four of the words that a context's launches have written (R400). -/
def spilledVersions (s : State) (ctx : Nat) : Nat :=
  (s.launches.filter fun l => l.ctx == ctx && l.lr.det).foldl (fun n l =>
    (((s.ver.filter fun v => v.lid == l.lid).map fun v => v.addr / 4).eraseDups).foldl
      (fun n w => n + ((wordIdxs s l.lid (4 * w)).length - 4)) n) 0

/-- The log words of a context's groups beyond what its dies keep (R338, log 58). -/
def spilledLogs (s : State) (ctx : Nat) : Nat :=
  (List.range 8).foldl (fun n d =>
    n + min (logWords s fun g => g.ctx == ctx && coreDie g.core == d)
      (logWords s (fun g => coreDie g.core == d) - 2 ^ 23 / s.defer.entry)) 0

/-- Bytes of a context's spill area in use (R338, R400). -/
def spillUsed (s : State) (ctx : Nat) : Nat := s.defer.entry * (spilledVersions s ctx + spilledLogs s ctx)

/-- A tagged write of a word needs a fifth entry, and the context's spill area has no room for it: it waits (R400). -/
def spillFull (s : State) (tag : Option (Nat × Nat)) (p : Place) (n : Nat) : Bool :=
  match tag, p with
  | some (lid, idx), .mem k =>
    (wordsAt (redirect s k) n).any fun w =>
      let held := wordIdxs s lid w
      !held.contains idx && (match s.launch? lid with
        | some l => (held.filter fun t => !(t < idx && deadIdx s l t idx)).length ≥ 4 &&
            spillUsed s l.ctx + s.defer.entry > (s.ctx l.ctx).spillsz.toNat
        | none => false)
  | _, _ => false
where
  wordsAt (k n : Nat) : List Nat := (List.range ((k + n + 3) / 4 - k / 4)).map fun i => 4 * (k / 4 + i)

/-- A lane of a group logs `k` words more, its die keeps no more, and the spill area has no room for them (R338, R400). -/
def logFull (s : State) (g : Group) (k : Nat) : Bool :=
  k != 0 && logWords s (fun h => coreDie h.core == coreDie g.core) + k > 2 ^ 23 / s.defer.entry &&
  spillUsed s g.ctx + s.defer.entry * k > (s.ctx g.ctx).spillsz.toNat

/-- A write performed at its home has to wait: for the host or a commit batch, or for room in the spill area (R343, R400,
R405). -/
def writeWaits (s : State) (tag : Option (Nat × Nat)) (p : Place) (n : Nat) : Bool :=
  waitsHome s p n true || spillFull s tag p n

/-- A place that a write performed at its home has to wait for: the host, a commit batch, or room in the spill area (R343, R400,
R405). -/
def SqEntry.waitPlace (s : State) (e : SqEntry) : Option Place :=
  e.places.find? fun p => writeWaits s (s.detTag e.lid e.bidx) p 1

/-- A write past its write point that has to wait, of those a condition makes be performed (R343, R405). -/
def performBlocked (s : State) (c : SqEntry → Bool) : Option Place := (mustOf c s.wp).findSome? (SqEntry.waitPlace s)

/-- A queued write is performed at its home as it leaves the queue (R150, R277, R393). -/
def SqEntry.goesHome (s : State) (e : SqEntry) : Bool :=
  match e.kind with
  | .red _ _ _ _ => true
  | .store _ => (s.detTag e.lid e.bidx).isSome || e.migrating s

/-- The widest scope at which a flush of a group acts on path X, or else on path L: its own scope there, and those of the releases
among the queued writes `q` that pass ahead of it (R289). -/
def flushScope (scope : Bool → Nat) (q : List SqEntry) (x : Bool) : Nat :=
  (q.filter fun e => e.rel && e.pathX == x).foldl (fun n e => max n e.scope.toNat) (scope x)

/-- Of a group's queued writes those a flush performs at their homes: they go there as they leave the queue, or are held at the
write point until then (R291), or a release behind them, or the flush, reaches beyond the cluster. -/
def homeward (s : State) (scope : Bool → Nat) : List SqEntry → List SqEntry
  | [] => []
  | e :: q =>
    if e.goesHome s || (e.sync && e.scope.toNat ≥ 2) || flushScope scope q e.pathX ≥ 3 then e :: homeward s scope q
    else homeward s scope q

/-- The writes that a flush of a group performs at their homes; `scope` is its scope on path X and on path L, 0 where it leaves the
path alone: of its own queue, its own held one, and those its core sees past the write point (R154, R273, R289). -/
def flushSet (s : State) (gid core : Nat) (scope : Bool → Nat) : List SqEntry :=
  let own := s.sq.filter fun e => e.gid == gid
  let home := homeward s scope own
  mustOf (fun e => home.any (fun f => f.id == e.id) || (e.gid == gid && e.sync && e.heldBack) ||
    (e.shownOn gid core e.pathX && flushScope scope own e.pathX ≥ 3)) (s.wp ++ own)

/-- A write that a flush of a group would perform at its home and that has to wait (R343, R400, R405). -/
def flushBlocked (s : State) (gid core : Nat) (scope : Bool → Nat) : Option SqEntry :=
  (flushSet s gid core scope).find? fun e => (e.waitPlace s).isSome

/-- The scopes of a flush of path L alone, and of one of both paths. -/
def onL (n : Nat) (x : Bool) : Nat := if x then 0 else n
def onBoth (n : Nat) (_ : Bool) : Nat := n

/-- A write past the write point that a group sees on its lanes' paths: one its core sees, or its own held one. -/
def SqEntry.shownTo (e : SqEntry) (g : Group) : Bool := e.seenBy g.core || (e.heldBack && e.gid == g.gid)

/-- The stall reason of a wait for such a write where the instruction is no release (R431): the host or a commit batch, or room in
the spill area (R400). A release waits under 4. -/
def flushReason (s : State) (e : SqEntry) : Nat := if e.places.any fun p => waitsHome s p 1 true then 4 else 12

/-- The launch's own version of a byte hides every write from outside the launch (R399). -/
def ownVersion (s : State) (tag : Option (Nat × Nat)) (p : Place) : Option Byte :=
  match tag, p with
  | some (l, b), .mem k => topVersion (s.ver.filter fun v => v.addr == redirect s k && v.lid == l && v.idx ≤ b)
  | _, _ => none

/-- A write past the write point that a viewer's read returns ahead of the byte at home (R20, R287, R399): for a block of a
deterministic launch one of its own block, or, where the launch has no version that the block sees, one from outside it. -/
def SqEntry.ahead (s : State) (tag : Option (Nat × Nat)) (p : Place) (e : SqEntry) : Bool :=
  match tag with
  | none => true
  | some (l, b) => (e.lid == l && e.bidx == b) || (e.lid != l && (ownVersion s tag p).isNone)

/-- The byte a group's load takes (R146, R287): its own newest queued store, the newest store its core sees, the byte
at home. A load of a deterministic launch is performed at the home slice (R277), past its own group's queued stores; a store
from outside the launch that its core sees counts as performed there, of index -1 (R20, R399). -/
def loadByte (s : State) (g : Group) (tag : Option (Nat × Nat)) (p : Place) : Byte :=
  match (s.sq.reverse.find? fun e => e.gid == g.gid && e.covers p).bind (fun e => e.byte p) with
  | some b => b
  | none =>
    match (s.wp.reverse.find? fun e => e.shownTo g && e.covers p && e.ahead s tag p).bind (fun e => e.byte p) with
    | some b => b
    | none => placeByte s tag p 0

/-! ## Writes the device makes in its own name -/

/-- Adds one to the squashes word of a domain record (R190): at .dev, for every block, after every store to it past a
write point. A domain record lies in device HBM, where the device cache keeps no line. -/
def bumpNow (s : State) (die word : Nat) : State :=
  let s := performWhere s fun e => e.reaches s word 4
  let n := physNum s word 4
  writeHome { s with ver := s.ver.filter fun v => !(redirect s word ≤ v.addr && v.addr < redirect s word + 4) } none die none
    (.mem word) (numBytes 4 ((n + 1) % 2 ^ 32))

/-- Where the slots of a trace record go, with their bytes; none when they do not fit (R432). -/
def traceSlots (s : State) (base n : Nat) (slots : List (List Byte)) : Option (List (Nat × List Byte)) :=
  let head := physNum s base 8
  if head + slots.length - physNum s (base + 8) 8 > n then none
  else some (slots.mapIdx fun i b => (base + 64 + 64 * ((head + i) % n), b))

/-- The device writes bytes at .sys. -/
def sysWriteAt (s : State) (pa : Nat) (bytes : List Byte) : State := writeRun s none 0 none (.mem pa) bytes

/-- A record enters the trace buffer: its slots, then the head; one that does not fit is dropped whole and counted (R432). -/
def traceNow (s : State) (base n : Nat) (slots : List (List Byte)) : State :=
  match traceSlots s base n slots with
  | none => sysWriteAt s (base + 16) (leBytes 8 (physNum s (base + 16) 8 + 1))
  | some xs => sysWriteAt (xs.foldl (fun s (a, b) => sysWriteAt s a b) s) base (leBytes 8 (physNum s base 8 + slots.length))

/-- The places a late write touches, with their lengths. -/
def Late.spans (s : State) : Late → List (Nat × Nat)
  | .write pa bytes => [(pa, bytes.length)]
  | .trace base n slots => (base, 24) :: ((traceSlots s base n slots).getD []).map fun (a, b) => (a, b.length)
  | .bump _ w => [(w, 4)]
  | _ => []

/-- A late write is done. -/
def lateNow (s : State) : Late → State
  | .write pa bytes => sysWriteAt s pa bytes
  | .trace base n slots => traceNow s base n slots
  | .bump die w => bumpNow s die w
  | .msix v => s.updHost fun h => { h with msix := h.msix ++ [v] }
  | .event bit => s.updHost fun h => { h with event := h.event ||| (1 <<< bit) }
  | .resyncDone => s.updHost fun h => { h with resync := false }

/-- A place where a late write has to wait (R343, R405). -/
def lateWaits (s : State) (x : Late) : Option (Nat × Nat) := (x.spans s).find? fun (a, n) => waitsHome s (.mem a) n true

/-- The device's own writes of a list, in order, up to the first that has to wait, for which the host is asked; it and those
behind it stay. -/
def lateRun (s : State) : List Late → State
  | [] => { s with late := [] }
  | x :: xs =>
    match lateWaits s x with
    | some (a, n) => { askHost s (.mem a) n true with late := x :: xs }
    | none => lateRun (lateNow s x) xs

/-- The device writes in its own name, behind what waits already. -/
def lateDo (s : State) (x : Late) : State := lateRun s (s.late ++ [x])

/-- Bytes written at .sys by the device: launch records, completion blocks, fault records, trace (R378, R417, R432). -/
def deviceWrite (s : State) (pa : Nat) (bytes : List Byte) : State := lateDo s (.write pa bytes)

/-- `n` free bytes of a layout that is the device's own (log 7). -/
def privateBytes (s : State) (n : Nat) : State × List Byte :=
  ({ s with fresh := s.fresh + 1 }, (List.range n).map fun k => Config.privateByte s.fresh k)

/-- `n` bytes of entries are put into a context's spill area, at a place of the device's choice (R338, R400, log 58). -/
def spillPut (s : State) (ctx n : Nat) : State :=
  let area := (s.ctx ctx).spill.toNat / 4096 * 4096
  let room := (s.ctx ctx).spillsz.toNat
  if n = 0 || room < n then s
  else
    let at_ := area + Config.spillPlace s.fresh % (room - n + 1)
    let (s, bs) := privateBytes s n
    if inHbm (at_ + n - 1) then deviceWrite s at_ bs else s

/-- The entries that have come to be beyond what slices and dies keep since `old` go to the spill areas of their contexts
(R338, R400). -/
def spillNew (old s : State) : State :=
  ((s.launches.map Launch.ctx).eraseDups).foldl (fun u c => spillPut u c (s.defer.entry *
    ((spilledVersions s c - spilledVersions old c) + (spilledLogs s c - spilledLogs old c)))) s

/-- The place `o` bytes on. -/
def Place.plus : Place → Nat → Place
  | .mem k, o => .mem (k + o)
  | .case k, o => .case (k + o)

/-- A number a group's load takes. -/
def loadNum (s : State) (g : Group) (tag : Option (Nat × Nat)) (p : Place) (n : Nat) : Nat :=
  ofLeBytes ((List.range n).map fun o => loadByte s g tag (p.plus o))

/-- A queued reduction of the group covers the place: the load waits for it to be applied (R286). -/
def redPending (s : State) (gid : Nat) (p : Place) (n : Nat) : Bool :=
  s.sq.any fun e => e.gid == gid && (match e.kind with
    | .red _ _ _ _ => (List.range n).any fun o => e.covers (p.plus o)
    | .store _ => false)

end Sys2Proof.Machine
end

