-- ==== Sys2Proof/Machine/Translate.lean ====
section
/-!
DEFINITION. Effective addresses: their classes (R139 to R141), the heap window (R384), the walk of the page tables
(R380 to R383), the home check of a leaf (R402), and permissions.
-/

namespace Sys2Proof.Machine

/-- The class of an effective address (R139). -/
inductive AddrClass where
  | bad
  | caseAt (clu bank off : Nat) (own : Bool)
  | heap (pa : Nat)
  | paged
deriving DecidableEq, Repr

/-- The block view of the Case (R140): the bank and offset of a block's byte `o`. -/
def blockView (b : Block) (o : Nat) : Option (Nat × Nat) := (b.banks[o / 65536]?).map fun k => (k, o % 65536)

/-- The key of a Case byte. -/
def caseKey (clu bank off : Nat) : Nat := clu * 2 ^ 22 + bank * 2 ^ 16 + off

/-- The Case byte of the block view at an offset. -/
def blockPlace (s : State) (bid o : Nat) : Option Place :=
  match s.block? bid with
  | none => none
  | some b => (blockView b o).map fun (k, off) => .case (caseKey (coreClu b.core) k off)

/-- The cluster view of the Case (R140): the bank must belong to a block of the same launch on this cluster, and the
launch must not be deterministic. -/
def clusterViewOk (s : State) (g : Group) (bank : Nat) : Bool :=
  (match s.launch? g.lid with
   | some l => !l.lr.det
   | none => false) &&
  (match (s.bank (coreClu g.core) bank).owner with
   | some b =>
     (match s.block? b with
      | some x => x.lid == g.lid && coreClu x.core == coreClu g.core
      | none => false)
   | none => false)

/-- The heap window as it stands, and no translation kept. -/
def Ctx.frozen (c : Ctx) : Frozen := { heapbase := c.heapbase, heaplim := c.heaplim, heapoff := c.heapoff, leaves := [] }

/-- The effective address lies in a heap window (R139, R384). -/
def inHeap (c : Frozen) (ea : Nat) : Bool :=
  let lo := c.heapbase.toNat / 2 ^ 23 * 2 ^ 23
  let hi := c.heaplim.toNat / 2 ^ 23 * 2 ^ 23
  lo ≤ ea && ea < hi

/-- Classifies an effective address of a group under a heap window (R139, R140). -/
def classifyIn (c : Frozen) (s : State) (g : Group) (ea : DWord) : AddrClass :=
  let a := ea.toNat
  if 2 ^ 57 ≤ a then .bad
  else if 0x01FFFFFFFF000000 ≤ a then
    if a < 0x01FFFFFFFF400000 then
      match s.block? g.bid with
      | none => .bad
      | some b =>
        match blockView b (a - 0x01FFFFFFFF000000) with
        | none => .bad
        | some (k, off) => .caseAt (coreClu g.core) k off true
    else if a < 0x01FFFFFFFF800000 then
      let o := a - 0x01FFFFFFFF400000
      if clusterViewOk s g (o / 65536) then .caseAt (coreClu g.core) (o / 65536) (o % 65536) false else .bad
    else .bad
  else if inHeap c a then .heap ((a + (c.heapoff.toNat / 2 ^ 23 * 2 ^ 23)) % 2 ^ 52) else .paged

/-- The translation of an access that issues now. -/
def State.now (s : State) (g : Group) : Frozen := (s.ctx g.ctx).frozen

/-- Classifies an effective address of a group. -/
def classify (s : State) (g : Group) (ea : DWord) : AddrClass := classifyIn (s.now g) s g ea

/-- Why a translation fails. -/
inductive XFault where
  | translation
  | protection
deriving DecidableEq, Repr

/-- The index of an address at a level of the walk (R380). -/
def walkIndex (level va : Nat) : Nat := if level = 4 then (va >>> 53) % 16 else (va >>> (13 + 10 * level)) % 1024

/-- The frame of a leaf lies in the range of its home (R402); an access asks for an enabled pool range itself (R407). -/
def homeMatches (home pa : Nat) : Bool :=
  match home with
  | 0 => inHbm pa
  | 1 => inHost pa
  | 2 => inPool pa
  | _ => inHbm pa

/-- A leaf entry's checks (R383, R402). -/
def leafOf (e level : Nat) : Except XFault Leaf :=
  let bits := 13 + 10 * level
  let frame := e % 2 ^ 52 / 2 ^ 13 * 2 ^ 13
  let tag := e / 2 ^ 52 % 256
  let home := e / 2 ^ 8 % 4
  let g := e.testBit 6
  if e / 2 ^ 60 != 0 || e / 2 ^ 10 % 8 != 0 || e.testBit 7 then .error .protection
  else if frame % 2 ^ bits != 0 then .error .protection
  else if g && home != 0 then .error .protection
  else if tag != 0 && !g && home != 3 then .error .protection
  else if !homeMatches home frame then .error .protection
  else .ok { base := frame, bits := bits, r := e.testBit 2, w := e.testBit 3, x := e.testBit 4, u := e.testBit 5,
             home := home, galley := if g then some tag else none, peer := tag,
             entry := 0 }

/-- Bytes at a physical address as they stand once a queued write is performed. -/
def SqEntry.onto (e : SqEntry) (a : Nat) (bs : List Byte) : List Byte :=
  match e.kind, e.place with
  | .store _, _ => bs.mapIdx fun i b => (e.byte (.mem (a + i))).getD b
  | .red op u n x, .mem k =>
    if a ≤ k && k + n ≤ a + bs.length then
      let v := (atomOp op.toNat u n (ofLeBytes ((bs.drop (k - a)).take n)) x.toNat 0).1
      bs.take (k - a) ++ leBytes n v ++ bs.drop (k - a + n)
    else bs
  | _, _ => bs

/-- The writes that stand between memory and a group's own accesses, in order: those its core sees, then its queue. -/
def ownWrites (s : State) (g : Group) : List SqEntry :=
  s.wp.filter (fun e => e.shownTo g) ++ s.sq.filter (fun e => e.gid == g.gid)

/-- A page-table entry as a walk of a group reads it (R380): outside the launch's block filter, and with the writes that
happen before the group's accesses (R283). An access unordered with a write of the entry may use either translation: the
model keeps no translations and reads the entry at the walk (log 51). -/
def tableEntry (s : State) (g : Group) (a : Nat) : Nat :=
  let k := redirect s a
  ofLeBytes ((ownWrites s g).foldl (fun bs e => e.onto k bs) ((List.range 8).map fun o => homeByte s none (k + o)))

/-- The walk from a table at a level down (R380, R383). -/
def walk (s : State) (g : Group) (va : Nat) : Nat → Nat → Except XFault Leaf
  | level, table =>
    let a := table + 8 * walkIndex level va
    let e := tableEntry s g a
    let leaf (n : Nat) : Except XFault Leaf := (leafOf e n).map fun l => { l with entry := a }
    if !e.testBit 0 then .error .translation
    else
      match level with
      | 0 => leaf 0
      | l + 1 =>
        if e.testBit 1 then (if l + 1 ≤ 2 then leaf (l + 1) else .error .protection)
        else
          let frame := e % 2 ^ 52 / 2 ^ 13 * 2 ^ 13
          -- a non-leaf entry uses V and frame only (R381), and its table lies in device HBM (R380)
          if e != frame + 1 || !inHbm frame then .error .protection else walk s g va l frame

/-- The table entry of a walk that waits for the host or a commit batch (R343, R405). -/
def walkHeld (s : State) (g : Group) (va : Nat) : Nat → Nat → Option Place
  | level, table =>
    let a := table + 8 * walkIndex level va
    if waitsHome s (.mem (redirect s a)) 8 false then some (.mem (redirect s a))
    else
      let e := tableEntry s g a
      match level with
      | 0 => none
      | l + 1 => if e % 4 = 1 && inHbm (e - 1) then walkHeld s g va l (e % 2 ^ 52 / 2 ^ 13 * 2 ^ 13) else none

/-- What an access needs of a page (R383). -/
structure Need where
  r : Bool
  w : Bool
  x : Bool
  galley : Bool
  priv : Bool
deriving DecidableEq, Repr

/-- A translated address: its place, its galley, its home, the physical base and the address bits of its page, and the
address of the leaf entry. -/
structure Xlat where
  place : Place
  galley : Option Nat
  home : Nat
  page : Nat
  bits : Nat
  entry : Nat
deriving DecidableEq, Repr

/-- The place of an address in a leaf's page. -/
def leafPlace (l : Leaf) (va : Nat) : Place :=
  let pa := l.base + va % 2 ^ l.bits
  if l.home = 3 then .mem (peerKey l.peer pa) else .mem pa

/-- The leaf grants the access, and is a galley page exactly when a galley page is needed (R173 row 8, R178). -/
def leafGrants (l : Leaf) (n : Need) : Bool :=
  (!n.r || l.r) && (!n.w || l.w) && (!n.x || l.x) && (n.priv || l.u) && (l.galley.isSome == n.galley)

/-- A paged address translated, without the permission check (R173 row 7); protection faults of the walk itself count
as row 8. The root table is read at bits 51:13 of sys.ptbase wherever that lies: the model's choice (log 75). -/
def walkVa (s : State) (g : Group) (va : DWord) : Except XFault Leaf :=
  walk s g va.toNat 4 ((s.ctx g.ctx).ptbase.toNat % 2 ^ 52 / 2 ^ 13 * 2 ^ 13)

/-- The galley table entry of a galley (R351, R382): valid, floor, spill area, capacity. -/
structure Galley where
  valid : Bool
  floor : Word
  spill : Nat
  cap : Nat
deriving DecidableEq, Repr

/-- Reads a galley table entry (R382). -/
def galleyEntry (s : State) (g : Group) (k : Nat) : Galley :=
  let a := (s.ctx g.ctx).galtab.toNat / 4096 * 4096 + 32 * k
  { valid := (physNum s (a + 4) 4).testBit 0, floor := BitVec.ofNat 32 (physNum s a 4), spill := physNum s (a + 8) 8,
    cap := physNum s (a + 16) 4 }

/-- The leaf of a paged address: one kept from an earlier translation (R283), else that of a walk. -/
def leafFor (f : Frozen) (s : State) (g : Group) (ea : DWord) : Except XFault Leaf :=
  match f.leaves.find? fun (va, l) => va / 2 ^ l.bits == ea.toNat / 2 ^ l.bits with
  | some (_, l) => .ok l
  | none => walkVa s g ea

/-- The galley table entry of a leaf's galley waits, for a read (R343, R405). -/
def galleyHeld (s : State) (g : Group) (k : Nat) : Option Place :=
  let p := Place.mem (redirect s ((s.ctx g.ctx).galtab.toNat / 4096 * 4096 + 32 * k))
  if waitsHome s p 32 false then some p else none

/-- A table entry of an address's translation that waits (R343, R405). An access that needs one waits at its home. -/
def xlateHeld (f : Frozen) (s : State) (g : Group) (ea : DWord) : Option Place :=
  if s.batches.isEmpty && s.host.hostHeld.isEmpty then none
  else
    match classifyIn f s g ea with
    | .paged =>
      if f.leaves.any fun (va, l) => va / 2 ^ l.bits == ea.toNat / 2 ^ l.bits then none
      else match walkHeld s g ea.toNat 4 ((s.ctx g.ctx).ptbase.toNat % 2 ^ 52 / 2 ^ 13 * 2 ^ 13) with
        | some p => some p
        | none => match walkVa s g ea with
          | .ok l => l.galley.bind (galleyHeld s g)
          | .error _ => none
    | _ => none

/-- The place an address of a leaf's page stands at now: a line that a migration has copied is redirected (R394). -/
def Place.moved (s : State) : Place → Place
  | .mem k => .mem (redirect s k)
  | .case k => .case k

/-- A translated paged address, or the protection fault of its page. -/
def leafXlat (s : State) (g : Group) (n : Need) (ea : DWord) (l : Leaf) : Except XFault Xlat :=
  if leafGrants l n && (match l.galley with
      | some k => !n.galley || (galleyEntry s g k).valid
      | none => true) &&
    (l.home != 2 || (match leafPlace l ea.toNat with
      | .mem pa => (poolRange s pa).isSome
      | .case _ => false))
  then .ok { place := (leafPlace l ea.toNat).moved s, galley := l.galley, home := l.home, page := l.base, bits := l.bits, entry := l.entry }
  else .error .protection

/-- Translates and checks one address of a group for rows 7 and 8 of R173, with the translation the access keeps; the class
has passed row 6. That an impression instruction naming the Case window fails at row 8, not at row 6, is the model's choice
(log 60). -/
def xlateIn (f : Frozen) (s : State) (g : Group) (n : Need) (ea : DWord) : Except XFault Xlat :=
  match classifyIn f s g ea with
  | .bad => .error .protection
  | .caseAt c k o _ =>
    if n.x || n.galley then .error .protection else .ok { place := .case (caseKey c k o), galley := none, home := 0, page := 0, bits := 0, entry := 0 }
  | .heap pa =>
    if n.x || n.galley || !inHbm pa then .error .protection
    else .ok { place := (Place.mem pa).moved s, galley := none, home := 0, page := 0, bits := 0, entry := 0 }
  | .paged =>
    match leafFor f s g ea with
    | .error e => .error e
    | .ok l => leafXlat s g n ea l

/-- Translates and checks one address of an access that issues now. -/
def xlate (s : State) (g : Group) (n : Need) (ea : DWord) : Except XFault Xlat := xlateIn (s.now g) s g n ea

end Sys2Proof.Machine
end

