-- ==== Sys2Proof/Machine/TxOps.lean ====
section
/-!
DEFINITION. Transactions and speculative iterations (R179 to R193, R338 to R349): logs, aborts, squashes, validation
and commit.
-/

namespace Sys2Proof.Machine

/-- Changes one lane of a group. -/
def State.updLane (s : State) (gid l : Nat) (f : Lane → Lane) : State :=
  s.updGroup gid fun g => { g with lanes := Vector.ofFn fun (i : Fin 32) => if i.val = l then f g.lanes[i] else g.lanes[i] }

/-- Changes every lane of a group. -/
def Group.mapLanes (g : Group) (f : Nat → Lane → Lane) : Group :=
  { g with lanes := Vector.ofFn fun (i : Fin 32) => f i.val g.lanes[i] }

/-- A lane of a group by number; a lane past 31 does not exist and reads as one that has exited. -/
def Group.lane (g : Group) (l : Nat) : Lane := vget { Lane.reset 0 with st := .exited } g.lanes l

/-- The lanes of a group that satisfy a condition, rising. -/
def Group.lanesWhere (g : Group) (c : Lane → Bool) : List Nat := numbers 32 fun l => c (g.lane l)

/-- The lane becomes live at a PC: with age 0 when it was not live before (R111). -/
def Lane.wakeAt (x : Lane) (pc : Word) : Lane :=
  { x with st := .live, pc := pc, age := if x.st == .live then x.age else 0, wake := none }

/-- The linear index of a thread in its grid (R66). -/
def State.threadIndex (s : State) (g : Group) (l : Nat) : Nat :=
  let threads := match s.launch? g.lid with
    | some x => x.lr.bx * x.lr.by_ * x.lr.bz
    | none => 0
  s.blockIdx g * threads + 32 * g.grp + l

/-- The back-off of R184 for `a` failed attempts; 0 in a deterministic launch (R187). -/
def State.backoff (s : State) (g : Group) (l a : Nat) : Nat :=
  if (s.groupTag g).isSome then 0
  else
    let r := gen 0 (BitVec.ofNat 32 (s.threadIndex g l)) (BitVec.ofNat 32 a) (BitVec.ofNat 32 s.clock)
    2 ^ (a + 4) + r.toNat % 2 ^ (a + 4)

/-- The transaction state closed with a reason and an attempts field (R180). -/
def Tx.close (t : Tx) (reason : Nat) (att statAtt : Nat) : Tx :=
  { t with isOpen := false, depth := 0, reads := [], writes := [], pend := [], stamps := [], moved := false, held := 0,
           reason := BitVec.ofNat 4 reason, att := att, statAtt := min 15 statAtt, spec := false, ordered := false,
           squashed := false, retry := false, turn := 0 }

/-- An abort of a lane's transaction (R180, R184, R186): reasons 1 and 2 count an attempt and wait for the back-off at
TBEGIN, reason 10 goes to the start address, every other reason to the abort path with the attempt count reset. In a handler no lane
keeps the Quoin for its retry (R401). -/
def abortLane (s : State) (g : Group) (l reason : Nat) (x : Lane) : Lane :=
  let t := x.tx
  if reason = 1 ∨ reason = 2 then
    let det := (s.groupTag g).isSome
    let a := if det then t.att + 1 else min 15 (t.att + 1)
    let x := { x with tx := { t.close reason a a with retry := det && g.priv == Priv.user, turn := t.turn } }
    let d := s.backoff g l a
    if d = 0 then x.wakeAt t.start
    else { x with st := .waiting .backoff, wake := some (s.clock + d), pc := t.start, age := 0 }
  else if reason = 10 then { x.wakeAt t.start with tx := { t.close 10 t.att t.att with retry := t.retry, turn := t.turn } }
  else { x.wakeAt t.path with tx := t.close reason 0 (if reason = 6 then 8 else t.att) }

/-- A memory instruction without a thread: neither executing in it nor issued with it. -/
def MemOp.forget (m : MemOp) (t : Nat) : MemOp :=
  { m with threads := m.threads.filter (fun x => x.t != t), active := m.active.filter (· != t) }

/-- A lane's accesses that are not translated are discarded with its attempt (R180, R186, R190). -/
def Group.dropThread (g : Group) (l : Nat) : Group :=
  { g with fl := { g.fl with walks := (g.fl.walks.map fun m => if m.helper then m else m.forget l).filter fun m =>
      !m.threads.isEmpty } }

/-- A lane's transaction aborts (R180). -/
def abortTx (s : State) (g : Group) (l reason : Nat) : State :=
  ((s.countEvent g.core 10 1).updLane g.gid l (abortLane s g l reason)).updGroup g.gid fun h => h.dropThread l

/-- The lanes of a commit that came after the end of their grid exit with it (R270, R361). -/
def exitEnded (s : State) (gid : Nat) (ls : List Nat) : State :=
  match s.group? gid with
  | none => s
  | some g =>
    if ((s.launch? g.lid).bind Launch.how).isSome then
      ls.foldl (fun s l => s.updLane gid l fun x => { x with st := .exited, tx := x.tx.close 0 0 0, wake := none }) s
    else s

/-- Adds one to the squashes word of a domain record (R190), when no commit batch or host holds the word. -/
def bumpSquashes (s : State) (die domain : Nat) : State := lateDo s (.bump die (domain + 4))

/-- A squash of a lane's speculative iteration (R190, R192, R193): reason 10 counts no attempt; with `rerun` the lane
waits at SPBEGIN for an ordered rerun. -/
def squashLane (s : State) (gid l reason : Nat) (rerun : Bool) : State :=
  match s.group? gid with
  | none => s
  | some g =>
    let t := (g.lane l).tx
    let a := if reason = 10 then t.att else t.att + 1
    let s := bumpSquashes s (coreDie g.core) t.domain
    let s := { s with marks := s.marks.filter fun m => !(m.gid == gid && m.lane == l) }
    let s := (s.countEvent g.core 11 1).updGroup gid fun h => h.dropThread l
    s.updLane gid l fun x =>
      let t' := { x.tx.close reason a a with squashed := true, ordered := rerun, spec := rerun }
      if rerun then { x with tx := t', pc := t.start, st := .waiting .rerun, age := 0 }
      else { x.wakeAt t.start with tx := t' }

/-- The lane has an open transaction, or an iteration in speculative mode: its accesses are logged (R170). -/
def Tx.logging (t : Tx) : Bool := t.isOpen || (t.spec && !t.ordered)

/-- The iteration is in speculative mode (R192). -/
def Tx.speculative (t : Tx) : Bool := t.spec && !t.ordered

/-- The home slices of the words of a set (R342, R395). -/
def slicesOf (s : State) (ws : List Nat) : List Nat :=
  ws.foldl (fun acc w => insertNat (homeSlice (redirect s w)) acc) []

/-- The words of a lane's read and write sets. -/
def Tx.words (t : Tx) : List Nat := t.reads.map (·.word) ++ t.writes.map (·.word)

/-- Performs every store past a write point that covers one of the words (R339, R342 step 3). -/
def recallWords (s : State) (ws : List Nat) : State := performWhere s fun e => ws.any fun w => e.reaches s w 4

/-- A store that a recall of words would perform and that has to wait (R343, R405). -/
def recallBlocked (s : State) (ws : List Nat) : Option Place := performBlocked s fun e => ws.any fun w => e.reaches s w 4

/-- The validation of R183 step 5 and R395. -/
def validTx (s : State) (tag : Option (Nat × Nat)) (t : Tx) : Bool :=
  !t.moved &&
  (if t.ts then t.stamps.all fun (f, v) => stampOf s f == v
   else t.reads.all fun r => placeNum s tag (.mem r.word) 4 == r.val.toNat)

/-- The written bytes of a logged word at their offsets. -/
def LogWord.bytes (w : LogWord) : List (Nat × Byte) :=
  ((List.range 4).filter fun o => w.mask.getLsbD o).map fun o => (o, BitVec.ofNat 8 (w.val.toNat >>> (8 * o)))

/-- The value a logged operation leaves of the old value `m`. -/
def TxOp.apply (o : TxOp) (m : Nat) : Nat :=
  match o.red with
  | some (op, u) => (atomOp op.toNat u o.size m o.x 0).1
  | none => o.x % 2 ^ (8 * o.size)

/-- The write set of a lane performed at the home slices (R183 step 6), the instruction that commits it at `pc`: the buffered
bytes, then the operations that follow a reduction of the lane, in program order. -/
def performSet (s : State) (tag : Option (Nat × Nat)) (g : Group) (pc : Word) (t : Tx) : State :=
  let by_ (s : State) (va : DWord) := some (s.writerOf g pc 0 va)
  let s := t.writes.foldl (fun s w => writeHome s tag (coreDie g.core) (by_ s w.va) (.mem w.word) w.bytes) s
  t.pend.foldl (fun s o =>
    writeHome s tag (coreDie g.core) (by_ s o.va) (.mem o.pa) (numBytes o.size (o.apply (placeNum s tag (.mem o.pa) o.size)))) s

/-- The lane after its commit: flags, status, attempt count, and the instruction after TEND or SPEND (R76, R183). -/
def Lane.committed (x : Lane) : Lane :=
  { x with fsticky := x.fsticky ||| x.tx.held, tx := x.tx.close 0 0 x.tx.att, st := .live, pc := x.pc + 4, age := 0,
           wake := none }

/-- The lanes of a batch that survive the validation, decided before any of them writes. -/
def passing (s : State) (g : Group) (lanes : List Nat) : List Nat :=
  lanes.filter fun l => validTx s (s.groupTag g) (g.lane l).tx

/-- The commit of a TEND batch (R183 steps 5 and 6, R342 steps 3 to 6): every copy of its words is recalled, all
survivors are validated, those that pass write in one step, the others abort. -/
def commitTend (s : State) (b : Batch) : State :=
  match s.group? b.gid with
  | none => s
  | some g =>
    let s := recallWords s (b.lanes.flatMap fun l => (g.lane l).tx.words)
    let ok := passing s g b.lanes
    let bad := b.lanes.filter fun l => !ok.contains l
    -- the retry of a batch that fails its validation goes before the batches presented after it (R187)
    let turn (l : Nat) : Nat := if (g.lane l).tx.turn = 0 then b.id else (g.lane l).tx.turn
    let s := bad.foldl (fun s l => (abortTx s g l 2).updLane b.gid l fun x => { x with tx := { x.tx with turn := turn l } }) s
    let s := ok.foldl (fun s l => performSet s (s.groupTag g) g (g.lane l).pc (g.lane l).tx) s
    let s := ok.foldl (fun s l => (s.countEvent g.core 9 1).updLane b.gid l Lane.committed) s
    (exitEnded s b.gid b.lanes).updGroup b.gid fun g => if ok.isEmpty then g else { g with stallCnt := 0 }

/-- A group keeps the Quoin while it has a batch that took it, or a lane that retries (R187, R345). -/
def keepsQuoin (s : State) (gid : Nat) : Bool :=
  s.batches.any (fun b => b.gid == gid && b.quoin) ||
  (match s.group? gid with
   | some g => !(g.lanesWhere fun x => x.st != .exited && x.tx.retry).isEmpty
   | none => false)

/-- The Quoin of a launch is released when its holder no longer keeps it, and the holder's k advances (R345). -/
def settleQuoin (s : State) (lid : Nat) : State :=
  match (s.launch? lid).bind Launch.quoin with
  | some gid =>
    if keepsQuoin s gid then s
    else (s.updLaunch lid fun l => { l with quoin := none }).updGroup gid fun g =>
      { g with key := { g.key with k := g.key.k + 1 } }
  | none => s

/-- The number of the next iteration to commit (R188): the token stands at .dev, outside the filter by block index. -/
def domainNext (s : State) (domain : Nat) : Nat := physNum s domain 4

/-- The token set to a number at .dev, for every block (R23, R188): in a deterministic launch as well, since an iteration of
a block of lower index follows one of a higher (R349). -/
def putToken (s : State) (die domain : Nat) (n : Word) : State :=
  let old := fun (v : Version) => redirect s domain ≤ v.addr && v.addr < redirect s domain + 4
  writeHome { s with ver := s.ver.filter fun v => !old v } none die none (.mem domain) (numBytes 4 n.toNat)

/-- The iterations of a domain after `m` whose marks a commit overwrites (R190, R348). -/
def squashed (s : State) (domain : Nat) (m : Word) (ws : List Nat) : List Mark :=
  s.marks.filter fun k => k.domain == domain && k.words.any ws.contains && (k.iter - m).toNat != 0 && (k.iter - m).toNat < 2 ^ 31

/-- The commit of a lane at SPEND (R191, R342, R347): in speculative mode the read set is validated, then the writes
and the increment of the token are one step, and the later iterations whose marks it overwrites are squashed. An
ordered rerun only increments the token. -/
def commitSpend (s : State) (gid l : Nat) : State :=
  match s.group? gid with
  | none => s
  | some g =>
    let tag := s.groupTag g
    let t := (g.lane l).tx
    let die := coreDie g.core
    let pc := (g.lane l).pc
    let bump (s : State) := putToken s die t.domain (t.iter + 1)
    if t.ordered then
      (exitEnded (bump s |>.updLane gid l Lane.committed) gid [l]).updGroup gid fun g => { g with stallCnt := 0 }
    else
      let s := recallWords s t.words
      if validTx s tag t then
        let s := bump (performSet s tag g pc t)
        let hit := squashed s t.domain t.iter (t.writes.map (·.word))
        let s := { s with marks := s.marks.filter fun k => !(k.gid == gid && k.lane == l) }
        let s := (s.updLane gid l Lane.committed).updGroup gid fun g => { g with stallCnt := 0 }
        let s := exitEnded s gid [l]
        hit.foldl (fun s k =>
          -- a lane squashed by an earlier mark of this commit has no mark left
          if s.marks.any (fun m => m.gid == k.gid && m.lane == k.lane) then squashLane s k.gid k.lane 11 false else s) s
      else exitEnded (squashLane s gid l 2 false) gid [l]

/-! ## Logged accesses (R182, R339, R340) -/

/-- The aligned words of an access. -/
def wordsOf (pa n : Nat) : List Nat := if n = 8 then [pa, pa + 4] else [pa / 4 * 4]

/-- The byte a lane has written at an address, when it has. -/
def logByte (t : Tx) (a : Nat) : Option Byte :=
  (t.writes.find? fun x => x.word == a / 4 * 4 && x.mask.getLsbD (a % 4)).map fun x =>
    BitVec.ofNat 8 (x.val.toNat >>> (8 * (a % 4)))

/-- Enters a read of a word: its value at home, and in .ts mode its frame's stamp (R182, R339); a word already in the
read set is not read again. -/
def logEnter (s : State) (tag : Option (Nat × Nat)) (t : Tx) (w : Nat) : Tx :=
  if t.reads.any fun r => r.word == w then t
  else
    { t with reads := t.reads ++ [{ word := w, val := BitVec.ofNat 32 (placeNum s tag (.mem w) 4), mask := 0, va := 0 }],
             stamps := if t.ts && !t.stamps.any (fun f => f.1 == w / 256) then t.stamps ++ [(w / 256, stampOf s (w / 256))]
                       else t.stamps }

/-- The logged operations in the aligned 8 bytes of an address. -/
def pendAt (t : Tx) (pa : Nat) : List TxOp := t.pend.filter fun o => o.pa / 8 == pa / 8

/-- The byte at an address before the logged operations: the lane's own, else the logged value's. -/
def logOld (t : Tx) (a : Nat) : Byte :=
  match logByte t a with
  | some b => b
  | none => match t.reads.find? fun r => r.word == a / 4 * 4 with
    | some r => BitVec.ofNat 8 (r.val.toNat >>> (8 * (a % 4)))
    | none => 0

/-- The 8 aligned bytes after one logged operation. -/
def applyOp (bs : List Byte) (o : TxOp) : List Byte :=
  let off := o.pa % 8
  let new := leBytes o.size (o.apply (ofLeBytes ((bs.drop off).take o.size)))
  bs.take off ++ new ++ bs.drop (off + o.size)

/-- A logged read of `n` bytes: value and new log. Bytes the lane has written are its own; the words count in the read set
all the same (R170, R182). -/
def logReadN (s : State) (tag : Option (Nat × Nat)) (t : Tx) (pa n : Nat) : Nat × Tx :=
  let ops := pendAt t pa
  let words := if ops.any fun o => o.size == 8 then [pa / 8 * 8, pa / 8 * 8 + 4] else wordsOf pa n
  let t := words.foldl (logEnter s tag) t
  let bs := ops.foldl applyOp ((List.range 8).map fun o => logOld t (pa / 8 * 8 + o))
  (ofLeBytes ((bs.drop (pa % 8)).take n), t)

/-- Enters written bytes of an aligned word into the write log; no bytes enter the word alone. -/
def logWrite (t : Tx) (w : Nat) (va : DWord) (bs : List (Nat × Byte)) : Tx :=
  let old := { (t.writes.find? fun x => x.word == w).getD { word := w, val := 0, mask := 0, va := 0 } with va := va }
  let new := bs.foldl (fun (x : LogWord) (o, b) =>
    { x with val := (x.val &&& ~~~((0xFF : Word) <<< (8 * o))) ||| ((b.setWidth 32) <<< (8 * o)),
             mask := x.mask ||| (1 <<< o) }) old
  { t with writes := t.writes.filter (fun x => x.word != w) ++ [new] }

/-- Enters an operation that is performed at commit. -/
def logOp (t : Tx) (o : TxOp) : Tx :=
  let t := (wordsOf o.pa o.size).foldl (fun t w => logWrite t w o.va []) t
  { t with pend := t.pend ++ [o] }

/-- A logged write of `n` bytes. -/
def logWriteN (t : Tx) (pa n x : Nat) (va : DWord) : Tx :=
  if !(pendAt t pa).isEmpty then logOp t { pa := pa, size := n, red := none, x := x, va := va }
  else if n = 8 then logWrite (logWrite t pa va (numBytes 4 (x % 2 ^ 32))) (pa + 4) va (numBytes 4 (x / 2 ^ 32))
  else logWrite t (pa / 4 * 4) va ((numBytes n x).map fun (o, b) => (pa % 4 + o, b))

/-- The words that a logged read of `n` bytes names and that are not in the read set: only they are performed (R339). -/
def newReads (t : Tx) (pa n : Nat) : List Nat :=
  (if (pendAt t pa).any fun o => o.size == 8 then [pa / 8 * 8, pa / 8 * 8 + 4] else wordsOf pa n).filter fun w =>
    !t.reads.any fun r => r.word == w

/-- The words an access would enter into a lane's sets anew (R338). -/
def newWords (t : Tx) (pa n : Nat) (write : Bool) : Nat :=
  ((wordsOf pa n).filter fun w => !(if write then t.writes else t.reads).any fun x => x.word == w).length

/-- The limits of R182: reason 3 for the read set, reason 4 for the write set. -/
def limitOf (t : Tx) : Option Nat :=
  if t.reads.length > 32 then some 3 else if t.writes.length > 16 then some 4 else none

end Sys2Proof.Machine
end

