-- ==== Sys2Proof/Machine/Fetch.lean ====
section
/-!
DEFINITION. The fetch of an instruction (R25, R27, R385): the halfwords at an address, translated and read one by one, and the
words they form.
-/

namespace Sys2Proof.Machine

/-- What a fetch answers: the bits and the length, a fault class with its address, the code of a link that loses it (R410), or
a line the host or a commit batch must give up. -/
inductive Fetch where
  | ok (bits len : Nat)
  | fault (cls : Nat) (len : Nat) (va : DWord)
  | lost (code : BitVec 8) (va : DWord)
  | asked (p : Place)
deriving DecidableEq, Repr

/-- Fetches `n` halfwords from an address, the lowest first. -/
def fetchHalves (s : State) (g : Group) (base : DWord) (len : Nat) : Nat → Nat → Fetch
  | _, 0 => .ok 0 len
  | k, n + 1 =>
    let ea := base + BitVec.ofNat 64 (2 * k)
    let need : Need := { r := false, w := false, x := true, galley := false, priv := g.priv != .user }
    match xlateHeld (s.now g) s g ea, xlate s g need ea with
    | some p, _ => .asked p
    | none, .error .translation => .fault 0x06 len ea
    | none, .error .protection => .fault 0x07 len ea
    | none, .ok x =>
      if waitsHome s x.place 2 false then .asked x.place
      else if poisonedAt s x.place 2 then .fault 0x09 len ea
      else if let some c := linkCode s x.place then .lost c ea
      else
        match fetchHalves s g base len (k + 1) n with
        | .ok b l => .ok (placeNum s (s.groupTag g) x.place 2 + 65536 * b) l
        | e => e

/-- The bits of the instruction at an address: the first halfword gives the first part of the length, a modifier word or
a long word the rest (R25). -/
def fetchAt (s : State) (g : Group) (pc : Word) : Fetch :=
  let base := g.codebase + pc.setWidth 64
  match fetchHalves s g base 2 0 1 with
  | .ok h _ =>
    if h % 2 = 0 then .ok h 2
    else match fetchHalves s g base 4 0 2 with
      | .ok w _ =>
        if w / 2 % 64 != 0x3E then (if takesConst w then fetchHalves s g base 8 0 4 else .ok w 4)
        else match fetchHalves s g base 8 0 3 with
          | .ok v _ =>
            if v / 2 ^ 32 % 2 = 0 then .ok v 4
            else match fetchHalves s g base 8 0 4 with
              | .ok u _ => if takesConst (u / 2 ^ 32) then fetchHalves s g base 12 0 6 else .ok u 8
              | e => e
          | e => e
      | e => e
  | e => e

/-- The device cache takes the lines of host and pool memory that an instruction of `len` bytes is fetched from (R406). -/
def fetchTouch (s : State) (g : Group) (pc : Word) (len : Nat) : State :=
  let need : Need := { r := false, w := false, x := true, galley := false, priv := g.priv != .user }
  (List.range (len / 2)).foldl (fun s k =>
    match xlate s g need (g.codebase + pc.setWidth 64 + BitVec.ofNat 64 (2 * k)) with
    | .ok { place := .mem a, .. } => l3Read s (coreDie g.core) a
    | _ => s) s

/-- The length of the instruction at an address, as far as it can be fetched (R375). -/
def lenAt (s : State) (g : Group) (pc : Word) : Nat :=
  match fetchAt s g pc with
  | .ok _ n => n
  | .fault _ n _ => n
  | _ => 4

/-- The long word and the constant word of an instruction's bits (R25). -/
def wordsIn (bits len : Nat) : Word × Word :=
  let b := if bits % 2 = 1 ∧ bits / 2 % 64 = 0x3E ∧ len > 4 then bits / 2 ^ 32 else bits
  (BitVec.ofNat 32 b, BitVec.ofNat 32 (b / 2 ^ 32))

end Sys2Proof.Machine
end

