-- ==== Sys2Proof/Machine/Ops.lean ====
section
/-!
DEFINITION. The shared operations of the meanings: the issuing threads, guards, register checks and the scoreboard
(R24, R30, R32, R34, R77, R388), stalls (R431), fault records (R378), the end of a grid (R270), taking a fault into its
handler (R373 to R375) and the return from one (R376).
-/

namespace Sys2Proof.Machine

/-! ## The issuing threads -/

/-- The group that issues. -/
def State.cur (s : State) : Option Group := s.group? s.iss.gid

/-- A thread of the issuer: a lane of the group, or a helper of its ligature. -/
def threadLane (s : State) (g : Group) (t : Nat) : Lane :=
  if s.iss.helper then
    match g.lig with
    | some l => (l.helpers[t]?.map Helper.lane).getD (Lane.reset 0)
    | none => Lane.reset 0
  else g.lane t

/-- Changes lanes or helpers of a group: those a list names. -/
def Group.mapThreads (g : Group) (helper : Bool) (ts : List Nat) (f : Nat → Lane → Lane) : Group :=
  if helper then
    { g with lig := g.lig.map fun l =>
        { l with helpers := l.helpers.mapIdx (fun i h => if ts.contains i then { h with lane := f i h.lane } else h) } }
  else g.mapLanes fun i x => if ts.contains i then f i x else x

/-- Changes the active threads of the issuer. -/
def State.mapActive (s : State) (f : Nat → Lane → Lane) : State :=
  s.updGroup s.iss.gid fun g => g.mapThreads s.iss.helper s.iss.active f

/-- The guard of R30 in one thread; p0 reads true. -/
def guardTrue (g : Guard) (x : Lane) : Bool := (g.gp == 0 || x.p.getLsbD g.gp.toNat) != g.gs

/-- The threads that execute (R77). -/
def executing (s : State) (g : Group) (gd : Guard) : List Nat :=
  s.iss.active.filter fun t => guardTrue gd (threadLane s g t)

/-- The address after the instruction, modulo 2^32 (R41). -/
def State.nextPc (s : State) : Word := s.iss.addr + BitVec.ofNat 32 s.iss.len

/-- The target of a relative branch: A plus two times the signed offset, modulo 2^32 (R33). -/
def State.target {n : Nat} (s : State) (off : BitVec n) : Word := s.iss.addr + BitVec.ofInt 32 (2 * off.toInt)

/-- Every active thread advances past the instruction (R30). -/
def State.advance (s : State) : State := s.mapActive fun _ x => { x with pc := s.nextPc }

/-- A predicate register of a thread; p0 is true (R34). -/
def Lane.pred (x : Lane) (p : BitVec 5) : Bool := p == 0 || x.p.getLsbD p.toNat

/-- Writes a predicate; a write to p0 is discarded (R34). -/
def Lane.setPred (x : Lane) (p : BitVec 5) (b : Bool) : Lane :=
  if p = 0 then x
  else { x with p := if b then x.p ||| ((1 : BitVec 32) <<< p.toNat) else x.p &&& ~~~((1 : BitVec 32) <<< p.toNat) }

/-- A vector register and a pair of a thread. -/
def Lane.reg (x : Lane) (n : Nat) : Word := vget 0 x.v n
def Lane.pair (x : Lane) (n : Nat) : DWord := pairOf (x.reg n) (x.reg (n + 1))
def Lane.setReg (x : Lane) (n : Nat) (w : Word) : Lane := { x with v := vset x.v n w }
def Lane.setPair (x : Lane) (n : Nat) (w : DWord) : Lane := (x.setReg n (loWord w)).setReg (n + 1) (hiWord w)

/-- A uniform register of a group. -/
def Group.ureg (g : Group) (n : Nat) : DWord := vget 0 g.u n
def Group.setUreg (g : Group) (n : Nat) (w : DWord) : Group := { g with u := vset g.u n w }

/-- The uniform registers an instruction reads: in helper code the copy taken at LIGA (R206). -/
def issuerU (s : State) (g : Group) (n : Nat) : DWord :=
  if s.iss.helper then
    match g.lig with
    | some l => vget 0 l.u n
    | none => 0
  else g.ureg n

/-- The lane whose registers a windowed source names (R35, R80): the recruiter, with its registers as at LIGA. -/
def recruiter (g : Group) : Lane :=
  match g.lig with
  | some l => { g.lane l.lane with v := l.regs }
  | none => Lane.reset 0

/-! ## Register checks and the scoreboard -/

/-- One register operand: vector or uniform, first number, count, whether the number must be even, whether it is
a source named in the recruiter's window (R34, R35), and whether the instruction writes it without reading it. -/
structure Use where
  vec : Bool
  n : Nat
  len : Nat
  even : Bool
  win : Bool
  out : Bool
deriving DecidableEq, Repr

def Use.v (n : Nat) : Use := { vec := true, n := n, len := 1, even := false, win := false, out := false }
def Use.w (n : Nat) (win : Bool) : Use := { vec := true, n := n, len := 1, even := false, win := win, out := false }
def Use.vp (n : Nat) : Use := { vec := true, n := n, len := 2, even := true, win := false, out := false }
def Use.wp (n : Nat) (win : Bool) : Use := { vec := true, n := n, len := 2, even := true, win := win, out := false }
def Use.u (n : Nat) : Use := { vec := false, n := n, len := 1, even := false, win := false, out := false }

/-- A destination that is not read: one register, and a pair. -/
def Use.d (n : Nat) : Use := { Use.v n with out := true }
def Use.dp (n : Nat) : Use := { Use.vp n with out := true }

/-- R34 and R35 for one operand. -/
def Use.legal (u : Use) (helper : Bool) (nregs : Nat) : Bool :=
  if !u.vec then u.n + u.len ≤ 64
  else (!u.even || u.n % 2 == 0) &&
    (if u.win then helper && u.n + u.len ≤ nregs else u.n + u.len ≤ (if helper then 16 else nregs))

/-- A vector register is one of `len` registers from `n`. -/
def Use.hits (u : Use) (n len : Nat) : Bool := u.vec && u.n < n + len && n < u.n + u.len

/-- Registers a memory instruction in flight will write (R387). -/
def MemOp.dstLen (m : MemOp) : Nat :=
  match m.kind with
  | .ld _ => if m.size = 8 then 2 else 1
  | .ldv => if m.size = 8 then 2 else 1
  | .atom _ _ => if m.size = 8 then 2 else 1
  | .vprobe => 2
  | .fetch => 1
  | _ => 0

/-- The vector registers whose scales a matrix command reads (R210). -/
def scaleRegs : Instr → Option (Nat × Nat)
  | .mload f => if f.sc then some (f.vb.toNat, (f.bs.toNat + 8 * (if f.fmt.toNat ≥ 0x1C then 6 else 3) + 3) / 4) else none
  | .mloads f => if f.sc then some (f.vb.toNat, (f.bs.toNat + 8 * 12 + 3) / 4) else none
  | .mstream f => if f.sc then
      some (f.vb.toNat, (f.bs.toNat + 2 * (if f.win then 12 else if f.fmt.toNat ≥ 0x1C then 6 else 3) + 3) / 4) else none
  | .mstreams f => if f.sc then some (f.vb.toNat, (f.bs.toNat + 2 * (if f.win then 12 else 3) + 3) / 4) else none
  | _ => none

/-- A waiting LDV holds an operand (R196). -/
def waitUse (g : Group) (helper : Bool) (u : Use) : Bool :=
  g.fl.ldvs.any fun m => m.helper == (helper && !u.win) && u.hits m.dst m.dstLen

/-- The value of a load is still on its way: of a FETCH that failed in every lane there is none. -/
def Load.pending (l : Load) : Bool := l.bad.isEmpty || !l.vals.isEmpty

/-- The stall reasons under which the scoreboard holds an operand (R24, R77, R210, R387, R431; log 61): 1 for a scale register
of a matrix command, 3 for a load, 11 for a FETCH, 12 for another access that is not translated. A handler may write the
destinations of logged entries (R388, R390). -/
def busyReasons (s : State) (g : Group) (helper : Bool) (u : Use) : List Nat :=
  let helper := helper && !u.win
  (if !helper && (s.engine g.core).queue.any (fun c => c.gid == g.gid && (match c.phase, scaleRegs c.ins with
    | .failed _, _ => false
    | _, some (n, k) => u.hits n k
    | _, none => false)) then [1] else []) ++
  (if g.fl.loads.any (fun l => l.pending && l.helper == helper && u.hits l.dst (if l.pair then 2 else 1)) then [3] else []) ++
  (if !helper && g.fl.fetches.any (fun f => u.hits f.dst 1) then [11] else []) ++
  ((g.fl.walks ++ (if g.priv == .user then g.fl.opLog else [])).filter
    (fun m => m.helper == helper && u.hits m.dst m.dstLen)).map fun m => match m.kind with
      | .ld _ => 3
      | .atom _ _ => 3
      | .fetch => 11
      | _ => 12

/-- The scoreboard holds an operand for another reason than a waiting LDV. -/
def busyUse (s : State) (g : Group) (helper : Bool) (u : Use) : Bool := !(busyReasons s g helper u).isEmpty

/-- The scoreboard holds an operand. -/
def heldUse (s : State) (g : Group) (helper : Bool) (u : Use) : Bool := busyUse s g helper u || waitUse g helper u

/-- An operand is the destination of an entry of the operand log (R388). -/
def loggedUse (g : Group) (u : Use) : Bool := g.fl.opLog.any fun m => !m.helper && u.hits m.dst m.dstLen

/-- A FETCH that failed in lanes of a register the instruction reads (R212, R392). A helper's registers are its own, and those
of the recruiter's window are copies. -/
def failedUse (g : Group) (helper : Bool) (uses : List Use) : Option Load :=
  if helper then none
  else g.fl.loads.find? fun l => !l.bad.isEmpty && uses.any fun u => !u.out && u.hits l.dst 1

/-- Why the scoreboard holds the operands of an instruction: the lowest reason that applies (R431). -/
def heldReason (s : State) (g : Group) (helper : Bool) (uses : List Use) : Option Nat :=
  leastBy id (uses.flatMap (busyReasons s g helper) ++ (if uses.any (waitUse g helper) then [7] else []))

/-- What the issue check answers. -/
inductive GateAns where
  | go
  | illegal
  | ligature
  | stop
  | failed (l : Load)
  | held (reason : Nat)
deriving DecidableEq, Repr

/-- The guard field of the issuing instruction (R30): short forms, SEL and BRU have none. -/
def issueGuard (s : State) : Guard :=
  let w := s.iss.word.toNat
  let m := w / 2 % 64
  if w % 2 = 0 || m = 0x09 || m = 0x29 then Guard.always
  else { gs := s.iss.word.getLsbD 12, gp := s.iss.word.extractLsb' 7 5 }

/-- A memory instruction that the issuer has issued is not translated yet (R386). -/
def walking (s : State) (g : Group) : Bool := g.fl.walks.any fun m => m.helper == s.iss.helper

/-- The issue check of an instruction: register fields (R34), helper code (R80, R135, R171, R176, R209), the operand
log (R388), a FETCH that failed (R212, R392), the scoreboard (R24). `free` instructions may issue while the operand log
holds an entry. An instruction that no helper code may hold is a fault where some helper executes it. -/
def gateOf (s : State) (g : Group) (uses : List Use) (free helperOk : Bool) : GateAns :=
  if !uses.all (fun u => u.legal s.iss.helper g.nregs) then .illegal
  else if s.iss.helper && !helperOk && !(executing s g (issueGuard s)).isEmpty then .ligature
  else if g.priv == .user && !s.iss.helper && ((!free && !g.fl.opLog.isEmpty) || uses.any (loggedUse g)) then .stop
  else match failedUse g s.iss.helper uses, heldReason s g s.iss.helper uses with
    | some l, _ => .failed l
    | none, some r => .held r
    | none, none => .go

/-! ## Stalls -/

/-- The instruction does not issue; the wait counts under a stall reason (R431). -/
def stall (s : State) (reason : Nat) : State :=
  { s.updGroup s.iss.gid fun g => { g with hold :=
      if s.iss.helper then { g.hold with waitHelp := some reason } else { g.hold with waitFor := some reason } } with
    iss := { s.iss with waited := true } }

/-- A progress event of a group (R397). -/
def progress (s : State) (gid : Nat) : State := s.updGroup gid fun g => { g with stallCnt := 0 }

/-! ## Interrupts and records -/

/-- Raises an MSI-X vector, behind the device's writes that wait (R418). -/
def msix (s : State) (v : Nat) : State := lateDo s (.msix v)

/-- Sets a management event bit (R412) and raises vector 0. -/
def mgmtEvent (s : State) (bit : Nat) : State :=
  msix (s.updHost fun h => { h with event := h.event ||| (1 <<< bit) }) 0

/-- The slots of a record written to a context's trace buffer (R432). -/
def traceWrite (s : State) (ctx : Nat) (slots : List (List Byte)) : State :=
  let c := s.ctx ctx
  if c.trSize = 0 then s else lateDo s (.trace c.trBase.toNat ((c.trSize - 64) / 64) slots)

/-! ## Faults -/

/-- The bit mask of a list of lanes. -/
def maskOf (ls : List Nat) : BitVec 32 := ls.foldl (fun m l => m ||| (1 <<< l)) 0

/-- The lanes of a mask. -/
def lanesOf (m : BitVec 32) : List Nat := numbers 32 fun l => m.getLsbD l

/-- A fault of the instruction that issues, in some of its threads with their effective addresses. -/
def faultOf (s : State) (cls : Nat) (ts : List Nat) (vas : List (Nat × DWord)) : Raise :=
  { cls := cls, code := 0, addr := s.iss.addr, len := s.iss.len, deferred := false, write := false,
    mask := maskOf ts, vas := vas, seq := 0, recPc := s.iss.addr,
    recVa := (vas.head?.map (·.2)).getD 0, helper := if s.iss.helper then ts.head? else none,
    helperPc := s.iss.addr, info := 0 }

/-- sys.tcause of a fault (R375). -/
def Raise.cause (r : Raise) : Word :=
  BitVec.ofNat 32 (r.cls + 2 ^ 8 * r.code.toNat +
    2 ^ 16 * (if r.len = 2 then 0 else if r.len = 4 then 1 else if r.len = 8 then 2 else 3) +
    2 ^ 18 * bit r.deferred + 2 ^ 19 * bit r.helper.isSome + 2 ^ 20 * bit r.write)

/-- The fault record of R378 as a number of 256 bits. -/
def recordOf (s : State) (g : Group) (r : Raise) (grid : Bool) : Nat :=
  let q := match s.launch? g.lid with
    | some l => l.q
    | none => 0
  1 + 2 * bit grid + 2 ^ 8 * q + 2 ^ 16 * r.cls + 2 ^ 24 * r.code.toNat +
    2 ^ 32 * (match r.helper with
      | some h => h + 1
      | none => 0) +
    2 ^ 40 * g.grp + 2 ^ 48 * g.core + 2 ^ 64 * r.recPc.toNat + 2 ^ 96 * r.seq.toNat + 2 ^ 128 * r.mask.toNat +
    2 ^ 160 * s.blockIdx g + 2 ^ 192 * r.recVa.toNat

/-- A write of the device to an address is refused: no enabled pool range holds it, or a fenced one does (R407, R409). -/
def writeRefused (s : State) (pa : Nat) : Bool := inPool pa && ((poolRange s pa).isNone || fenced s pa)

/-- Posts a record to a context's fault ring (R378, R419). -/
def postRecord (s : State) (ctx x : Nat) : State :=
  let c := s.ctx ctx
  let ring := c.fltring.toNat / 4096 * 4096
  let slot := ring + 32 * (c.head.toNat % 128)
  if c.head - c.tail = 128 || !inMemory slot || writeRefused s slot then
    mgmtEvent (s.updCtx ctx fun c => { c with lost := c.lost + 1 }) 4
  else
    let s := deviceWrite s slot (leBytes 32 x)
    msix (s.updCtx ctx fun c => { c with head := c.head + 1 }) (65 + ctx)

/-- What an entry of the vector table answers: the handler, none, an entry that faults, a link that loses the read (R410), or a
line the host or a commit batch must give up first. -/
inductive VecAns where
  | ok (cbase : DWord) (entry : Word)
  | invalid
  | bad
  | lost (code : BitVec 8)
  | asked (p : Place)
deriving DecidableEq, Repr

/-- Reads entry `k` of the trap vector table as a privileged L-path load (R373). -/
def vectorEntry (s : State) (g : Group) (k : Nat) : VecAns :=
  let need : Need := { r := true, w := false, x := false, galley := false, priv := true }
  let va : DWord := BitVec.ofNat 64 ((s.ctx g.ctx).vector.toNat / 4096 * 4096 + 16 * k)
  match xlateHeld (s.now g) s g va, xlate s g need va with
  | some p, _ => .asked p
  | none, .error _ => .bad
  | none, .ok x =>
    if waitsHome s x.place 16 false then .asked x.place
    else if poisonedAt s x.place 16 then .bad
    else if let some c := linkCode s x.place then .lost c
    else
      let e := placeNum s (s.groupTag g) x.place 16
      if !e.testBit 96 then .invalid
      else if e.testBit 64 then .bad
      else .ok (BitVec.ofNat 64 e) (BitVec.ofNat 32 (e / 2 ^ 64))

/-- The device cache takes the line of host or pool memory that entry `k` is read from (R406). -/
def vectorTouch (s : State) (g : Group) (k : Nat) : State :=
  let need : Need := { r := true, w := false, x := false, galley := false, priv := true }
  match xlate s g need (BitVec.ofNat 64 ((s.ctx g.ctx).vector.toNat / 4096 * 4096 + 16 * k)) with
  | .ok { place := .mem a, .. } => l3Read s (coreDie g.core) a
  | _ => s

/-- The lanes a ligature borrowed return to their groups (R125, R204). -/
def returnLanes (s : State) (hs : List Helper) : State :=
  hs.foldl (fun s h => if h.done then s else s.updLane h.lender h.lendLane fun x =>
    { x with lent := false, age := 0 }) s

/-- The threads of the memory instructions that are not translated go back to them: those instructions have not issued. A FETCH
among them has taken no number (R207), and the event of a step that it or another of them was is not due (R428). -/
def Group.rewind (g : Group) : Group :=
  let h := g.fl.walks.reverse.foldl (fun (h : Group) m => h.mapThreads m.helper m.active fun _ x => { x with pc := m.pc }) g
  { h with fl := { h.fl with walks := [] },
           seq := ((g.fl.walks.find? fun m => m.kind == .fetch).map MemOp.num).getD g.seq,
           dbg := { h.dbg with due := h.dbg.due && g.fl.walks.all MemOp.helper } }

/-- Drops what the helpers of a group have outstanding (R359). -/
def dropHelperOps (g : Group) : Group :=
  { g with fl := { g.fl with
      walks := g.fl.walks.filter (fun m => !m.helper), opLog := g.fl.opLog.filter (fun m => !m.helper),
      loads := g.fl.loads.filter (fun l => !l.helper), ldvs := g.fl.ldvs.filter (fun m => !m.helper) } }

/-- A ligature is forced to end (R204, R205): helpers are released, partials and flags discarded, the recruiter
resumes at LIGA, which will report `stat`. -/
def forceLig (s : State) (gid stat : Nat) : State :=
  match s.group? gid with
  | none => s
  | some g =>
    match g.lig with
    | none => s
    | some l =>
      let s := returnLanes s l.helpers
      (s.updLane gid l.lane fun x => x.wakeAt l.addr).updGroup gid fun g =>
        { dropHelperOps g with lig := none, endstat := stat }

/-- Every ligature that borrows a lane satisfying a condition on its lender is forced to end. -/
def forceLenders (s : State) (c : Nat → Bool) : State :=
  s.groups.foldl (fun s g =>
    match g.lig with
    | some l => if l.helpers.any (fun h => !h.done && c h.lender) then forceLig s g.gid 1 else s
    | none => s) s

/-- The batches of a group that hold neither a token nor the Quoin are abandoned; the others complete (R361, R362). -/
def settleBatches (s : State) (gid : Nat) : State :=
  { s with batches := s.batches.filter fun b => b.gid != gid || !b.held.isEmpty || b.quoin }

/-- A batch of the group holds a token or the Quoin: what strikes the group waits until it has completed (R361, R362). -/
def holdsBatch (s : State) (gid : Nat) : Bool := s.batches.any fun b => b.gid == gid && (!b.held.isEmpty || b.quoin)

/-- Open transactions of a group abort, the failing lanes with reason 9 and the others with reason 10; iterations in
speculative mode are squashed with reason 10 (R186, R193). No batch of the group holds a token. -/
def closeTx (s : State) (gid : Nat) (failing : BitVec 32) : State :=
  let s := settleBatches s gid
  match s.group? gid with
  | none => s
  | some g =>
    (List.range 32).foldl (fun s l =>
      let x := g.lane l
      if x.tx.isOpen then abortTx s g l (if failing.getLsbD l then 9 else 10)
      else if x.tx.speculative then squashLane s gid l 10 false
      else s) s

/-- The values of outstanding loads are written (R172, R374 step 1). Of a FETCH that failed the failing lanes stay. -/
def finishLoads (g : Group) : Group :=
  let g := g.fl.loads.foldl (fun (g : Group) l =>
    if l.helper then g
    else g.mapLanes fun i x =>
      match l.vals.find? fun v => v.t == i with
      | some v => if l.pair then x.setPair l.dst v.val else x.setReg l.dst (loWord v.val)
      | none => x) g
  { g with fl := { g.fl with loads := (g.fl.loads.filter fun l => l.helper || !l.bad.isEmpty).map fun l =>
      if l.helper then l else { l with vals := [] } } }

/-- An engine without the commands of some blocks. A context that was held for a group that has ended is free when none of its
commands is left, and both sets become empty when neither context is held (R127, R215). -/
def Engine.without (s : State) (bids : List Nat) (e : Engine) : Engine :=
  let q := e.queue.filter fun x => !bids.contains x.bid
  let freed (x : Nat) : Bool := (vget MCtx.reset e.cx x).holder.any fun g => (s.group? g).isNone && !q.any fun c => c.x == x
  let cx := Vector.ofFn fun (x : Fin 2) => if freed x.val then MCtx.reset else e.cx[x]
  let idle := cx.all fun m => m.holder.isNone
  { e with queue := q, cx := cx, imps := e.imps.filter (fun x => !bids.contains x.bid),
           fetchcs := e.fetchcs.filter (fun x => !bids.contains x.bid),
           live := if idle then PlaneSet.reset else e.live, shadow := if idle then PlaneSet.reset else e.shadow }

/-- Matrix commands, copies and fetches of blocks are abandoned (R270), those of groups that have ended among them, and its
page copies keep the lines already copied. -/
def dropEngineWork (s : State) (bids : List Nat) : State :=
  { s with engines := s.engines.map fun (c, e) => (c, e.without s bids) }

/-- The save areas of blocks are free again (R265). -/
def freeAreas (s : State) (bs : List Block) : State :=
  bs.foldl (fun s b => s.updCtx b.ctx fun c => { c with areas := c.areas.filter fun a => b.area != some a }) s

/-- The lanes of a group in batches that hold a token or the Quoin. -/
def batchLanes (s : State) (gid : Nat) : List Nat :=
  (s.batches.filter fun b => b.gid == gid && (!b.held.isEmpty || b.quoin)).flatMap Batch.lanes

/-- A group of a grid that ends: its lanes exit, those of a batch that completes first after it (R270, R361). Open transactions and
iterations are discarded. -/
def endGroup (keep : List Nat) (g : Group) : Group :=
  { g.mapLanes (fun i x => if keep.contains i then x
      else { x with st := .exited, tx := if x.tx.isOpen || x.tx.spec then x.tx.close 0 0 0 else x.tx, txHeld := none,
                    wake := none, txStop := false }) with
    fl := Flight.reset, hold := Hold.reset, stack := [], priv := .user }

/-- The owning grid ends (R270): the launch stops placing blocks, its groups end without executing further
instructions, their open work is discarded, saved blocks are dropped. Batches that hold a token complete (R361). -/
def endGrid (s : State) (lid : Nat) (how : LaunchEnd) : State :=
  let gids := (s.groups.filter fun g => g.lid == lid).map (·.gid)
  let mine := s.blocks.filter fun b => b.lid == lid
  let s : State := gids.foldl settleBatches s
  let s : State := gids.foldl (fun s g => forceLig s g 0) s
  let s : State := forceLenders s gids.contains
  let s : State := freeAreas (dropEngineWork s (mine.map Block.bid)) mine
  let s : State := { s with
    batches := s.batches.filter (fun b => b.lid != lid || !b.held.isEmpty || b.quoin),
    marks := s.marks.filter (fun m => !gids.contains m.gid),
    groups := s.groups.map fun g => if g.lid == lid then endGroup (batchLanes s g.gid) g else g }
  -- saved blocks of the launch are discarded
  let s : State := { s with blocks := (s.blocks.filter fun b => !(b.lid == lid && b.phase == .saved)).map fun b =>
    if b.lid == lid then { b with phase := .resident, preempt := false, area := none } else b }
  let keep := s.batches.any fun b => b.lid == lid && b.quoin
  s.updLaunch lid fun l => { l with how := l.how.orElse fun _ => some how, quoin := if keep then l.quoin else none,
                                    reserve := [], again := [] }

/-- The trace record of a class 0x10 event (R433, kind 3). -/
def traceDebug (s : State) (g : Group) (r : Raise) (grid : Bool) : State :=
  if r.cls = 0x10 then traceWrite s g.ctx [(3 :: leBytes 32 (recordOf s g r grid)) ++ List.replicate 31 0] else s

/-- The record is posted and ends the owning grid (R377, R379, R392). -/
def raiseGrid (s : State) (g : Group) (r : Raise) : State :=
  let x := recordOf s g r true
  endGrid (traceDebug (postRecord s g.ctx x) g r true) g.lid (.fault r.cls x)

/-- The class 0x12 record of a launch site (R378, R379). -/
def siteRecord (a : AsyncSite) (grid : Bool) : Nat :=
  1 + 2 * bit grid + 2 ^ 8 * a.queue.toNat + 2 ^ 16 * 0x12 + 2 ^ 24 * a.code.toNat + 2 ^ 40 * a.grp.toNat +
    2 ^ 48 * a.core.toNat + 2 ^ 64 * a.pc.toNat + 2 ^ 96 * a.seq.toNat + 2 ^ 160 * a.block.toNat + 2 ^ 192 * a.va.toNat

/-- An asynchronous error is reported against its launch site, in the context of its launch, and ends the grid if it still runs
(R269, R270, R379). -/
def endBySite (s : State) (w : Writer) : State :=
  match s.launch? w.lid with
  | some x =>
    let n := siteRecord w.site true
    endGrid (postRecord s x.ctx n) w.lid (.fault 0x12 n)
  | none => postRecord s w.ctx (siteRecord w.site false)

/-- sys.tlstate of a lane (R375). -/
def lstateOf : LaneSt → Word
  | .live => 0
  | .parked => 1
  | .suspended => 0
  | .exited => 2
  | .waiting p => 3 + 16 * (match p with
    | .tend => 0
    | .backoff => 1
    | .spend => 2
    | .rerun => 3
    | .liga => 4)

/-- sys.tbarw of a pending wait (R375). -/
def barwOf (w : BarWait) : Word :=
  BitVec.ofNat 32 (2 ^ 31 + 2 ^ 30 * bit w.bars + 2 ^ 25 * w.p.toNat + 2 ^ 18 * w.level.toNat + 2 ^ 14 * w.num.toNat)

/-- A divergence entry as sys.tj holds it: the mask, then the rejoin address (R375). -/
def entryOf (e : BitVec 32 × Word) : DWord := pairOf e.1 e.2

/-- The trap state of R375 captured: `tc` and `r` give the fault's registers. -/
def captureTrap (g : Group) (cause : Word) (r : Raise) : Group :=
  let g := g.mapLanes fun i x => { x with
    tpc := x.pc, tlstate := lstateOf x.st, stHeld := x.st, txHeld := some x.tx,
    tx := { x.tx with isOpen := false, spec := false, ordered := false },
    tva := if r.mask.getLsbD i then ((r.vas.find? fun v => v.1 == i).map (·.2)).getD 0 else 0 }
  { g with trap := {
      tcause := cause, taddr := r.addr, tseq := r.seq, tmask := r.mask,
      tinfo := r.info ||| BitVec.ofNat 64 ((r.helper.getD 0) +
        (if r.helper.isSome then 2 ^ 32 * r.helperPc.toNat else 0)),
      tcbase := g.codebase, tdepth := BitVec.ofNat 32 g.stack.length, trestart := g.restart,
      tbarw := (g.hold.bar.map barwOf).getD 0, tj := Vector.ofFn fun (k : Fin 16) =>
        ((g.stack.reverse[k.val]?).map entryOf).getD 0,
      phase := (g.hold.bar.map BarWait.phase).getD 0, mx := (g.hold.bar.map BarWait.mx).getD false,
      stat := g.endstat } }

/-- The group becomes privileged at a handler's entry (R374 steps 5 and 6). The A-clocks of a YIELD run on, and its forced
issue stays for the group's own next one (R112, R129); deferred faults of LDVs that are pending stay for after the return (log 35),
as does the event of a step whose instruction has issued (R428). -/
def startHandler (g : Group) (p : Priv) (cbase : DWord) (entry : Word) : Group :=
  let g := g.mapLanes fun _ x => { x with st := .live, pc := entry, age := 0, txStop := false }
  { g with codebase := if cbase = 0 then g.codebase else cbase, priv := p, stack := [], endstat := 0,
           hold := { g.hold with bar := none, waitFor := none, waitHelp := none, forcedPriv := false, switched := none },
           dbg := { g.dbg with step := false },
           fl := { g.fl with pend := none, vec := none, kept := g.fl.kept ++ g.fl.deferred, deferred := [] } }

/-- The group enters the handler whose vector entry was read when the fault was raised, no lane being lent (R373, R374 steps 4
to 6). -/
def enterHandler (s : State) (gid : Nat) (r : Raise) (cbase : DWord) (entry : Word) : State :=
  s.updGroup gid fun g => startHandler (captureTrap (finishLoads g) r.cause r) (.handler r.cls) cbase entry

/-- Any lane of the group is lent (R374 step 3). -/
def anyLent (g : Group) : Bool := (List.range 32).any fun l => (g.lane l).lent

/-- Lanes of the group serve ligatures that other groups recruited. -/
def lentAway (s : State) (gid : Nat) : Bool :=
  s.groups.any fun h => h.gid != gid && (h.lig.any fun l => l.helpers.any fun x => !x.done && x.lender == gid)

/-- A group whose handler is known enters it once no batch of it holds a token or the Quoin (R361): transactions close, then the
ligature it recruited is forced to end (R374 step 2), also at a breakpoint or watchpoint, until when the counter of that ligature
is held (R358, R361), and then its lent lanes are waited for (R374 step 3). -/
def clearEntry (s : State) (gid : Nat) (r : Raise) (cbase : DWord) (entry : Word) : State :=
  let s := settleBatches s gid
  if holdsBatch s gid then s
  else
    let stat := if r.helper.isSome then 2 else 1
    let s := forceLig (closeTx s gid r.mask) gid stat
    if lentAway s gid then s else enterHandler s gid r cbase entry

/-- The fault a group is stopped for goes on (R373, R374, R377, R389): its vector entry is read once, when no host and no commit
batch holds it, and its record is posted. A bad entry ends the grid, as does one on a link that loses the read; without a
handler a translation fault waits for the host and any other ends the grid. -/
def enterWhenClear (s : State) (gid : Nat) : State :=
  match s.group? gid with
  | none => s
  | some g =>
    match g.fl.pend, g.fl.vec with
    | none, _ => s
    | some r, some (cbase, entry) => clearEntry s gid r cbase entry
    | some r, none =>
      let ans := vectorEntry s g r.cls
      let s := match ans with
        | .asked _ => s
        | .lost _ => s
        | _ => vectorTouch s g r.cls
      match ans with
      | .asked p => askHost s p 16 false
      | .bad => raiseGrid s g r
      | .lost c => raiseGrid (asyncError s g.lid c r.addr 0 0 (s.blockIdx g) g.core g.grp) g r
      | .invalid =>
        if r.cls = 0x06 then
          (postRecord s g.ctx (recordOf s g r false)).updGroup gid fun g =>
            { g with hold := { g.hold with host := true }, fl := { g.fl with pend := none } }
        else raiseGrid s g r
      | .ok cbase entry =>
        let s := traceDebug (postRecord s g.ctx (recordOf s g r false)) g r false
        clearEntry (s.updGroup gid fun g => { g with fl := { g.fl with vec := some (cbase, entry) } }) gid r cbase entry

/-- Poison ends the grid: transactions of the failing lanes abort with reason 9 first (R392). -/
def raisePoison (s : State) (g : Group) (r : Raise) : State :=
  let open_ := if r.cls = 0x09 then (lanesOf r.mask).filter fun l => (g.lane l).tx.isOpen else []
  raiseGrid (open_.foldl (fun s l => abortTx s g l 9) s) g r

/-- The event of a step, which no instruction raises (R428). -/
def Raise.isStep (r : Raise) : Bool := r.cls == 0x10 && r.code == 0x60

/-- A fault of a group is taken (R371 to R374, R377, R389, R392). Failing lanes in speculative mode take an ordered
rerun and raise nothing (R192), but for the event of a step (log 71); a fault while the group is privileged or waits for a handler ends the grid; poison and
asynchronous engine errors end it; otherwise the group stops, and enters the handler at once or when the entry is clear.
Instructions issued after the one that fails have not issued. -/
def raise (s : State) (gid : Nat) (r : Raise) : State :=
  match s.group? gid with
  | none => s
  | some g =>
    if g.priv != .user || g.fl.pend.isSome then raisePoison s g r
    else
      let spec := if r.isStep then [] else (lanesOf r.mask).filter fun l => (g.lane l).tx.speculative
      let s := spec.foldl (fun s l => squashLane s gid l 9 true) s
      let r := { r with mask := r.mask &&& ~~~(maskOf spec),
                        recVa := ((r.vas.filter fun v => !spec.contains v.1).head?.map (·.2)).getD r.recVa }
      if !spec.isEmpty && r.mask = 0 then s
      else if r.cls = 0x09 || (r.cls = 0x12 && r.code != 5) then raisePoison s g r
      else
        let s := s.updGroup gid fun g =>
          let g := g.rewind
          { g with fl := { g.fl with pend := some r, vec := none }, hold := { g.hold with park := g.hold.park || r.cls == 0x10 } }
        enterWhenClear s gid

/-- A fault of a helper becomes a fault of the recruiter at its LIGA (R204, R371). -/
def liftHelper (g : Group) (r : Raise) : Raise :=
  match r.helper, g.lig with
  | some h, some l =>
    { r with addr := l.addr, len := 8, mask := maskOf [l.lane], recPc := l.addr, helper := some h,
             vas := (r.vas.find? fun v => v.1 == h).map (fun v => (l.lane, v.2)) |>.toList,
             recVa := ((r.vas.find? fun v => v.1 == h).map (·.2)).getD r.recVa }
  | _, _ => r

/-- An instruction of the group before the one that issues has not written its registers yet: one of its accesses is not
translated, or a FETCH is on its way; the stall reason of a fault that waits for it (R372). -/
def openOps (g : Group) : Option Nat :=
  if g.fl.walks.any (fun m => !m.helper) then some 12 else if !g.fl.fetches.isEmpty then some 11 else none

/-- A fault is raised in place of the instruction that issues, from a state made ready for it; it waits until the earlier
instructions have written their registers (R372). -/
def raiseFrom (s ready : State) (g : Group) (r : Raise) : State :=
  match openOps g with
  | some k => stall s k
  | none => let t := raise ready g.gid r; { t with iss := { t.iss with faulted := true } }

/-- A fault of the instruction that issues, or of one of its helpers. No active thread has moved. The instruction waits
while one its issuer issued before it is not translated (R372). -/
def raiseNow (s : State) (r : Raise) : State :=
  match s.cur with
  | none => s
  | some g => if walking s g then stall s 12 else raiseFrom s s g (liftHelper g r)

/-- A fault of the issuing instruction that every active thread fails. -/
def raiseAll (s : State) (cls : Nat) : State := raiseNow s (faultOf s cls s.iss.active [])

/-- A fault of some threads of the issuing instruction. -/
def raiseIn (s : State) (cls : Nat) (ts : List Nat) : State := raiseNow s (faultOf s cls ts [])

/-- The kinds that write (R375 sys.tcause bit 20). -/
def isWrite : MemKind → Bool
  | .st => true
  | .atom _ _ => true
  | .red _ _ => true
  | .stv => true
  | .sealv => true
  | .floorv => true
  | _ => false

/-- The translation fault of an operand-log entry (R389). -/
def logFault (m : MemOp) : Raise :=
  { cls := 0x06, code := 0, addr := m.pc, len := m.len, deferred := false, write := isWrite m.kind,
    mask := maskOf (m.fails.map (·.1)), vas := m.fails, seq := BitVec.ofNat 32 m.seq, recPc := m.pc,
    recVa := (m.fails.head?.map (·.2)).getD 0, helper := none, helperPc := 0, info := 0 }

/-- The stop of R389: the oldest entry of the operand log that failed is raised, or the group waits for the host. -/
def logStop (s : State) (g : Group) : State :=
  match g.fl.opLog with
  | [] => s
  | m :: _ =>
    if g.hold.host then stall s 12
    else
      let s' := raiseFrom s s g (logFault m)
      { s' with iss := { s'.iss with waited := true } }

/-- A failed FETCH is raised at the first instruction that reads its destination (R212, R392): poison ends the grid; a
deferred protection fault releases the destination. -/
def raiseFetch (s : State) (g : Group) (l : Load) : State :=
  let r := { faultOf s l.cls (l.bad.map (·.1)) l.bad with
    deferred := l.cls != 0x09, recPc := if l.cls = 0x09 then s.iss.addr else l.pc, seq := l.seq, helper := none }
  if l.cls = 0x09 then raiseNow s r
  else
    let t := raiseFrom s (s.updGroup g.gid fun g => { g with fl := { g.fl with loads := g.fl.loads.filter (· != l) } }) g r
    { t with iss := { t.iss with waited := true } }

/-! ## The wrappers of the meanings -/

/-- Runs a meaning for the issuing group after the issue check. -/
def gateMem (s : State) (uses : List Use) (free helperOk : Bool) (k : Group → Out State) : Out State :=
  match s.cur with
  | none => .fault .noIssuer
  | some g =>
    match gateOf s g uses free helperOk with
    | .illegal => .next (raiseAll s 0x01)
    | .ligature => .next (raiseIn s 0x0F (executing s g (issueGuard s)))
    | .stop => .next (logStop s g)
    | .failed l => .next (raiseFetch s g l)
    | .held reason => .next (stall s reason)
    | .go => k g

/-- The same for an instruction other than those of R386: while one of those is not translated, the issuer issues no other
instruction (log 2), so that a fault found at its page walk is precise (R173); the wait counts under `reason`. -/
def gateAs (reason : Nat) (s : State) (uses : List Use) (free helperOk : Bool) (k : Group → Out State) : Out State :=
  gateMem s uses free helperOk fun g => if walking s g then .next (stall s reason) else k g

/-- The same, its wait counted as one for a translation (R431). -/
def gate (s : State) (uses : List Use) (free helperOk : Bool) (k : Group → Out State) : Out State :=
  gateAs 12 s uses free helperOk k

/-- A per-lane instruction that acts on each executing thread's own registers (R7, R30, R77): `f` gives the thread
after the instruction, without its PC. `free` says that it may issue while the operand log holds an entry (R388). -/
def perLaneIf (free : Bool) (s : State) (uses : List Use) (gd : Guard) (f : Group → Nat → Lane → Lane) : Out State :=
  gate s uses free true fun g => .next (s.mapActive fun t x =>
    { (if guardTrue gd x then f g t x else x) with pc := s.nextPc })

/-- A per-lane instruction of majors 0x00 to 0x1F. -/
def perLane (s : State) (uses : List Use) (gd : Guard) (f : Group → Nat → Lane → Lane) : Out State :=
  perLaneIf true s uses gd f

/-- The guard of an instruction that acts once for the group (R32); in helper code each helper acts alone (R80). -/
def groupGuard (s : State) (g : Group) (gd : Guard) (k : List Nat → State) : State :=
  let ex := executing s g gd
  if s.iss.helper then (if ex.isEmpty then s.advance else k ex)
  else if ex.length = s.iss.active.length then k ex
  else if ex.isEmpty then s.advance
  else raiseAll s 0x02

/-- A group instruction, whose wait for translations counts under `reason`. -/
def perGroupAs (reason : Nat) (s : State) (uses : List Use) (free helperOk : Bool) (gd : Guard)
    (k : Group → List Nat → State) : Out State :=
  gateAs reason s uses free helperOk fun g => .next (groupGuard s g gd (k g))

/-- A group instruction. -/
def perGroup (s : State) (uses : List Use) (free helperOk : Bool) (gd : Guard) (k : Group → List Nat → State) :
    Out State :=
  perGroupAs 12 s uses free helperOk gd k

/-- Adds float flags to a thread (R74), or holds them with its open transaction or iteration (R76). -/
def Lane.addFlags (x : Lane) (f : Sticky) : Lane :=
  if x.tx.logging || x.tx.spec then { x with tx := { x.tx with held := x.tx.held ||| f } }
  else { x with fsticky := x.fsticky ||| f }

/-! ## The end of a ligature (R204) -/

/-- The fold of one recruiter register at a normal end (R204): helper partials in index order from V[d]. -/
def foldPartial (v : Word) (p : Partial) : Word × Flags :=
  match p.op.toNat, p.f32 with
  | 0, false => (v + p.val, 0)
  | 1, false => (if v.toInt ≤ p.val.toInt then v else p.val, 0)
  | 2, false => (if v.toInt ≤ p.val.toInt then p.val else v, 0)
  | 0, true => addF32 v p.val
  | 1, true => minmaxF32 false v p.val
  | 2, true => minmaxF32 true v p.val
  | _, _ => (v ||| p.val, 0)

/-- The partials of one register folded in helper order from its value as at LIGA, with the fold's flags (R204). -/
def foldReg (l : Lig) (x : Lane) (d : Nat) : Lane :=
  let ps := l.helpers.flatMap fun h => h.partials.filter fun p => p.d == d
  if ps.isEmpty then x
  else
    let (v, f) := ps.foldl (fun (v, f) p => let (w, k) := foldPartial v p; (w, f ||| k)) (vget 0 l.regs d, (0 : Flags))
    { x.setReg d v with fsticky := x.fsticky ||| f }

/-- Every partial of a ligature folded into the recruiter, with the fold's flags and the helpers' flags (R204). -/
def foldHelpers (l : Lig) (x : Lane) : Lane :=
  let x := (List.range 16).foldl (foldReg l) x
  { x with fsticky := l.helpers.foldl (fun f h => f ||| h.lane.fsticky) x.fsticky }

/-- The normal end of a ligature (R204): the helpers' accesses are performed at .blk, the partials are folded, the
recruiter resumes after LIGA. -/
def endLig (s : State) (g : Group) (l : Lig) : State :=
  let s := drainQueue s g.gid
  (s.updLane g.gid l.lane fun x => (foldHelpers l x).wakeAt (l.addr + 8)).updGroup g.gid fun g =>
    { dropHelperOps g with lig := none, stallCnt := 0 }

/-- The helpers have accesses outstanding. -/
def helperBusy (g : Group) : Bool :=
  (g.fl.walks ++ g.fl.ldvs).any MemOp.helper || g.fl.loads.any Load.helper

/-- A value is on its way to a register of the group. -/
def destHeld (g : Group) (d : Nat) : Bool :=
  g.fl.loads.any (fun l => !l.helper && (Use.v d).hits l.dst (if l.pair then 2 else 1)) ||
  (g.fl.walks ++ g.fl.opLog ++ g.fl.ldvs ++ g.fl.fetches).any fun m => !m.helper && (Use.v d).hits m.dst m.dstLen

/-- The recruiter has itself a value outstanding for a register that a partial is folded into: the fold waits for it, since
it starts from the register as at LIGA (R204). -/
def foldHeld (g : Group) (l : Lig) : Bool := l.helpers.any fun h => h.partials.any fun p => destHeld g p.d

/-- The ligature ends once every helper has ended and has nothing outstanding (R204). -/
def closeLig (s : State) (gid : Nat) : State :=
  match s.group? gid with
  | none => s
  | some g =>
    match g.lig with
    | none => s
    | some l => if l.helpers.all (·.done) && !helperBusy g && !foldHeld g l then endLig s g l else s

/-! ## The return from a handler (R376) -/

/-- The lane state a sys.tlstate names, when ERET accepts it. -/
def eretState (x : Lane) : Option LaneSt :=
  match x.tlstate.toNat with
  | 0 => some .live
  | 1 => some .parked
  | 2 => some .exited
  | n =>
    let p : Option WaitPoint := match n with
      | 3 => some .tend
      | 19 => some .backoff
      | 35 => some .spend
      | 51 => some .rerun
      | 67 => some .liga
      | _ => none
    match p with
    | some p => if x.stHeld = .waiting p then some (.waiting p) else none
    | none => none

/-- The barriers a launch declares at a level (R162, R416). -/
def barrierCount (l : Launch) (level : Nat) : Nat :=
  match level with
  | 0 => l.lr.gbar
  | 1 => l.lr.bbar
  | 2 => l.lr.cbar
  | _ => l.lr.dbar

/-- The barrier a group names (R162). -/
def barOf (s : State) (g : Group) (level num : Nat) : Bar :=
  match level with
  | 0 => vget Bar.reset ((s.group? g.gid).getD g).gbar num
  | 1 => match s.block? g.bid with
    | some b => vget Bar.reset b.bars num
    | none => Bar.reset
  | 2 => match s.launch? g.lid with
    | some l => vget Bar.reset (listGet (Vector.replicate 8 Bar.reset) l.cluBars (s.blockIdx g / max 1 l.lr.clusterdim)) num
    | none => Bar.reset
  | _ => match s.launch? g.lid with
    | some l => vget Bar.reset l.gridBars num
    | none => Bar.reset

/-- The member's logical identifier at a level (R162); at group level the lane. -/
def memberOf (s : State) (g : Group) (level lane : Nat) : Nat :=
  match level with
  | 0 => lane
  | 1 => g.grp
  | _ => 32 * s.blockIdx g + g.grp

/-- The pending wait sys.tbarw names. -/
def tbarwWait (t : Trap) : Option BarWait :=
  let w := t.tbarw
  if w.getLsbD 31 then
    some { bars := w.getLsbD 30, mx := t.mx, p := w.extractLsb' 25 5, level := w.extractLsb' 18 2,
           num := w.extractLsb' 14 4, phase := t.phase }
  else none

/-- The checks of R376 step 1. -/
def eretOk (s : State) (g : Group) : Bool :=
  ((List.range 32).all fun l => let x := g.lane l; !x.tpc.getLsbD 0 && (eretState x).isSome) &&
  g.trap.tdepth.toNat ≤ 16 &&
  (match tbarwWait g.trap with
   | none => true
   | some w =>
     (match s.launch? g.lid with
      | some l => w.num.toNat < barrierCount l w.level.toNat
      | none => false) &&
     (if w.level = 0 then
        (List.range 32).any fun l => ((barOf s g 0 w.num.toNat).arr.find? fun a => a.1 == l).isSome
      else ((barOf s g w.level.toNat w.num.toNat).arr.find? fun a => a.1 == memberOf s g w.level.toNat 0).isSome))

/-- The stack that sys.tdepth and sys.tj describe, the top entry first. -/
def eretStack (t : Trap) : List (BitVec 32 × Word) :=
  ((List.range t.tdepth.toNat).map fun k => let e := vget 0 t.tj k; (loWord e, hiWord e)).reverse

/-- Steps 2 to 4 of R376: code base, lanes, stack, restart point and a pending barrier wait come back; privileged
operation ends, ages are 0, the stall counter restarts, deferred faults of LDVs are pending again (R196), the debug unit arms its
skip and step (R428). -/
def restoreTrap (s : State) (g : Group) : Group :=
  let t := g.trap
  let g' := g.mapLanes fun _ x =>
    { x with pc := x.tpc, st := (eretState x).getD .live, age := 0, tx := x.txHeld.getD x.tx, txHeld := none }
  let wait := (tbarwWait t).map fun w =>
    { w with phase := (((barOf s g w.level.toNat w.num.toNat).arr.find? fun a =>
        a.1 == memberOf s g w.level.toNat a.1 || w.level = 0).map (·.2)).getD w.phase }
  { g' with codebase := t.tcbase, stack := eretStack t, restart := t.trestart, priv := .user, stallCnt := 0, endstat := t.stat,
            fl := { g'.fl with deferred := g'.fl.kept ++ g'.fl.deferred, kept := [] },
            hold := { g'.hold with bar := wait, park := false, waitFor := none, forcedPriv := false },
            dbg := { g'.dbg with skip := g'.dbg.dbgctl.getLsbD 1, step := g'.dbg.dbgctl.getLsbD 0 } }

/-- The return from a handler (R376 steps 1 to 4); a check that fails ends the owning grid with the protection fault. -/
def returnTrap (s : State) (g : Group) : State :=
  if eretOk s g then s.updGroup g.gid (restoreTrap s)
  else raiseGrid s g (faultOf s 0x07 [] [])

end Sys2Proof.Machine
end

