-- ==== Sys2Proof/Machine/Select.lean ====
section
/-!
DEFINITION. The issue choice of a group and of a helper set (R110, R111, R262), and the address at which a group stands.
-/

namespace Sys2Proof.Machine

/-- The address and the active threads of an issue. -/
structure Sel where
  addr : Word
  active : List Nat
deriving DecidableEq, Repr

/-- The choice among live threads given with their PC and age: the least PC, or when forced that of the thread with the
greatest age, the lowest number on ties. -/
def choose (live : List (Nat × Word × Nat)) (forced : Bool) : Option Sel :=
  match live with
  | [] => none
  | t :: ts =>
    let oldest := ts.foldl (fun (a : Nat × Word × Nat) b => if a.2.2 < b.2.2 then b else a) t
    let least := ts.foldl (fun (a : Nat × Word × Nat) b => if b.2.1 < a.2.1 then b else a) t
    let addr := if forced || oldest.2.2 ≥ 4064 then oldest.2.1 else least.2.1
    some { addr := addr, active := ((t :: ts).filter fun x => x.2.1 == addr).map (·.1) }

/-- A lane is in the issue choice: live and not lent (R109), and not stopped by the translation fault that aborted its
transaction (R186). -/
def Lane.issues (x : Lane) : Bool := x.st == .live && !x.lent && !x.txStop

/-- The next issue of a group, or of its handler, is forced by a YIELD (R111, R129). -/
def Group.forcedNext (g : Group) : Bool := if g.priv == .user then g.hold.forced else g.hold.forcedPriv

/-- The issue choice of a group. -/
def groupSel (g : Group) : Option Sel :=
  choose ((g.lanesWhere Lane.issues).map fun l => (l, (g.lane l).pc, (g.lane l).age)) g.forcedNext

/-- Only lanes stopped by the fault of their transaction are left: the group has reached the stop of R389. -/
def txHalted (g : Group) : Bool :=
  g.priv == .user && !g.fl.opLog.isEmpty && (groupSel g).isNone && !(g.lanesWhere fun x => x.st == .live && x.txStop).isEmpty

/-- The issue choice of a helper set (R262). -/
def helperSel (l : Lig) : Option Sel :=
  choose ((l.helpers.mapIdx fun i h => (i, h)).filterMap fun (i, h) =>
    if !h.done && h.lane.st == .live then some (i, h.lane.pc, h.lane.age) else none) false

/-- The issue choice of an issuer. -/
def selOf (g : Group) (helper : Bool) : Option Sel :=
  if helper then g.lig.bind helperSel else groupSel g

/-- The instruction address of a group that does not issue: that of the issue choice, else the least PC of its lanes that wait
under R175 or are suspended at LIGA (R241, R397). -/
def waitSel (g : Group) : Sel :=
  match groupSel g with
  | some x => x
  | none =>
    let ws := g.lanesWhere fun x => match x.st with
      | .waiting _ => true
      | .suspended => true
      | _ => false
    match choose (ws.map fun l => (l, (g.lane l).pc, 0)) false with
    | some x => x
    | none => { addr := 0, active := [] }

/-- The address at which a group has stopped: its pending barrier wait, whose lanes stand past it, or the instruction it would
issue or waits on (R212, R241). -/
def stopAddr (g : Group) : Word :=
  match g.hold.bar with
  | some _ => (((g.lanesWhere fun x => x.st == .live).head?.map fun l => (g.lane l).pc).getD 0) - 4
  | none => (waitSel g).addr

end Sys2Proof.Machine
end

