-- ==== Sys2Proof/Machine/EngineOps.lean ====
section
/-!
DEFINITION. A group as it starts (R40), and what the engines' instructions share: sequence numbers (R207), issue
restrictions (R208, R209), deferred faults and their raise points (R212), and whether an engine command's remaining
accesses translate (R126).
-/

namespace Sys2Proof.Machine

/-! ## A group at its start -/

/-- A group at its start (R40): lanes live at the entry, registers zero, the argument words in s0 to s7. -/
def Group.start (gid core slot : Nat) (b : Block) (grp nregs : Nat) (codebase : DWord) (entry : Word)
    (args : Vector DWord 8) (dbg : Debug) : Group :=
  { gid := gid, core := core, slot := slot, bid := b.bid, lid := b.lid, ctx := b.ctx, grp := grp, nregs := nregs,
    codebase := codebase, entry := entry, u := Vector.ofFn fun (i : Fin 64) => vget 0 args i.val,
    lanes := Vector.replicate 32 (Lane.reset entry), stack := [], restart := entry, seq := 0, endstat := 0,
    priv := .user, trap := Trap.reset, gbar := Vector.replicate 2 Bar.reset, hold := Hold.reset,
    stalls := Vector.replicate 16 0, counted := 0, stallCnt := 0, dbg := dbg, lig := none, mctx := none,
    key := { ge := 0, ce := 0, be := 0, k := 0, seen := [] }, fl := Flight.reset }

/-- The empty block a stub stands in when its block has ended. -/
def Block.none : Block :=
  { bid := 0, lid := 0, idx := 0, core := 0, ctx := 0, banks := [], bars := Vector.replicate 16 Bar.reset, handles := [],
    phase := .resident, preempt := false, area := Option.none, left := [], stalls := [], entry := Option.none,
    saved := [], eng := Option.none }

/-- The issuer of an engine command: the group, or a stub with its identifiers once it has ended (R127, R241). -/
def State.issuerOf (s : State) (gid bid grp : Nat) (prv : Bool) : Group :=
  match s.group? gid with
  | some g => { g with priv := if prv then .handler 0 else .user }
  | none =>
    let b := (s.block? bid).getD Block.none
    { Group.start gid b.core 0 b grp 0 0 0 (Vector.replicate 8 0) Debug.reset with priv := if prv then .handler 0 else .user }

/-! ## Issue of engine instructions -/

/-- The group's command counter after one more command (R207). -/
def nextSeq (x : Word) : Word := if x = BitVec.allOnes 32 then 1 else x + 1

/-- Whether a thread has an open transaction or iteration, in either mode (R209). -/
def Lane.inTx (x : Lane) : Bool := x.tx.isOpen || x.tx.spec

/-- An instruction of majors 0x30 to 0x35 under R32 (R208, R209), in the order of R211: helper code, transactions of the
executing lanes, guards, all 32 lanes where the instruction asks for them. -/
def engineGroup (s : State) (uses : List Use) (all32 : Bool) (gd : Guard) (k : Group → State) : Out State :=
  gate s uses false false fun g =>
    let tx := (executing s g gd).filter fun l => (g.lane l).inTx
    .next (if !tx.isEmpty then raiseIn s 0x0C tx
      else groupGuard s g gd fun _ => if all32 && s.iss.active.length != 32 then raiseAll s 0x02 else k g)

/-! ## Deferred faults (R212) -/

/-- A fault an engine command met, to be raised later; the address, and whether it wrote. -/
def engineRaise (cls : Nat) (code : BitVec 8) (pc : Word) (seq : Word) (va : DWord) (write : Bool) : Raise :=
  { cls := cls, code := code, addr := 0, len := 4, deferred := true, write := write, mask := 0, vas := [], seq := seq,
    recPc := pc, recVa := va, helper := none, helperPc := 0, info := 0 }

/-- The class of a translation that failed. -/
def XFault.cls : XFault → Nat
  | .translation => 0x06
  | .protection => 0x07

/-- The fault a matrix command holds. -/
def MCmd.fault (c : MCmd) : Option Raise :=
  match c.phase with
  | .failed r => some r
  | _ => none

/-- The command is a drain. -/
def MCmd.isDrain (c : MCmd) : Bool :=
  match c.ins with
  | .mdrain _ => true
  | _ => false

/-- A load of weights. -/
def MCmd.isLoad (c : MCmd) : Bool :=
  match c.ins with
  | .mload _ => true
  | .mloads _ => true
  | _ => false

/-- The command is not complete: a drain that holds a fault keeps its tile (R229); any other failed command performs
nothing more. -/
def MCmd.incomplete (c : MCmd) : Bool := c.fault.isNone || c.isDrain

/-- The earliest matrix command of a group with a fault that is not yet raised. -/
def matrixFault (s : State) (g : Group) (c : MCmd → Bool) : Option (Word × Raise) :=
  (s.engine g.core).queue.findSome? fun x =>
    if x.gid == g.gid && !x.raised && c x then x.fault.map fun r => (x.seq, r) else none

/-- The barrier a copy request counts down (R238). -/
def ImpReq.bar (r : ImpReq) : Option Nat := if r.req.testBit 180 then some (r.req / 2 ^ 176 % 16) else none

/-- The barrier a FETCHC command counts down (R237). -/
def FetchC.bar (r : FetchC) : Option Nat := if r.h.cnt then some r.h.bar else none

/-- The earliest copy or FETCHC command of a group, by sequence numbers that wrap (R207), with a fault that is not yet
raised, among those that count down a barrier satisfying a condition. -/
def copyFault (s : State) (g : Group) (c : Option Nat → Bool) : Option (Word × Raise) :=
  let e := s.engine g.core
  let a := e.imps.filterMap fun r =>
    if r.gid == g.gid && !r.raised && c r.bar then r.failed.map fun f => (r.seq, f) else none
  let b := e.fetchcs.filterMap fun r =>
    if r.gid == g.gid && !r.raised && c r.bar then r.failed.map fun f => (r.seq, f) else none
  (a ++ b).foldl (fun (best : Option (Word × Raise)) x =>
    match best with
    | none => some x
    | some y => if (g.seq - y.1).toNat < (g.seq - x.1).toNat then some x else some y) none

/-- Marks the fault of a command as raised. -/
def markRaised (s : State) (core gid : Nat) (seq : Word) : State :=
  s.updEngine core fun e => { e with
    queue := e.queue.map (fun x => if x.gid == gid && x.seq == seq && x.fault.isSome then { x with raised := true } else x),
    imps := e.imps.map (fun x => if x.gid == gid && x.seq == seq && x.failed.isSome then { x with raised := true } else x),
    fetchcs := e.fetchcs.map (fun x => if x.gid == gid && x.seq == seq && x.failed.isSome then { x with raised := true } else x) }

/-- A deferred fault is raised at the instruction that issues, which does not execute (R212). -/
def raiseDeferred (s : State) (g : Group) (f : Word × Raise) : State :=
  let t := raiseFrom s (markRaised s g.core g.gid f.1) g { f.2 with addr := s.iss.addr, len := s.iss.len }
  { t with iss := { t.iss with waited := true } }

/-- A fault of a copy is raised where its group stands (R212, R241): while the group waits on the barrier the copy counts down,
also a wait that goes on after a handler, or when its block has stopped for pre-emption. At any other moment it is raised at a
later instruction. It waits until the group's earlier instructions have written their registers (R372). -/
def raiseStanding (s : State) (gid : Nat) : State :=
  match s.group? gid with
  | none => s
  | some g =>
    let stopped := ((s.block? g.bid).any fun b => b.phase == .draining) && g.hold.stopped
    let due := fun (b : Option Nat) => stopped || g.hold.bar.any fun w => w.level == 1 && b == some w.num.toNat
    if g.priv != .user || g.fl.pend.isSome || g.hold.host || (openOps g).isSome then s
    else match copyFault s g due with
      | some f => raise (markRaised s g.core g.gid f.1) g.gid { f.2 with addr := stopAddr g, len := lenAt s g (stopAddr g) }
      | none => s

/-! ## Accesses of the engines -/

/-- What a write of an engine command carries: the access path (R284), the launch site with the effective address, the barrier
that counts it. -/
structure EngineSite where
  path : Nat
  pc : Word
  seq : Word
  va : DWord
  bar : Option Nat
deriving DecidableEq, Repr

/-- A write of an engine waits past the write point, seen on no path until it is performed or an edge of R292 shows it. -/
def pushEngine (s : State) (g : Group) (e : EngineSite) (p : Place) (bs : List (Nat × Byte)) : State :=
  { s with nextId := s.nextId + 1,
           wp := s.wp ++ [{ id := s.nextId, gid := g.gid, core := g.core, lid := g.lid, bidx := s.blockIdx g, place := p,
                            path := e.path, kind := .store bs, sync := false, rel := false, scope := 0, grp := g.grp, vis := 0,
                            heldBack := false, pc := e.pc, seq := e.seq, va := e.va, bar := e.bar }] }

/-- Bytes written by an engine (R292): one write for each sector. A global write of a deterministic launch, or to a frame that is
being migrated, is performed at its home slice, after the stores past a write point that cover its bytes (R277, R393). -/
def engineWrite (s : State) (g : Group) (e : EngineSite) (p : Place) (bytes : List Byte) : State :=
  match p with
  | .mem k =>
    if (s.groupTag g).isSome || migrating s k then
      let s := performWhere s fun f => (List.range bytes.length).any fun o => f.covers (p.plus o)
      writeRun s (s.groupTag g) (coreDie g.core) (some (s.writerOf g e.pc e.seq e.va)) p bytes
    else (bySector ((List.range bytes.length).zip bytes |>.map fun (i, b) => (k + i, b))).foldl
      (fun s (q, bs) => pushEngine s g e (.mem q) bs) s
  | .case k => (bySector ((List.range bytes.length).zip bytes |>.map fun (i, b) => (k + i, b))).foldl
      (fun s (q, bs) => pushEngine s g e (.case q) bs) s

/-- The byte an Imposer reads: the newest byte that has arrived there on path I (R239), for a deterministic launch under its
filter (R23, R399), else the byte at home. -/
def imposerByte (s : State) (g : Group) (p : Place) : Byte :=
  match (s.wp.reverse.find? fun e => e.path == 3 && e.covers p && e.ahead s (s.groupTag g) p).bind fun e => e.byte p with
  | some b => b
  | none => placeByte s (s.groupTag g) p 0

/-- The device cache takes the lines of host and pool memory that an engine reads (R406). -/
def engineTouch (s : State) (g : Group) (ps : List Place) : State :=
  ps.foldl (fun s p => match p with
    | .mem k => l3Read s (coreDie g.core) k
    | .case _ => s) s

/-- The asynchronous error an engine access of `n` bytes meets (R213, R409, R410). -/
def engineError (s : State) (p : Place) (n : Nat) (write : Bool) : Option (BitVec 8) :=
  match linkCode s p with
  | some c => some c
  | none => if !write && poisonedAt s p n then some 1 else none

/-! ## Case extents (R211, R218) -/

/-- What the check of a Case extent answers: a bank it names may be switching its mode (R160). -/
inductive Extent where
  | ok
  | bad
  | busy
deriving DecidableEq, Repr

/-- One byte of the block view lies in an owned bank in scratchpad mode (R140, R141). -/
def caseByteOk (s : State) (g : Group) (o : Nat) : Extent :=
  match (s.block? g.bid).bind fun b => blockView b o with
  | none => .bad
  | some (k, _) =>
    let b := s.bank (coreClu g.core) k
    if b.switch.isSome then .busy else if b.mode = .scratch then .ok else .bad

/-- The worse of two answers: bad, then busy. -/
def Extent.and : Extent → Extent → Extent
  | .bad, _ => .bad
  | _, .bad => .bad
  | .busy, _ => .busy
  | .ok, x => x

/-- A run of at most 65,536 bytes of the block view: it touches no bank that neither of its ends touches. -/
def caseRun (s : State) (g : Group) (o n : Nat) : Extent :=
  if n = 0 then .ok else (caseByteOk s g o).and (caseByteOk s g (o + n - 1))

/-- `m` runs of `n` bytes at a pitch. -/
def caseRows (s : State) (g : Group) (o pitch n m : Nat) : Extent :=
  (List.range m).foldl (fun e j => e.and (caseRun s g (o + j * pitch) n)) .ok

/-- Bytes of the block view as an engine reads them. -/
def caseBytes (s : State) (bid o n : Nat) : List Byte :=
  (List.range n).map fun i => match blockPlace s bid (o + i) with
    | some p => placeByte s none p 0
    | none => 0

/-! ## What is left of a command's accesses -/

/-- Drain control (R227): the three control registers. -/
structure DrainCtl where
  row0 : Nat
  m : Nat
  rpitch : Nat
  dpitch : Nat
  thr : Nat
  scale : Word
  colbase : Word
  rowbase : Word
deriving DecidableEq, Repr

/-- The drain control of the three register values. -/
def drainCtl (q q1 q2 : DWord) : DrainCtl :=
  { row0 := (q.extractLsb' 40 6).toNat, m := (q.extractLsb' 32 7).toNat, rpitch := (q.extractLsb' 16 16).toNat,
    dpitch := (q.extractLsb' 0 16).toNat, thr := (q1.extractLsb' 32 16).toNat, scale := loWord q1,
    colbase := hiWord q2, rowbase := loWord q2 }

/-- The bytes of 256 elements of a format. -/
def rowBytes (fmt : BitVec 6) : Nat := 32 * ((fmtOfCode fmt).map fmtWidth).getD 32

/-- The addresses of a range at which a page can begin: its start and every 8 KiB boundary in it (R178). -/
def rangePages (ea : DWord) (len : Nat) : List DWord :=
  if len = 0 then []
  else ea :: ((List.range ((ea.toNat % 8192 + len - 1) / 8192)).map fun i =>
    BitVec.ofNat 64 (ea.toNat / 8192 * 8192 + 8192 * (i + 1)))

/-- A frame of the heap window as a leaf that maps it (R384, R396). -/
def heapLeaf (pa : Nat) : Leaf :=
  { base := pa / 8192 * 8192, bits := 13, r := true, w := true, x := false, u := true, home := 0, galley := none, peer := 0, entry := 0 }

/-- A translation kept with the leaves of some addresses that translate now (R126, R283). An address of the heap window keeps its
frame, which no walk names (R396). -/
def Frozen.pin (s : State) (g : Group) (f : Frozen) (as : List DWord) : Frozen :=
  as.foldl (fun f a => match classifyIn f s g a with
    | .heap pa => if f.leaves.any fun (_, l) => l == heapLeaf pa then f else { f with leaves := f.leaves ++ [(a.toNat, heapLeaf pa)] }
    | .paged =>
      if f.leaves.any fun (va, l) => va / 2 ^ l.bits == a.toNat / 2 ^ l.bits then f
      else (match walkVa s g a with
        | .ok l => { f with leaves := f.leaves ++ [(a.toNat, l)] }
        | .error _ => f)
    | _ => f) f

/-- Every 32-byte piece of a run of bytes translates for an access; the first that does not, with its address. -/
def spanFault (f : Frozen) (s : State) (g : Group) (n : Need) (ea : DWord) (bytes : Nat) : Option (XFault × DWord) :=
  (List.range ((bytes + 31) / 32)).findSome? fun i =>
    let a := ea + BitVec.ofNat 64 (32 * i)
    match xlateIn f s g n a with
    | .error e => some (e, a)
    | .ok _ => none

/-- A table entry that the translation of a run of bytes waits for (R343, R405). -/
def spanHeld (f : Frozen) (s : State) (g : Group) (ea : DWord) (bytes : Nat) : Option Place :=
  (List.range ((bytes + 31) / 32)).findSome? fun i => xlateHeld f s g (ea + BitVec.ofNat 64 (32 * i))

/-- What an engine needs of the pages it reads or writes. -/
def engineNeed (write prv : Bool) : Need := { r := !write, w := write, x := false, galley := false, priv := prv }

/-- The destination or residual of drain row `i` fails translation or permission. -/
def drainRowFault (s : State) (g : Group) (c : MCmd) (f : MdrainForm) (i : Nat) : Option (XFault × DWord × Bool) :=
  let d := drainCtl c.u3 c.u3a c.u3b
  let res := if f.res then
      spanFault c.tr s g (engineNeed false c.prv) (c.u2 + BitVec.ofNat 64 (i * d.rpitch)) (rowBytes f.rfmt)
    else none
  match res with
  | some (x, a) => some (x, a, false)
  | none =>
    (spanFault c.tr s g (engineNeed true c.prv) (c.u1 + BitVec.ofNat 64 (i * d.dpitch)) (rowBytes f.dfmt)).map fun (x, a) =>
      (x, a, true)

/-- Every row of a drain from `i` on translates. -/
def drainTranslates (s : State) (c : MCmd) : Bool :=
  match c.ins with
  | .mdrain f =>
    let g := s.issuerOf c.gid c.bid 0 c.prv
    (List.range (drainCtl c.u3 c.u3a c.u3b).m).all fun i => (drainRowFault s g c f i).isNone
  | _ => true

/-- A drain that keeps the translations of its rows (R126). -/
def MCmd.pin (s : State) (c : MCmd) : MCmd :=
  match c.ins with
  | .mdrain f =>
    let g := s.issuerOf c.gid c.bid 0 c.prv
    let d := drainCtl c.u3 c.u3a c.u3b
    { c with tr := c.tr.pin s g ((List.range d.m).flatMap fun i =>
        rangePages (c.u1 + BitVec.ofNat 64 (i * d.dpitch)) (rowBytes f.dfmt) ++
        (if f.res then rangePages (c.u2 + BitVec.ofNat 64 (i * d.rpitch)) (rowBytes f.rfmt) else [])) }
  | _ => c

/-- A copy request's fields (R238). -/
structure CopyReq where
  src : Nat
  dst : Nat
  xb : Nat
  yc : Nat
  zc : Nat
  sys : Nat
  dys : Nat
  szs : Nat
  dzs : Nat
  page : Bool
deriving DecidableEq, Repr

/-- The fields of the 32 bytes. -/
def copyReq (r : Nat) : CopyReq :=
  { src := r % 2 ^ 64, dst := r / 2 ^ 64 % 2 ^ 64, xb := r / 2 ^ 128 % 2 ^ 16, yc := r / 2 ^ 144 % 2 ^ 16,
    zc := r / 2 ^ 160 % 2 ^ 16, sys := r / 2 ^ 192 % 2 ^ 16, dys := r / 2 ^ 208 % 2 ^ 16, szs := r / 2 ^ 224 % 2 ^ 16,
    dzs := r / 2 ^ 240 % 2 ^ 16, page := r.testBit 181 }

/-- The bytes a request copies. -/
def CopyReq.total (c : CopyReq) : Nat := c.xb * c.yc * c.zc

/-- Source and destination address of byte `k` of a request, in (z, y, x) order (R239). -/
def CopyReq.addrs (c : CopyReq) (k : Nat) : DWord × DWord :=
  let x := k % c.xb
  let y := k / c.xb % c.yc
  let z := k / (c.xb * c.yc)
  (BitVec.ofNat 64 (c.src + x + 16 * y * c.sys + 4096 * z * c.szs),
   BitVec.ofNat 64 (c.dst + x + 16 * y * c.dys + 4096 * z * c.dzs))

/-- Byte `k` of a request fails translation or permission: source first. -/
def copyByteFault (f : Frozen) (s : State) (g : Group) (c : CopyReq) (prv : Bool) (k : Nat) : Option (XFault × DWord × Bool) :=
  if c.page then none
  else
    match xlateIn f s g (engineNeed false prv) (c.addrs k).1 with
    | .error e => some (e, (c.addrs k).1, false)
    | .ok _ =>
      match xlateIn f s g (engineNeed true prv) (c.addrs k).2 with
      | .error e => some (e, (c.addrs k).2, true)
      | .ok _ => none

/-- Every byte of a request that has not arrived translates. -/
def copyTranslates (s : State) (r : ImpReq) : Bool :=
  let c := copyReq r.req
  let g := s.issuerOf r.gid r.bid r.grp r.prv
  (List.range (c.total - r.pos)).all fun i => (copyByteFault r.tr s g c r.prv (r.pos + i)).isNone

/-- The starts of a request's rows at the source or destination (R239). -/
def CopyReq.rows (c : CopyReq) (dst : Bool) : List DWord :=
  (List.range (c.yc * c.zc)).map fun r =>
    let k := r * c.xb
    if dst then (c.addrs k).2 else (c.addrs k).1

/-- A copy request that keeps the translations of its rows (R126). -/
def ImpReq.pin (s : State) (r : ImpReq) : ImpReq :=
  let c := copyReq r.req
  let g := s.issuerOf r.gid r.bid r.grp r.prv
  if c.page then r
  else { r with tr := r.tr.pin s g ((c.rows false ++ c.rows true).flatMap fun a => rangePages a c.xb) }

end Sys2Proof.Machine
end

