-- ==== Sys2Proof/Machine/BarrierOps.lean ====
section
/-!
DEFINITION. Barriers (R162 to R168): membership, arrival, completion of a phase, the end of a wait, and the Quoin key
counters that completed waits advance (R344).
-/

namespace Sys2Proof.Machine

/-- Changes the barrier a group names. -/
def updBar (s : State) (g : Group) (level num : Nat) (f : Bar → Bar) : State :=
  match level with
  | 0 => s.updGroup g.gid fun g => { g with gbar := vset g.gbar num (f (vget Bar.reset g.gbar num)) }
  | 1 => s.updBlock g.bid fun b => { b with bars := vset b.bars num (f (vget Bar.reset b.bars num)) }
  | 2 =>
    let i := s.blockIdx g
    s.updLaunch g.lid fun l =>
      let c := i / max 1 l.lr.clusterdim
      let v := listGet (Vector.replicate 8 Bar.reset) l.cluBars c
      { l with cluBars := listPut l.cluBars c (vset v num (f (vget Bar.reset v num))) }
  | _ => s.updLaunch g.lid fun l => { l with gridBars := vset l.gridBars num (f (vget Bar.reset l.gridBars num)) }

/-- The groups of one block of a launch. -/
def LaunchRec.groups (r : LaunchRec) : Nat := r.bx * r.by_ * r.bz / 32

/-- The blocks of a launch. -/
def LaunchRec.blocks (r : LaunchRec) : Nat := r.gx * r.gy * r.gz

/-- A group of a launch has ended: its block is gone, or it is no longer among the groups left of it (R163). -/
def groupEnded (s : State) (l : Launch) (bidx grp : Nat) : Bool :=
  match s.blocks.find? fun b => b.lid == l.lid && b.idx == bidx with
  | some b => !b.left.contains grp
  | none => bidx < l.next && !l.again.any (fun r => r.idx == bidx) &&
      !s.disp.sends.any fun d => d.lid == l.lid && d.blocks.any fun r => r.idx == bidx

/-- The members of a barrier that have not ended and so must arrive (R162, R163). -/
def barMembers (s : State) (g : Group) (level : Nat) : List Nat :=
  match level with
  | 0 => ((s.group? g.gid).getD g).lanesWhere fun x => x.st != .exited
  | 1 => match s.block? g.bid with
    | some b => b.left
    | none => []
  | _ => match s.launch? g.lid with
    | none => []
    | some l =>
      let d := max 1 l.lr.clusterdim
      let c := s.blockIdx g / d
      let lo := if level = 2 then c * d else 0
      let hi := if level = 2 then min ((c + 1) * d) l.lr.blocks else l.lr.blocks
      (List.range (hi - lo)).flatMap fun i =>
        (numbers l.lr.groups fun k => !groupEnded s l (lo + i) k).map fun k => 32 * (lo + i) + k

/-- Two groups share a barrier of a level. -/
def sameBar (s : State) (g h : Group) (level : Nat) : Bool :=
  match level with
  | 0 => g.gid == h.gid
  | 1 => g.bid == h.bid
  | 2 => g.lid == h.lid && (match s.launch? g.lid with
    | some l => s.blockIdx g / max 1 l.lr.clusterdim == s.blockIdx h / max 1 l.lr.clusterdim
    | none => false)
  | _ => g.lid == h.lid

/-- The last arriver of a phase (R165): the latest in time, the highest identifier among arrivals of one A-clock; in a
deterministic launch the highest identifier. `none` when it arrived by BARA. -/
def lastArriver (det : Bool) (as : List Arrival) : Option Nat :=
  let best := as.foldl (fun (b : Option Arrival) a =>
    match b with
    | none => some a
    | some c =>
      if det then (if c.member < a.member then some a else some c)
      else if c.at_ < a.at_ || (c.at_ == a.at_ && c.member < a.member) then some a else some c) none
  best.bind fun a => if a.bars then some a.member else none

/-- A completed phase counts once in the Quoin key of a group (R344). -/
def QKey.passed (k : QKey) (w : BarWait) : QKey :=
  let bar := 16 * w.level.toNat + w.num.toNat
  if w.phase < listGet 0 k.seen bar then k
  else
    let k := { k with seen := listPut k.seen bar (w.phase + 1) }
    match w.level.toNat with
    | 1 => { k with be := k.be + 1 }
    | 2 => { k with ce := k.ce + 1 }
    | 3 => { k with ge := k.ge + 1 }
    | _ => k

/-- The bytes that engine commands have counted down on a block barrier: F-path and I-path writes still on their way. -/
def SqEntry.countedOn (s : State) (g : Group) (num : Nat) (e : SqEntry) : Bool :=
  (e.path == 2 || e.path == 3) && e.lid == g.lid && e.bidx == s.blockIdx g && e.bar == some num

/-- The byte-count edge of R292 at a completed wait (R167): the counted bytes become visible to the lanes of the core, with .mx
to its matrix engine, which reads the banks. -/
def showCounted (s : State) (g : Group) (w : BarWait) : State :=
  if w.level != 1 then s
  else if w.mx then performWhere s (SqEntry.countedOn s g w.num.toNat)
  else
    { s with wp := s.wp.map fun e => if e.countedOn s g w.num.toNat then { e with vis := max e.vis 1 } else e }

/-- A completed wait of a group (R164, R165, R344): the bytes counted in the phase; the BARS predicate in every lane that has
not exited, true above group level in the last-arriving group and at group level in the last-arriving lane; the Quoin key, which
a wait of a handler leaves unchanged (R401); progress. -/
def endWait (s : State) (g : Group) (w : BarWait) : State :=
  let b := barOf s g w.level.toNat w.num.toNat
  (showCounted s g w).updGroup g.gid fun g =>
    let g := if w.bars then g.mapLanes fun i x =>
        if x.st == .exited then x
        else x.setPred w.p (b.last == some (memberOf s g w.level.toNat i))
      else g
    { g with hold := { g.hold with bar := none }, stallCnt := 0, key := if g.priv == .user then g.key.passed w else g.key }

/-- The phase a member waits on has completed. -/
def waitOver (s : State) (g : Group) (w : BarWait) : Bool := w.phase < (barOf s g w.level.toNat w.num.toNat).phase

/-- Every group that waits at a barrier whose phase is over goes on. -/
def endWaits (s : State) (g : Group) (level num : Nat) : State :=
  s.groups.foldl (fun s h =>
    match h.hold.bar with
    | some w =>
      if w.level.toNat == level && w.num.toNat == num && sameBar s g h level && waitOver s h w then endWait s h w else s
    | none => s) s

/-- The current phase of a barrier completes when every member has arrived and the counter is not positive (R163,
R166): the next phase begins and the waits end. -/
def settleBar (s : State) (g : Group) (level num : Nat) : State :=
  let b := barOf s g level num
  let here := b.arrived.map (·.member)
  if b.arrived.isEmpty || b.count > 0 || !(barMembers s g level).all here.contains then s
  else
    let s := updBar s g level num fun b =>
      { b with phase := b.phase + 1, arrived := [], last := lastArriver (s.groupTag g).isSome b.arrived }
    -- completion of a phase in which a group arrived is progress (R397)
    let moved := fun (h : Group) => sameBar s g h level && (level == 0 || here.contains (memberOf s h level 0))
    let s : State := { s with groups := s.groups.map fun h => if moved h then { h with stallCnt := 0 } else h }
    endWaits s g level num

/-- Every barrier of a level a group belongs to is checked, after members have ended. -/
def settleBars (s : State) (g : Group) (level count : Nat) : State :=
  (List.range count).foldl (fun s n => settleBar s g level n) s

/-- Arrivals in the current phase (R164). -/
def arrive (s : State) (g : Group) (level num : Nat) (members : List Nat) (bars : Bool) : State :=
  let s := updBar s g level num fun b =>
    { b with arrived := b.arrived ++ members.map (fun m => { member := m, bars := bars, at_ := s.clock }),
             arr := members.foldl (fun a m => listPut a m b.phase) b.arr }
  settleBar s g level num

/-- Bytes counted down on a block barrier (R166). -/
def countDown (s : State) (bid num n : Nat) : State :=
  let s := s.updBlock bid fun b => { b with bars := vset b.bars num (let x := vget Bar.reset b.bars num
    { x with count := x.count - n }) }
  match s.block? bid with
  | none => s
  | some b =>
    settleBar s (Group.start 0 b.core 0 b 0 0 0 0 (Vector.replicate 8 0) Debug.reset) 1 num

end Sys2Proof.Machine
end

