-- ==== Sys2Proof/Machine/Operands.lean ====
section
/-!
DEFINITION. Operand forms: sources through the modifier word's window (R35, R80), short forms as long forms (R28),
integer results (R82), bit fields (R89), the stochastic draw (R66).
-/

namespace Sys2Proof.Machine

/-- Source a, source b of the modifier word name the recruiter's window (R35). -/
def winA (m : Option Mod) : Bool := (m.map Mod.wa).getD false
def winB (m : Option Mod) : Bool := (m.map Mod.wb).getD false

/-- The window bits are illegal outside helper code, whatever the instruction reads (R35). -/
def modUse (m : Option Mod) : List Use :=
  if winA m || winB m then [{ vec := true, n := 0, len := 0, even := false, win := true, out := false }] else []

/-- The lane a source field reads. -/
def srcLane (g : Group) (win : Bool) (x : Lane) : Lane := if win then recruiter g else x

def regA (g : Group) (m : Option Mod) (x : Lane) (n : BitVec 6) : Word := (srcLane g (winA m) x).reg n.toNat
def regB (g : Group) (m : Option Mod) (x : Lane) (n : BitVec 6) : Word := (srcLane g (winB m) x).reg n.toNat
def pairA (g : Group) (m : Option Mod) (x : Lane) (n : BitVec 6) : DWord := (srcLane g (winA m) x).pair n.toNat
def pairB (g : Group) (m : Option Mod) (x : Lane) (n : BitVec 6) : DWord := (srcLane g (winB m) x).pair n.toNat

/-- The operands of a format A instruction on 32-bit registers, and of one that also reads its destination. -/
def usesA (f : AForm) : List Use :=
  modUse f.m ++ [Use.d f.d.toNat, Use.w f.a.toNat (winA f.m), Use.w f.b.toNat (winB f.m)]
def usesAcc (f : AForm) : List Use :=
  modUse f.m ++ [Use.v f.d.toNat, Use.w f.a.toNat (winA f.m), Use.w f.b.toNat (winB f.m)]

/-- The operands of a format A instruction on pairs. -/
def usesP (f : AForm) : List Use :=
  modUse f.m ++ [Use.dp f.d.toNat, Use.wp f.a.toNat (winA f.m), Use.wp f.b.toNat (winB f.m)]

/-- The operands of a format F instruction with destination and source. -/
def usesDA (f : DAForm) : List Use := modUse f.m ++ [Use.d f.d.toNat, Use.w f.a.toNat (winA f.m)]

/-- The long form a short instruction stands for (R28). -/
def longOf (f : ShortF) : AForm :=
  { m := none, g := Guard.always, d := f.d, a := f.d, b := f.s.setWidth 6 }

/-- The modifier's integer saturation (R65 step 6). -/
def satOf (m : Option Mod) : Bool := (m.map Mod.sat).getD false

/-- An exact integer result reduced to `w` bits: wrapped, or saturated to the signed range (R82). -/
def intResult (w : Nat) (sat : Bool) (e : Int) : BitVec w :=
  let lo : Int := -((2 ^ (w - 1) : Nat) : Int)
  let hi : Int := ((2 ^ (w - 1) : Nat) : Int) - 1
  BitVec.ofInt w (if sat then (if e < lo then lo else if hi < e then hi else e) else e)

/-- As `intResult` with the unsigned range (R82, IMAD .z64). -/
def natResult (w : Nat) (sat : Bool) (e : Nat) : BitVec w :=
  BitVec.ofNat w (if sat && 2 ^ w ≤ e then 2 ^ w - 1 else e)

/-- A 32-bit result of two registers (R82, R87, R88). -/
def alu (f : AForm) (op : Word → Word → Word) (s : State) : Out State :=
  perLane s (usesA f) f.g fun g _ x => x.setReg f.d.toNat (op (regA g f.m x f.a) (regB g f.m x f.b))

/-- A 32-bit result of two registers and the old destination (R82, R89). -/
def aluAcc (f : AForm) (op : Word → Word → Word → Word) (s : State) : Out State :=
  perLane s (usesAcc f) f.g fun g _ x =>
    x.setReg f.d.toNat (op (regA g f.m x f.a) (regB g f.m x f.b) (x.reg f.d.toNat))

/-- A 64-bit result of two pairs (R82). -/
def alu64 (f : AForm) (op : DWord → DWord → DWord) (s : State) : Out State :=
  perLane s (usesP f) f.g fun g _ x => x.setPair f.d.toNat (op (pairA g f.m x f.a) (pairB g f.m x f.b))

/-- A 32-bit result of one register (R83, R87, R90). -/
def unary (f : DAForm) (op : Word → Word) (s : State) : Out State :=
  perLane s (usesDA f) f.g fun g _ x => x.setReg f.d.toNat (op (regA g f.m x f.a))

/-- The comparison result of a condition code from equality and order (R85, R92): eq, ne, lt, ge. -/
def condOf (c : BitVec 2) (eq lt : Bool) : Bool :=
  match c.toNat with
  | 0 => eq
  | 1 => !eq
  | 2 => lt
  | _ => !lt

/-- The shifts of R88 by a count in bits 7:0. -/
def shiftCount (b : Word) : Nat := b.toNat % 256
def shlOp (a b : Word) : Word := if shiftCount b < 32 then a <<< shiftCount b else 0
def shrOp (a b : Word) : Word := if shiftCount b < 32 then a >>> shiftCount b else 0
def sarOp (a b : Word) : Word := a.sshiftRight (min (shiftCount b) 31)
def rotOp (a b : Word) : Word := a.rotateLeft (shiftCount b % 32)

/-- The position and length of a bit field (R89): an empty field has length 0. -/
def fieldOf (b : Word) : Nat × Nat :=
  let q := b.toNat % 256
  let m := b.toNat / 256 % 256
  if q ≥ 32 then (q, 0) else (q, min (q + m) 32 - q)

/-- BFX (R89). -/
def bfxOp (sext : Bool) (a b : Word) : Word :=
  let (q, n) := fieldOf b
  let v := (a.toNat >>> q) % 2 ^ n
  if n = 0 then 0
  else if sext && v.testBit (n - 1) then BitVec.ofNat 32 (v + (2 ^ 32 - 2 ^ n)) else BitVec.ofNat 32 v

/-- BFI (R89). -/
def bfiOp (a b d : Word) : Word :=
  let (q, n) := fieldOf b
  let mask : Word := BitVec.ofNat 32 ((2 ^ n - 1) <<< q)
  if n = 0 then d else (d &&& ~~~mask) ||| ((a <<< q) &&& mask)

/-- The number of one bits (R90). -/
def popCount (a : Word) : Nat := ((List.range 32).filter fun i => a.getLsbD i).length

/-- Leading and trailing zero bits; 32 for zero (R90). -/
def clzOp (a : Word) : Word := BitVec.ofNat 32 (32 - bitLen a.toNat)
def ctzOp (a : Word) : Word := BitVec.ofNat 32 (((List.range 32).find? fun i => a.getLsbD i).getD 32)

/-- The 16-bit draw of stochastic rounding in a thread (R66). -/
def stochDraw (s : State) (g : Group) (t col : Nat) : Nat :=
  let lane := if s.iss.helper then (g.lig.map Lig.lane).getD 0 else t
  let col := if s.iss.helper then col + 16 * (t + 1) else col
  (gen (issuerU s g 62) (BitVec.ofNat 32 (s.threadIndex g lane)) (BitVec.ofNat 32 col) (loWord (issuerU s g 63))).toNat
    % 65536

end Sys2Proof.Machine
end

