-- ==== Sys2Proof/Machine/Flags.lean ====
section
/-!
DEFINITION. The float pipeline of R65 with its flags (R63, R64, R74): rounding mode, scale, clamp, rounding and
saturation, and the flags a thread keeps.
-/

namespace Sys2Proof.Machine

/-- The rounding mode of a modifier word (R35, R63); `dflt` when it names none. -/
def modeOf (m : Option Mod) (dflt : RMode) (draw : Nat) : RMode :=
  match m with
  | none => dflt
  | some m =>
    match m.rnd.toNat with
    | 1 => .rn
    | 2 => .rz
    | 3 => .rd
    | 4 => .ru
    | 5 => .rna
    | 6 => .rs draw
    | _ => dflt

/-- The mode rounds down, which decides the sign of an exact zero sum (R91). -/
def modeDown (r : RMode) : Bool := r == .rd

/-- Sources a, b and the accumulating source after the modifier (R65 step 1). -/
def srcA (m : Option Mod) (x : FVal) : FVal := match m with
  | none => x
  | some m => modSource m.absa m.nega x
def srcB (m : Option Mod) (x : FVal) : FVal := match m with
  | none => x
  | some m => modSource m.absb m.negb x
def srcC (m : Option Mod) (x : FVal) : FVal := match m with
  | none => x
  | some m => modSource m.absc m.negc x

/-- Steps 3 to 5 of R65: scale, clamp, round with saturation; the flags of forming the value are kept. -/
def finish (fmt : Fmt) (m : Option Mod) (mode : RMode) (v : FVal × Flags) : Nat × Flags :=
  match m with
  | none => let (c, f) := roundTo fmt mode false v.1; (c, v.2 ||| f)
  | some mm =>
    let (c, f) := roundTo fmt mode mm.sat (clampVal mm.clmp (scaleVal mm.scl.toInt v.1))
    (c, v.2 ||| f)

/-- A binary32 result in a thread, with its flags (R74). -/
def Lane.putFloat (x : Lane) (d : Nat) (r : Nat × Flags) : Lane := (x.setReg d (BitVec.ofNat 32 r.1)).addFlags r.2

/-- A binary32 instruction of R91 with its operands: `op` forms the exact result from the modified sources and the accumulator. -/
def float3With (uses : List Use) (f : AForm) (op : Bool → FVal → FVal → FVal → FVal × Flags) (s : State) : Out State :=
  perLane s uses f.g fun g _ x =>
    let mode := modeOf f.m .rn 0
    let a := srcA f.m (f32 (regA g f.m x f.a))
    let b := srcB f.m (f32 (regB g f.m x f.b))
    let c := srcC f.m (f32 (x.reg f.d.toNat))
    x.putFloat f.d.toNat (finish .f32 f.m mode (op (modeDown mode) a b c))

/-- A binary32 instruction of R91 that does not read its destination, and one that does. -/
def float3 (f : AForm) := float3With (usesA f) f
def float3Acc (f : AForm) := float3With (usesAcc f) f

/-- One half of a packed binary16 instruction (R94). -/
def half (m : Option Mod) (op : Bool → FVal → FVal → FVal → FVal × Flags) (a b c : Nat) : Nat × Flags :=
  let mode := modeOf m .rn 0
  finish .f16 m mode (op (modeDown mode) (srcA m (decodeElem .f16 a)) (srcB m (decodeElem .f16 b)) (srcC m (decodeElem .f16 c)))

/-- A packed binary16 instruction (R94): each half on its own, the flags of both. -/
def packed2 (uses : List Use) (f : AForm) (op : Bool → FVal → FVal → FVal → FVal × Flags) (s : State) : Out State :=
  perLane s uses f.g fun g _ x =>
    let a := (regA g f.m x f.a).toNat
    let b := (regB g f.m x f.b).toNat
    let c := (x.reg f.d.toNat).toNat
    let lo := half f.m op (a % 2 ^ 16) (b % 2 ^ 16) (c % 2 ^ 16)
    let hi := half f.m op (a / 2 ^ 16) (b / 2 ^ 16) (c / 2 ^ 16)
    x.putFloat f.d.toNat (lo.1 + 2 ^ 16 * hi.1, lo.2 ||| hi.2)

/-- A unary float instruction (R93). -/
def float1 (f : DAForm) (fn : UnaryFn) (s : State) : Out State :=
  perLane s (usesDA f) f.g fun g _ x =>
    x.putFloat f.d.toNat (finish .f32 f.m (modeOf f.m .rn 0) (unaryVal fn (srcA f.m (f32 (regA g f.m x f.a)))))

/-- The exact results of R91. -/
def addOp (down : Bool) (a b _c : FVal) : FVal × Flags := addVal down a b
def subOp (down : Bool) (a b _c : FVal) : FVal × Flags := addVal down a b.negate
def mulOp (_down : Bool) (a b _c : FVal) : FVal × Flags := mulVal a b
def fmaOp (down : Bool) (a b c : FVal) : FVal × Flags := fmaVal down a b c
def minOp (_down : Bool) (a b _c : FVal) : FVal × Flags := minmaxVal false a b
def maxOp (_down : Bool) (a b _c : FVal) : FVal × Flags := minmaxVal true a b

end Sys2Proof.Machine
end

