-- ==== Sys2Proof/Machine/FountOps.lean ====
section
/-!
DEFINITION. Reading through the Fount: handle entries (R234, R235), the Fount cache (R321 to R323), elements and their
conversion (R235, R236).
-/

namespace Sys2Proof.Machine

/-- The fields of a handle entry (R234). -/
structure FEntry where
  base : Nat
  w : Nat
  h : Nat
  pitch : Nat
  efmt : BitVec 6
  bfmt : Nat
  ofmt : BitVec 6
  aux : Nat
deriving DecidableEq, Repr

/-- The fields of the 32 bytes. -/
def fentry (e : Nat) : FEntry :=
  { base := e % 2 ^ 64, w := e / 2 ^ 64 % 2 ^ 32, h := e / 2 ^ 96 % 2 ^ 32, pitch := e / 2 ^ 128 % 2 ^ 32,
    efmt := BitVec.ofNat 6 (e / 2 ^ 160), bfmt := e / 2 ^ 166 % 4, ofmt := BitVec.ofNat 6 (e / 2 ^ 168),
    aux := e / 2 ^ 192 }

/-- The output formats besides the element format (R235). -/
def fountOut : Fmt → Bool
  | .f32 => true
  | .bf16 => true
  | .f16 => true
  | _ => false

/-- The entry is legal under R235; its reserved bits are ignored (R5). -/
def fentryLegal (e : Nat) : Bool :=
  let f := fentry e
  match fmtOfCode f.efmt, fmtOfCode f.ofmt with
   | some ef, some of_ =>
     fmtIsFount ef &&
     (match f.bfmt with
      | 0 => f.ofmt == f.efmt || fountOut of_
      | 1 => fmtWidth ef ≥ 8 && (f.ofmt == f.efmt || fountOut of_)
      | 2 => fmtIsNarrow ef && fountOut of_
      | _ => false)
   | _, _ => false

/-- The addresses and pitch of an entry are multiples of 32 (R234). -/
def fentryAligned (e : Nat) : Bool :=
  let f := fentry e
  f.base % 32 == 0 && f.pitch % 32 == 0 && (f.bfmt == 0 || f.aux % 32 == 0)

/-- What a Fount read gives: a value, a translation that failed, poison, a link that lost it (R213, R379), or a place that has
to be waited for (R343, R405). -/
inductive FRes where
  | ok (v : Nat)
  | bad (f : XFault) (va : DWord)
  | poison (va : DWord)
  | lost (code : BitVec 8) (va : DWord)
  | held (p : Place)
deriving DecidableEq, Repr

/-- The Fount cache after a frame is used: most recent first, 16 ways in each of 256 sets (R321). -/
def fcacheUse (c : List (Nat × List Byte)) (frame : Nat) (bytes : List Byte) : List (Nat × List Byte) :=
  let rest := c.filter fun x => x.1 != frame
  let inSet := rest.filter fun x => x.1 % 256 == frame % 256
  let drop := if inSet.length ≥ 16 then inSet.getLast? else none
  (frame, bytes) :: (match drop with
    | some d => rest.filter fun x => x.1 != d.1
    | none => rest)

/-- A migration names the frame as its source or destination: the Fount cache does not hold it (R393). -/
def migratingFrame (s : State) (frame : Nat) : Bool := s.migr.any fun m => m.lines.any fun (a, b, _) => a == frame || b == frame

/-- `n` bytes of physical memory read by a Fount: through the cache of its cluster, filled from the homes, or in a
deterministic launch at the home slice under the filter (R321, R323). A read past the Fount cache takes the line of a host or
pool address into the device cache (R406). -/
def fountPhys (s : State) (g : Group) (key n : Nat) : State × Nat :=
  match s.groupTag g with
  | some t => (l3Read s (coreDie g.core) key, placeNum s (some t) (.mem key) n)
  | none =>
    let frame := key / 256
    let k := coreClu g.core
    if migratingFrame s frame then (s, placeNum s none (.mem key) n)
    else match (s.cluster k).fcache.find? fun x => x.1 == frame with
    | some (_, bs) =>
      (s.updCluster k fun c => { c with fcache := fcacheUse c.fcache frame bs }, ofLeBytes ((bs.drop (key % 256)).take n))
    | none =>
      let bs := (List.range 256).map fun i => homeByte s none (frame * 256 + i)
      let s := (List.range 4).foldl (fun s i => l3Read s (coreDie g.core) (frame * 256 + 64 * i)) (s.countEvent g.core 15 1)
      (s.updCluster k fun c => { c with fcache := fcacheUse c.fcache frame bs }, ofLeBytes ((bs.drop (key % 256)).take n))

/-- The place a Fount read has to wait for (R343, R405): a line of the frame that it fills the cache with, or, where it reads past the
cache, the bytes themselves; a hit reaches no home slice. -/
def fountWait (s : State) (g : Group) (p : Place) (n : Nat) : Option Place :=
  match p with
  | .case _ => none
  | .mem k =>
    if (s.groupTag g).isSome || migratingFrame s (k / 256) then (if waitsHome s p n false then some p else none)
    else if (s.cluster (coreClu g.core)).fcache.any fun x => x.1 == k / 256 then none
    else ((List.range 4).map fun i => Place.mem (k / 256 * 256 + 64 * i)).find? fun q => waitsHome s q 64 false

/-- `n` bytes at a virtual address read by a Fount on path F, with the translation its command keeps. -/
def fountBytes (f : Frozen) (s : State) (g : Group) (prv : Bool) (ea : DWord) (n : Nat) : State × FRes :=
  match xlateHeld f s g ea, xlateIn f s g (engineNeed false prv) ea with
  | some p, _ => (s, .held p)
  | none, .error e => (s, .bad e ea)
  | none, .ok x =>
    match fountWait s g x.place n, linkCode s x.place with
    | some p, _ => (s, .held p)
    | none, some c => (s, .lost c ea)
    | none, none =>
      if poisonedAt s x.place n then (s, .poison ea)
      else match x.place with
      | .case _ => (s, .ok (placeNum s none x.place n))
      | .mem k => let (s, v) := fountPhys s g k n; (s, .ok v)

/-- An address formed from an entry. -/
def fountAddr (a : Nat) : DWord := BitVec.ofNat 64 a

/-- A raw element of the dense layout at an element index of a run (R220, R235). -/
def fountRaw (f : Frozen) (s : State) (g : Group) (prv : Bool) (run ew i : Nat) : State × FRes :=
  if ew = 4 then
    let (s, r) := fountBytes f s g prv (fountAddr (run + i / 2)) 1
    (s, match r with
      | .ok v => .ok (v / 16 ^ (i % 2) % 16)
      | r => r)
  else fountBytes f s g prv (fountAddr (run + i * (ew / 8))) (ew / 8)

/-- The code of element (x, y) in the output format (R235, R236). -/
def fountElem (f : Frozen) (s : State) (g : Group) (prv : Bool) (e : FEntry) (x y : Nat) : State × FRes :=
  match fmtOfCode e.efmt, fmtOfCode e.ofmt with
  | some ef, some of_ =>
    let ew := fmtWidth ef
    let conv (v : Nat) : Nat := if e.ofmt = e.efmt then v else (roundTo of_ .rn false (decodeElem ef v)).1
    let nb := (e.w + 31) / 32
    if x ≥ e.w || y ≥ e.h then (s, .ok 0)
    else if e.bfmt = 1 then
      match fountBytes f s g prv (fountAddr (e.aux + 4 * (y * nb + x / 32))) 4 with
      | (s, .ok word) =>
        if word.testBit (x % 32) then
          let i := popCount (BitVec.ofNat 32 (word % 2 ^ (x % 32)))
          match fountRaw f s g prv (e.base + y * e.pitch + x / 32 * 4 * ew) ew i with
          | (s, .ok v) => (s, .ok (conv v))
          | r => r
        else (s, .ok 0)
      | r => r
    else
      match fountRaw f s g prv (e.base + y * e.pitch) ew x with
      | (s, .ok v) =>
        if e.bfmt = 2 then
          match fountBytes f s g prv (fountAddr (e.aux + y * nb + x / 32)) 1 with
          | (s, .ok c) => (s, .ok (roundTo of_ .rn false (mulVal (decodeElem ef v) (decodeElem .x8 c)).1).1)
          | r => r
        else (s, .ok (conv v))
      | r => r
  | _, _ => (s, .ok 0)

/-- A run of elements (x + j, y) packed low to high; the first failure stops it (R236, R237). -/
def fountRun (f : Frozen) (s : State) (g : Group) (prv : Bool) (e : FEntry) (w y : Nat) : Nat → Nat → State × FRes
  | _, 0 => (s, .ok 0)
  | x, n + 1 =>
    match fountElem f s g prv e x y with
    | (s, .ok v) =>
      match fountRun f s g prv e w y (x + 1) n with
      | (s, .ok t) => (s, .ok (v + 2 ^ w * t))
      | r => r
    | r => r

/-- The 32 bits a FETCH writes, or the 256 bits a FETCHC writes, from coordinates (x, y). -/
def fountFetch (f : Frozen) (s : State) (g : Group) (prv : Bool) (entry : Nat) (bits : Nat) (x y : Word) : State × FRes :=
  let e := fentry entry
  let w := ((fmtOfCode e.ofmt).map fmtWidth).getD 32
  fountRun f s g prv e w y.toNat x.toNat (bits / w)

/-- The addresses a run of elements can be read at (R235): rows, bitmap words with the slots they select, scales. -/
def fountAddrs (e : FEntry) (x y n : Nat) : List DWord :=
  let ew := ((fmtOfCode e.efmt).map fmtWidth).getD 8
  let nb := (e.w + 31) / 32
  (List.range n).flatMap fun j =>
    let x := x + j
    if x ≥ e.w || y ≥ e.h then []
    else if e.bfmt = 1 then
      fountAddr (e.aux + 4 * (y * nb + x / 32)) :: rangePages (fountAddr (e.base + y * e.pitch + x / 32 * 4 * ew)) (4 * ew)
    else fountAddr (e.base + y * e.pitch + x * ew / 8) :: (if e.bfmt = 2 then [fountAddr (e.aux + y * nb + x / 32)] else [])

/-- The same for a FETCH or FETCHC of some bits. -/
def fetchAddrs (entry bits : Nat) (x y : Word) : List DWord :=
  let e := fentry entry
  fountAddrs e x.toNat y.toNat (bits / ((fmtOfCode e.ofmt).map fmtWidth).getD 32)

/-- A FETCHC that keeps the translations of its lanes (R126). -/
def FetchC.pin (s : State) (r : FetchC) : FetchC :=
  { r with tr := r.tr.pin s (s.issuerOf r.gid r.bid r.grp r.prv) (r.lanes.flatMap fun (_, x, y, _) => fetchAddrs r.h.entry 256 x y) }

/-- Every lane of a FETCHC whose bytes have not arrived translates. -/
def fetchcTranslates (s : State) (r : FetchC) : Bool :=
  let g := s.issuerOf r.gid r.bid r.grp r.prv
  r.lanes.all fun (_, x, y, _) => match (fountFetch r.tr s g r.prv r.h.entry 256 x y).2 with
    | .bad _ _ => false
    | _ => true

end Sys2Proof.Machine
end

