-- ==== Sys2Proof/Machine/ImpressionOps.lean ====
section
/-!
DEFINITION. Impression lists (R194, R195, R350 to R355): the list of a sector, creation and the version store, sealing,
the floor, and what a lane of an impression instruction does at its sectors.
-/

namespace Sys2Proof.Machine

/-! ## Impression numbers -/

/-- m is newer than n (R194). -/
def newerImp (m n : Word) : Bool := (m - n).toNat != 0 && (m - n).toNat < 2 ^ 31

/-- The oldest retained impression's number; lists are never empty. -/
def Sector.oldest (c : Sector) : Word := (c.list.head?.map Imp.n).getD 0

/-- n is missing in a sector (R194). -/
def Sector.missing (c : Sector) (n : Word) : Bool := (n - c.oldest).toNat ≥ 2 ^ 31

def Sector.find? (c : Sector) (n : Word) : Option Imp := c.list.find? fun i => i.n == n

/-- The newest sealed impression satisfying a condition on its number; the list is in number order. -/
def Sector.newestSealed (c : Sector) (p : Word → Bool) : Option Imp := c.list.reverse.find? fun i => i.isSealed && p i.n

/-- Inserts an impression in number order. -/
def insertImp (i : Imp) : List Imp → List Imp
  | [] => [i]
  | j :: r => if newerImp i.n j.n then j :: insertImp i r else i :: j :: r

/-! ## The list of a sector -/

/-- The sector number of a translated address after redirects (R394). -/
def sectorOf (s : State) (x : Xlat) : Nat :=
  match x.place with
  | .mem k => redirect s k / 32
  | .case _ => 0

/-- The floor of a page, read once at its first impression access (R351); the leaf entry that led there is kept. -/
def pageFloor (s : State) (g : Group) (x : Xlat) : State × Word :=
  match s.galfloor.find? fun p => p.page == x.page with
  | some p =>
    (if p.entries.contains x.entry then s
     else { s with galfloor := s.galfloor.map fun q => if q.page == x.page then { q with entries := x.entry :: q.entries } else q },
     p.floor)
  | none =>
    let w := (galleyEntry s g (x.galley.getD 0)).floor
    ({ s with galfloor := { page := x.page, bits := x.bits, floor := w, entries := [x.entry], was := [] } :: s.galfloor }, w)

/-- The list of a sector: loaded at the first access with one sealed impression of the page's bytes (R194). -/
def loadSector (s : State) (g : Group) (x : Xlat) : State × Sector :=
  let n := sectorOf s x
  let (s, w) := pageFloor s g x
  match s.imps.find? fun c => c.sector == n with
  | some c => (s, c)
  | none =>
    let c : Sector :=
      { sector := n, galley := x.galley.getD 0,
        list := [{ n := w, isSealed := true, mask := 0, bytes := (List.range 32).map fun o => homeByte s none (n * 32 + o),
                   spilled := false }] }
    ({ s with imps := c :: s.imps }, c)

/-- The highest floor of a galley's FLOORVs (R421). -/
def noteFloor (s : State) (x : Xlat) (n : Word) : State :=
  match x.galley with
  | none => s
  | some k =>
    match s.floors.find? fun f => f.1 == k with
    | some (_, w) => if newerImp n w then { s with floors := listPut s.floors k n } else s
    | none => { s with floors := listPut s.floors k n }

/-- Replaces the list of a sector. -/
def putSector (s : State) (c : Sector) : State :=
  { s with imps := s.imps.map fun d => if d.sector == c.sector then c else d }

/-! ## The version store (R350 to R352) -/

/-- The physical address of a galley table entry. -/
def galleyAddr (s : State) (g : Group) (k : Nat) : Nat := (s.ctx g.ctx).galtab.toNat / 4096 * 4096 + 32 * k

/-- Version-store entries in use. -/
def galleyUsed (s : State) (a : Nat) : Nat := listGet 0 s.galUsed a

/-- Sets the used count and writes it to the table entry (R351). -/
def setUsed (s : State) (a n : Nat) : State :=
  deviceWrite { s with galUsed := listPut s.galUsed a n } (a + 20) (leBytes 4 n)

/-- The impressions of a list kept at the slice. -/
def Sector.kept (c : Sector) : Nat := (c.list.filter fun i => !i.spilled).length

/-- Moves the oldest kept impression other than `n` to the version store (R350). -/
def spillOldest (s : State) (g : Group) (c : Sector) (n : Word) : State × Sector :=
  let a := galleyAddr s g c.galley
  let e := galleyEntry s g c.galley
  match c.list.find? fun i => !i.spilled && i.n != n with
  | none => (s, c)
  | some o =>
    let used := galleyUsed s a
    let (s, bs) := privateBytes s 64
    let s := setUsed (deviceWrite s (e.spill + 64 * used) bs) a (used + 1)
    (s, { c with list := c.list.map fun i => if i.n == o.n then { i with spilled := true } else i })

/-- Creating one more impression needs room in the version store that is not there (R352). -/
def storeFull (s : State) (g : Group) (c : Sector) : Bool :=
  c.kept ≥ 8 && galleyUsed s (galleyAddr s g c.galley) ≥ (galleyEntry s g c.galley).cap

/-- Brings a moved impression back when an instruction names it, or creates an absent one, with room made. -/
def nameImp (s : State) (g : Group) (c : Sector) (n : Word) (create : Bool) : State × Sector :=
  match c.find? n with
  | some i =>
    if i.spilled then
      let a := galleyAddr s g c.galley
      let s := setUsed s a (galleyUsed s a - 1)
      let c : Sector := { c with list := c.list.map fun i => if i.n == n then { i with spilled := false } else i }
      if c.kept > 8 then spillOldest s g c n else (s, c)
    else (s, c)
  | none =>
    if create then
      let (s, c) := if c.kept ≥ 8 then spillOldest s g c n else (s, c)
      (s, { c with list := insertImp { n := n, isSealed := false, mask := 0, bytes := List.replicate 32 0, spilled := false } c.list })
    else (s, c)

/-- An instruction that names a moved impression brings it back (R350). -/
def bringBack (s : State) (g : Group) (c : Sector) (n : Word) : State :=
  if (c.find? n).any Imp.spilled then (let (s, c) := nameImp s g c n false; putSector s c) else s

/-! ## The effects at one sector (R195) -/

/-- The fault an STV meets at a sector: missing, sealed, or no room (R195, R352). -/
def stvFault (s : State) (g : Group) (c : Sector) (n : Word) : Option Nat :=
  if c.missing n then some 0x0A
  else match c.find? n with
    | some i => if i.isSealed then some 0x0B else none
    | none => if storeFull s g c then some 0x07 else none

/-- The fault a SEALV meets at a sector. -/
def sealFault (s : State) (g : Group) (c : Sector) (n : Word) : Option Nat :=
  if c.missing n then some 0x0A
  else if (c.find? n).isNone && storeFull s g c then some 0x07
  else none

/-- Bytes written into an impression, with the mask of written bytes. -/
def Imp.write (i : Imp) (bs : List (Nat × Byte)) : Imp :=
  bs.foldl (fun i (o, b) => { i with bytes := i.bytes.set o b, mask := i.mask ||| (1 <<< o) }) i

/-- STV at one sector. -/
def stvSector (s : State) (g : Group) (x : Xlat) (n : Word) (bs : List (Nat × Byte)) : State :=
  let (s, c) := loadSector s g x
  let (s, c) := nameImp s g c n true
  putSector s { c with list := c.list.map fun i => if i.n == n then i.write bs else i }

/-- The bytes an unsealed impression gets from the newest sealed one older than it (R195). -/
def Imp.inherit (i : Imp) (from_ : Option Imp) : Imp :=
  { i with isSealed := true,
           bytes := (List.range 32).map fun o =>
             if i.mask.getLsbD o then i.bytes.getD o 0 else ((from_.map Imp.bytes).getD []).getD o 0 }

/-- SEALV at one sector (R353). -/
def sealSector (s : State) (g : Group) (x : Xlat) (n : Word) : State :=
  let (s, c) := loadSector s g x
  match c.find? n with
  | some i =>
    if i.isSealed then bringBack s g c n
    else
      let (s, c) := nameImp s g c n true
      let src := c.newestSealed fun m => newerImp n m
      putSector s { c with list := c.list.map fun i => if i.n == n then i.inherit src else i }
  | none =>
    let (s, c) := nameImp s g c n true
    let src := c.newestSealed fun m => newerImp n m
    putSector s { c with list := c.list.map fun i => if i.n == n then i.inherit src else i }

/-- FLOORV at one sector (R195, R354): spilled impressions that go leave the version store. -/
def floorSector (s : State) (g : Group) (x : Xlat) (f : Word) : State :=
  let (s, c) := loadSector s g x
  let s := bringBack s g c f
  let c := (loadSector s g x).2
  match c.newestSealed fun m => !newerImp m f with
  | none => s
  | some m =>
    let gone := c.list.filter fun i => newerImp m.n i.n
    let k := (gone.filter (·.spilled)).length
    let a := galleyAddr s g c.galley
    let s := if k = 0 then s else setUsed s a (galleyUsed s a - k)
    putSector s { c with list := c.list.filter fun i => !newerImp m.n i.n }

/-- What an LDV finds at a sector: missing, the sealed bytes of its access, or nothing yet. -/
inductive LdvAns where
  | missing
  | val (v : Nat)
  | waits
deriving DecidableEq, Repr

/-- LDV at one sector: `n` bytes at an offset. -/
def ldvAt (c : Sector) (n : Word) (off size : Nat) : LdvAns :=
  if c.missing n then .missing
  else match c.find? n with
    | some i => if i.isSealed then .val (ofLeBytes ((i.bytes.drop off).take size)) else .waits
    | none => .waits

/-- VPROBE at one sector (R195): the two words. -/
def probeSector (c : Sector) (n : Word) : Word × Word :=
  let i := c.find? n
  let w := bit i.isSome + 2 * bit ((i.map Imp.isSealed).getD false) + 4 * bit (c.missing n) +
    8 * bit ((i.map Imp.spilled).getD false)
  (BitVec.ofNat 32 w, ((c.newestSealed fun _ => true).map Imp.n).getD 0)

/-- The sector addresses of a range. -/
def rangeSectors (ea : DWord) (len : Nat) : List DWord := (List.range (len / 32)).map fun i => ea + BitVec.ofNat 64 (32 * i)

end Sys2Proof.Machine
end

