-- ==== Sys2Proof/Machine/MemEngine.lean ====
section
/-!
DEFINITION. Memory instructions as one unit: their checks in the order of R173, watchpoints (R427), translation and the
operand log (R386 to R390), the Quoin of a deterministic ATOM or RED (R153), and what each kind performs (R144 to R153,
R195, R236). The control of the Case banks is in Case.lean.
-/

namespace Sys2Proof.Machine

/-! ## Addresses of an instruction -/

/-- The Case view access of an address is to a bank in scratchpad mode (R141). -/
def scratchAt (s : State) (clu bank : Nat) : Bool := (s.bank clu bank).mode == .scratch

/-- The addresses of one thread that are checked. -/
def MemOp.addrs (m : MemOp) (t : MemThread) : List DWord :=
  match m.kind with
  | .sealv => rangePages t.ea t.data.toNat
  | .floorv => rangePages t.ea t.data.toNat
  | .fetch => []
  | _ => [t.ea]

/-- What an instruction needs of its pages (R383). -/
def MemOp.need (m : MemOp) (prv : Bool) : Need :=
  let n (r w g : Bool) : Need := { r := r, w := w, x := false, galley := g, priv := prv }
  match m.kind with
  | .ld _ => n true false false
  | .st => n false true false
  | .atom _ _ => n true true false
  | .red _ _ => n false true false
  | .ldv => n true false true
  | .vprobe => n true false true
  | .stv => n false true true
  | .sealv => n false true true
  | .floorv => n false true true
  | .cwb => n true false false
  | .cinv => n true false false
  | .fetch => n true false false

/-- The address lies on a galley page, where CWB and CINV have no effect (R158). -/
def onGalley (f : Frozen) (s : State) (g : Group) (ea : DWord) : Bool :=
  match classifyIn f s g ea with
  | .paged => (match leafFor f s g ea with
    | .ok l => l.galley.isSome
    | .error _ => false)
  | _ => false

/-- Translates an address of an instruction, with the translation it keeps. -/
def MemOp.xlate (s : State) (g : Group) (m : MemOp) (ea : DWord) : Except XFault Xlat :=
  xlateIn m.tr s g (m.need (g.priv != .user)) ea

/-- The coordinates of a FETCH thread. -/
def MemThread.coords (t : MemThread) : Word × Word := (loWord t.data, hiWord t.data)

/-- A thread's first failure of a class, with its address (R173 rows 7 and 8). -/
def MemOp.threadFault (s : State) (g : Group) (m : MemOp) (f : XFault) (t : MemThread) : Option (Nat × DWord) :=
  match m.kind with
  | .fetch =>
    (match (fountFetch m.tr s g (g.priv != .user) m.handle 32 t.coords.1 t.coords.2).2 with
     | .bad e a => if e == f then some (t.t, a) else none
     | _ => none)
  | _ =>
    (m.addrs t).findSome? fun a =>
      if (m.kind == .cwb || m.kind == .cinv) && onGalley m.tr s g a then none
      else match m.xlate s g a with
        | .error e => if e == f then some (t.t, a) else none
        | .ok _ => none

/-- The threads that fail translation, or a page's attributes. -/
def MemOp.failing (s : State) (g : Group) (m : MemOp) (f : XFault) : List (Nat × DWord) :=
  m.threads.filterMap (m.threadFault s g f)

/-- The threads that fail a page's attributes when the instruction is checked; a FETCH fails at the first reader of its
destination (R212). -/
def MemOp.denied (s : State) (g : Group) (m : MemOp) : List (Nat × DWord) :=
  if m.kind = .fetch then [] else m.failing s g .protection

/-- The instruction without some threads. -/
def MemOp.without (m : MemOp) (ts : List Nat) : MemOp := { m with threads := m.threads.filter fun t => !ts.contains t.t }

/-- A thread of an instruction in flight. -/
def MemOp.lane (m : MemOp) (g : Group) (t : Nat) : Lane :=
  if m.helper then
    match g.lig with
    | some l => (l.helpers[t]?.map Helper.lane).getD (Lane.reset 0)
    | none => Lane.reset 0
  else g.lane t

/-! ## Rows 1 to 6 of R173 and watchpoints -/

/-- A fault of some threads of an instruction; misuse of a transaction or a ligature is no write access (R375). -/
def MemOp.fault (s : State) (m : MemOp) (cls : Nat) (vas : List (Nat × DWord)) : Raise :=
  { faultOf s cls (vas.map (·.1)) vas with
    addr := m.pc, len := m.len, recPc := m.pc, helperPc := m.pc, write := isWrite m.kind && cls != 0x0C && cls != 0x0F, seq := BitVec.ofNat 32 m.seq,
    helper := if m.helper then vas.head?.map (·.1) else none }

/-- The Case window access is logged nowhere (R170). -/
def isCaseAddr (s : State) (g : Group) (ea : DWord) : Bool :=
  match classify s g ea with
  | .caseAt _ _ _ _ => true
  | _ => 0x01FFFFFFFF000000 ≤ ea.toNat && ea.toNat < 2 ^ 57

/-- Row 1 without the home check: Case accesses and cache control of logging lanes (R170). -/
def rowTx (s : State) (g : Group) (m : MemOp) : List (Nat × DWord) :=
  (m.threads.filter fun t => (m.lane g t.t).tx.logging && (match m.kind with
    | .ld _ => isCaseAddr s g t.ea
    | .st => isCaseAddr s g t.ea
    | .atom _ _ => isCaseAddr s g t.ea
    | .red _ _ => isCaseAddr s g t.ea
    | .cwb => true
    | .cinv => true
    | _ => false)).map fun t => (t.t, t.ea)

/-- Row 5: alignment (R142, R195). -/
def rowAlign (m : MemOp) : List (Nat × DWord) :=
  (m.threads.filter fun t => match m.kind with
    | .sealv => t.ea.toNat % 32 != 0 || t.data.toNat % 32 != 0 || t.data.toNat > 1048576
    | .floorv => t.ea.toNat % 32 != 0 || t.data.toNat % 32 != 0 || t.data.toNat > 1048576
    | .cwb => false
    | .cinv => false
    | .vprobe => false
    | .fetch => false
    | _ => t.ea.toNat % m.size != 0).map fun t => (t.t, t.ea)

/-- Row 6: address class, Case view and bank mode (R139 to R141). -/
def rowClass (s : State) (g : Group) (m : MemOp) : List (Nat × DWord) :=
  m.threads.filterMap fun t => (m.addrs t).findSome? fun a =>
    match classify s g a with
    | .bad => some (t.t, a)
    | .caseAt c k _ _ => if scratchAt s c k then none else some (t.t, a)
    | _ => none

/-- The bytes of an access that a comparator sees (R427). -/
def MemOp.watched (m : MemOp) (t : MemThread) : Nat :=
  match m.kind with
  | .sealv => t.data.toNat
  | .floorv => t.data.toNat
  | .vprobe => 1
  | _ => m.size

/-- A comparator matches reads or writes of a kind (R427): whether it matches, and as a write. -/
def watchKind (k : MemKind) (rd wr : Bool) : Option Bool :=
  match k with
  | .ld _ => if rd then some false else none
  | .ldv => if rd then some false else none
  | .vprobe => if rd then some false else none
  | .atom _ _ => if wr then some true else if rd then some false else none
  | .st => if wr then some true else none
  | .red _ _ => if wr then some true else none
  | .stv => if wr then some true else none
  | .sealv => if wr then some true else none
  | .floorv => if wr then some true else none
  | _ => none

/-- The lowest watchpoint comparator that matches some thread without an open transaction (R427, R428). -/
def watchMatch (g : Group) (m : MemOp) : Option (Nat × Bool × List (Nat × DWord)) :=
  if g.dbg.skip then none
  else (List.range 4).findSome? fun n =>
    let c := vget 0 g.dbg.wpc n
    let e := (c.extractLsb' 0 5).toNat
    let a := (vget 0 g.dbg.wpa n).toNat
    if e < 2 || e > 20 || a % 2 ^ e != 0 then none
    else
      match watchKind m.kind (c.getLsbD 8) (c.getLsbD 9) with
      | none => none
      | some wr =>
        let hit := m.threads.filter fun t =>
          !(m.lane g t.t).tx.isOpen && m.watched t != 0 && t.ea.toNat < a + 2 ^ e && a < t.ea.toNat + m.watched t
        if hit.isEmpty then none else some (n, wr, hit.map fun t => (t.t, t.ea))

/-- The first fault of rows 1 to 6 and of the watchpoints. -/
def earlyFault (s : State) (g : Group) (m : MemOp) : Option Raise :=
  let det := (s.groupTag g).isSome
  let all := m.threads.map fun t => (t.t, t.ea)
  let lig := m.helper && det && (match m.kind with
    | .atom _ _ => true
    | .red _ _ => true
    | _ => false)
  if !(rowTx s g m).isEmpty then some (m.fault s 0x0C (rowTx s g m))
  else if lig then some (m.fault s 0x0F all)
  else if !(rowAlign m).isEmpty then some (m.fault s 0x08 (rowAlign m))
  else if !(rowClass s g m).isEmpty then some (m.fault s 0x07 (rowClass s g m))
  else match watchMatch g m with
    | some (n, wr, hit) => some { m.fault s 0x10 hit with code := BitVec.ofNat 8 (0x50 + n), write := wr }
    | none => none

/-- The galley of a failing address, for sys.tinfo (R375). -/
def galleyInfo (s : State) (g : Group) (f : Frozen) (vas : List (Nat × DWord)) : DWord :=
  match vas with
  | (_, a) :: _ => (match classifyIn f s g a with
    | .paged => (match leafFor f s g a with
      | .ok l => BitVec.ofNat 64 ((l.galley.getD 0) * 256)
      | .error _ => 0)
    | _ => 0)
  | [] => 0

/-- Row 1's home check (R182): logging lanes on pages outside this device's HBM. -/
def rowHome (s : State) (g : Group) (m : MemOp) : List (Nat × DWord) :=
  (m.threads.filter fun t => (m.lane g t.t).tx.logging && (match m.kind with
    | .ld _ => true
    | .st => true
    | .atom _ _ => true
    | .red _ _ => true
    | _ => false) && (match m.xlate s g t.ea with
    | .ok x => x.home != 0
    | .error _ => false)).map fun t => (t.t, t.ea)

/-! ## What performing answers -/

/-- What performing an instruction answers: the state; the lanes that failed, by class; or a wait, with what it has
asked of the host and the stall reason. -/
inductive Perf where
  | done (s : State) (fails : List (Nat × Nat × DWord))
  | wait (s : State) (reason : Nat)

/-- A thread with its place. -/
structure Placed where
  th : MemThread
  x : Xlat
deriving DecidableEq, Repr

/-- The threads with the places of their addresses. -/
def MemOp.placed (s : State) (g : Group) (m : MemOp) : List Placed :=
  m.threads.filterMap fun t => match m.xlate s g t.ea with
    | .ok x => some { th := t, x := x }
    | .error _ => none

/-- A ligature's copy of its recruiter's registers takes a value that was on its way when LIGA issued (R80). -/
def Lig.arrive (l : Lig) (x : Lane) (t : Nat) (f : Lane → Lane) : Lig :=
  if l.lane = t then { l with regs := (f { x with v := l.regs }).v } else l

/-- A value reaches the lane or helper of a thread. -/
def setThread (s : State) (gid : Nat) (helper : Bool) (t : Nat) (f : Lane → Lane) : State :=
  s.updGroup gid fun g =>
    let h := g.mapThreads helper [t] fun _ x => f x
    if helper then h else { h with lig := h.lig.map fun l => l.arrive (g.lane t) t f }

/-- The place of a thread that has to wait at its home (R343, R405). -/
def hostWait (s : State) (ps : List Placed) (n : Nat) (wr : Bool) : Option Place :=
  (ps.find? fun p => waitsHome s p.x.place n wr).map (·.x.place)

/-- A write performed at its home needs room in the spill area that is not there (R400). -/
def spillWait (s : State) (g : Group) (ps : List Placed) (n : Nat) : Bool :=
  ps.any fun p => spillFull s (s.groupTag g) p.x.place n

/-- A table entry of a translation of an instruction that waits (R343, R405). -/
def MemOp.held (s : State) (g : Group) (m : MemOp) : Option Place :=
  m.threads.findSome? fun t => (m.addrs t).findSome? (xlateHeld m.tr s g)

/-- The thread's access is performed: one of a logging lane whose words are all in its read set is not (R339). -/
def Placed.performs (g : Group) (m : MemOp) (p : Placed) : Bool :=
  let t := (m.lane g p.th.t).tx
  !t.logging || !(newReads t (match p.x.place with
    | .mem k => k
    | .case k => k) m.size).isEmpty

/-- The lanes that log, and whether the log words they enter anew find no room (R338, R400). -/
def logWait (s : State) (g : Group) (m : MemOp) (ps : List Placed) (rd wr : Bool) : Bool :=
  logFull s g ((ps.filter fun p => (m.lane g p.th.t).tx.logging).foldl (fun n p =>
    let t := (m.lane g p.th.t).tx
    match p.x.place with
    | .mem k => n + (if rd then (newReads t k m.size).length else 0) + (if wr then newWords t k m.size true else 0)
    | .case _ => n) 0)

/-- A value reaches the destination, or waits as an outstanding load (R144). -/
def deliver (s : State) (gid : Nat) (m : MemOp) (pair : Bool) (vals : List LoadVal) : State :=
  if s.defer.load && !vals.isEmpty then
    s.updGroup gid fun g => { g with fl := { g.fl with loads := g.fl.loads ++
      [{ helper := m.helper, dst := m.dst, pair := pair, vals := vals, pc := m.pc, len := m.len, bad := [],
         cls := 0, seq := 0 }] } }
  else
    vals.foldl (fun s v => setThread s gid m.helper v.t fun x =>
      if pair then x.setPair m.dst v.val else x.setReg m.dst (loWord v.val)) s

/-- An access that takes a set over its limit ends the transaction, or the iteration by an ordered rerun (R182, R192). -/
def overLimit (s : State) (gid l reason : Nat) : State :=
  match s.group? gid with
  | none => s
  | some g =>
    if (g.lane l).tx.isOpen then abortTx s g l reason else squashLane s gid l reason true

/-- The slice a mark lies in; the words of one read lie in one frame. -/
def Mark.slice (k : Mark) : Nat := homeSlice (k.words.headD 0)

/-- Enters the read mark of a speculative lane's logged read, while the slice has room (R338, R348). -/
def enterMarks (s : State) (gid l : Nat) (t : Tx) (ws : List Nat) : State :=
  if !t.speculative || ws.isEmpty then s
  else
    let k : Mark := { words := ws, domain := t.domain, iter := t.iter, gid := gid, lane := l }
    if (s.marks.filter fun m => m.slice == k.slice).length ≥ 4096 then s else { s with marks := s.marks ++ [k] }

/-- Sets a lane's log unless it is over its limit; the answer says whether the access happened. -/
def putLog (s : State) (gid l : Nat) (old new : Tx) : State × Bool :=
  match limitOf new with
  | some r => (overLimit s gid l r, false)
  | none =>
    let s := enterMarks s gid l new ((new.reads.drop old.reads.length).map (·.word))
    (s.updLane gid l fun x => { x with tx := new }, true)

/-- The physical address of a logged access. -/
def placeKey : Place → Nat
  | .mem k => k
  | .case k => k

/-- One logged load of a lane (R182, R339). -/
def loggedLoad (s : State) (g : Group) (l : Nat) (p : Placed) (n : Nat) : State × Option Nat :=
  let pa := placeKey p.x.place
  let t := ((s.group? g.gid).getD g).lane l |>.tx
  let s := recallWords s (newReads t pa n)
  let (v, t') := logReadN s (s.groupTag g) t pa n
  let (s, ok) := putLog s g.gid l t t'
  (s, if ok then some v else none)

/-- The value of a loaded number in a 32-bit register (R144). -/
def extend (sext : Bool) (n v : Nat) : DWord :=
  if sext && n < 4 && v.testBit (8 * n - 1) then BitVec.ofNat 64 (2 ^ 32 - 2 ^ (8 * n) + v) else BitVec.ofNat 64 v

/-- The device cache takes the line of a host or pool read (R406). -/
def touchLine (s : State) (g : Group) (p : Place) : State :=
  match p with
  | .mem k => l3Read s (coreDie g.core) k
  | .case _ => s

/-- Lanes whose peer is unreachable perform nothing and are reported (R410, R411); the others go on. -/
def loseLanes (s : State) (g : Group) (m : MemOp) (ps : List Placed) : State × List Placed :=
  let (lost, ok) := ps.partition fun p => linkCode s p.x.place == some 2
  (lost.foldl (fun s p => asyncError s g.lid 2 m.pc 0 p.th.ea (s.blockIdx g) g.core g.grp) s, ok)

/-- A store past a write point that the logged reads of some threads recall and that has to wait (R339, R343, R405). -/
def recallWait (s : State) (g : Group) (m : MemOp) (ps : List Placed) : Option Place :=
  recallBlocked s (ps.flatMap fun p => newReads (m.lane g p.th.t).tx (placeKey p.x.place) m.size)

/-- LD (R144): poison in any lane stops it before any effect (R173). -/
def performLd (s : State) (g : Group) (m : MemOp) (sext : Bool) : Perf :=
  let ps := m.placed s g
  let (log, direct) := ps.partition fun p => (m.lane g p.th.t).tx.logging
  match hostWait s (ps.filter (·.performs g m)) m.size false, recallWait s g m log with
  | some p, _ => .wait (askHost s p m.size false) 3
  | none, some p => .wait (askHost s p 4 true) 3
  | none, none =>
    if direct.any fun p => redPending s g.gid p.x.place m.size then .wait s 3
    else if logWait s g m ps true false then .wait s 12
    else
      let bad := ps.filter fun p => p.performs g m && poisonedAt s p.x.place m.size
      if !bad.isEmpty then .done s (bad.map fun p => (p.th.t, 0x09, p.th.ea))
      else
        let (s, ps) := loseLanes s g m ps
        let s0 := ps.foldl (fun s p => touchLine s g p.x.place) s
        let (s, vals) := ps.foldl (fun (s, vals) p =>
          if (m.lane g p.th.t).tx.logging then
            match loggedLoad s g p.th.t p m.size with
            | (s, some v) => (s, vals ++ [{ t := p.th.t, val := extend sext m.size v }])
            | (s, none) => (s, vals)
          else
            (s, vals ++ [{ t := p.th.t, val := extend sext m.size (loadNum s g (s.groupTag g) p.x.place m.size) }]))
          (s0, ([] : List LoadVal))
        .done (deliver s g.gid m (m.size = 8) vals) []

/-- The bytes of a store's lanes by key, a higher lane's byte over a lower one's (R145). -/
def storeBytes (ps : List Placed) (n : Nat) (sel : Place → Option Nat) : List (Nat × Byte) :=
  ps.foldl (fun acc p =>
    match sel p.x.place with
    | none => acc
    | some k => (numBytes n p.th.data.toNat).foldl (fun acc (o, b) => listPut acc (k + o) b) acc) []

def memKey : Place → Option Nat
  | .mem k => some k
  | .case _ => none

def caseKeyOf : Place → Option Nat
  | .mem _ => none
  | .case k => some k

/-- A queue entry of a group, for an access at `va`. -/
def queueEntry (s : State) (g : Group) (m : MemOp) (p : Place) (k : WriteKind) (sync rel : Bool) (scope : BitVec 3) (va : DWord) :
    State :=
  { s with nextId := s.nextId + 1,
           sq := s.sq ++ [{ id := s.nextId, gid := g.gid, core := g.core, lid := g.lid, bidx := s.blockIdx g, place := p,
                            path := lanePath p, kind := k, sync := sync, rel := rel, scope := scope, grp := g.grp, vis := 0,
                            heldBack := false, pc := m.pc, seq := 0, va := va, bar := none }] }

/-- The group's store queue is full (R146); its capacity, which the manual does not give, is that of `Defer.queue` (log 50). -/
def queueFull (s : State) (gid : Nat) : Bool :=
  match s.defer.queue with
  | some n => let k := (s.sq.filter fun e => e.gid == gid).length; k != 0 && n ≤ k
  | none => false

/-- The scope of a Case access (R141). -/
def scopeAt (p : Place) (scope : BitVec 3) : BitVec 3 :=
  match p with
  | .case _ => if scope.toNat > 2 then 2 else scope
  | .mem _ => scope

/-- The effective address of the first thread that stores into a sector. -/
def sectorEa (ps : List Placed) (sel : Place → Option Nat) (q : Nat) : DWord :=
  ((ps.find? fun p => (sel p.x.place).any fun k => k / 32 == q / 32).map fun p => p.th.ea).getD 0

/-- ST (R145, R146): one queue entry for each 32-byte sector; a full store queue is waited for. -/
def performSt (s : State) (g : Group) (m : MemOp) : Perf :=
  let ps := m.placed s g
  let (log, direct) := ps.partition fun p => (m.lane g p.th.t).tx.logging
  if !direct.isEmpty && queueFull s g.gid then .wait s 4
  else if logWait s g m ps false true then .wait s 12
  else
    let s := log.foldl (fun s p =>
      let t := ((s.group? g.gid).getD g).lane p.th.t |>.tx
      (putLog s g.gid p.th.t t (logWriteN t (placeKey p.x.place) m.size p.th.data.toNat p.th.ea)).1) s
    let sync := m.order != 0
    let push (mk : Nat → Place) (sel : Place → Option Nat) (s : State) (q : Nat × List (Nat × Byte)) : State :=
      queueEntry s g m (mk q.1) (.store q.2) sync (m.order == 2) (scopeAt (mk q.1) m.scope) (sectorEa direct sel q.1)
    let s := (bySector (storeBytes direct m.size memKey)).foldl (push .mem memKey) s
    .done ((bySector (storeBytes direct m.size caseKeyOf)).foldl (push .case caseKeyOf) s) []

/-- The order of an ATOM or RED releases (R148). -/
def releases (order : BitVec 2) : Bool := order.getLsbD 1

/-- The scope of an ATOM or RED: plain acts as .rlx at .dev (R148). -/
def atomScope (m : MemOp) : BitVec 3 := if m.order = 0 then 3 else m.scope

/-- An ATOM takes its line to M also where it writes nothing (R293, R406). -/
def ownLine (s : State) (g : Group) (by_ : Writer) (p : Place) : State :=
  match p with
  | .mem k => l3Write s (coreDie g.core) (some by_) k
  | .case _ => s

/-- The scope at which an ATOM or RED releases on path X, or else on path L (R141, R148): that of the places of its lanes on the
path that are performed directly; an order qualifier on a logged access has no effect (R170). -/
def atomReach (g : Group) (m : MemOp) (ps : List Placed) (x : Bool) : Nat :=
  if releases m.order then
    (ps.filter fun p => !(m.lane g p.th.t).tx.logging && (lanePath p.x.place == 4) == x).foldl
      (fun n p => max n (scopeAt p.x.place (atomScope m)).toNat) 0
  else 0

/-- The releases of an ATOM (R148, R289): on each path its lanes take. -/
def atomRelease (s : State) (g : Group) (m : MemOp) (ps : List Placed) : State :=
  let on (x : Bool) (s : State) : State := showWhere s (atomReach g m ps x) fun e => e.shownOn g.gid g.core x
  on true (on false s)

/-- The stall reason of an ATOM or RED that waits for a write it flushes: 4 for a release (R431). -/
def atomReason (s : State) (m : MemOp) (e : SqEntry) : Nat := if releases m.order then 4 else flushReason s e

/-- One lane's ATOM performed directly (R150, R151): the old value. -/
def atomLane (s : State) (g : Group) (m : MemOp) (op : BitVec 4) (u : Bool) (p : Placed) : State × Nat :=
  let tag := s.groupTag g
  let s := performWhere s fun e => (List.range m.size).any fun o => e.covers (p.x.place.plus o)
  let old := placeNum s tag p.x.place m.size
  let (v, w) := atomOp op.toNat u m.size old (p.th.data.toNat % 2 ^ (8 * m.size)) (p.th.cmp.toNat % 2 ^ (8 * m.size))
  let by_ := s.writerOf g m.pc 0 p.th.ea
  (if w then (writeHome s tag (coreDie g.core) (some by_) p.x.place (numBytes m.size v)).updGroup g.gid
      (fun g => { g with stallCnt := 0 }) else ownLine s g by_ p.x.place, old)

/-- One lane's ATOM inside a transaction or iteration (R170, R340); a CAS that does not write still counts in the write
set. -/
def atomLogged (s : State) (g : Group) (m : MemOp) (op : BitVec 4) (u : Bool) (p : Placed) : State × Option Nat :=
  let pa := placeKey p.x.place
  let t := ((s.group? g.gid).getD g).lane p.th.t |>.tx
  let s := recallWords s (newReads t pa m.size)
  let (old, t') := logReadN s (s.groupTag g) t pa m.size
  let (v, w) := atomOp op.toNat u m.size old (p.th.data.toNat % 2 ^ (8 * m.size)) (p.th.cmp.toNat % 2 ^ (8 * m.size))
  let t'' := if w then logWriteN t' pa m.size v p.th.ea else (wordsOf pa m.size).foldl (fun t w => logWrite t w p.th.ea []) t'
  let (s, ok) := putLog s g.gid p.th.t t t''
  (s, if ok then some old else none)

/-- ATOM (R151): lanes in ascending order; poisoned lanes perform nothing and fail (R173). The order in which its different
addresses are performed is open: the model performs all lanes in one step (log 64). -/
def performAtom (s : State) (g : Group) (m : MemOp) (op : BitVec 4) (u : Bool) : Perf :=
  let ps := m.placed s g
  let (log, direct) := ps.partition fun p => (m.lane g p.th.t).tx.logging
  match hostWait s direct m.size true, hostWait s (log.filter (·.performs g m)) m.size false with
  | some p, _ => .wait (askHost s p m.size true) 3
  | none, some p => .wait (askHost s p m.size false) 3
  | none, none =>
    match flushBlocked s g.gid g.core (atomReach g m ps), recallWait s g m log with
    | some e, _ => .wait (askHost s e.place 32 true) (atomReason s m e)
    | none, some p => .wait (askHost s p 4 true) 3
    | none, none =>
      if spillWait s g direct m.size || logWait s g m ps true true then .wait s 12
      else
      let (bad, ok) := ps.partition fun p => p.performs g m && poisonedAt s p.x.place m.size
      let (s, ok) := loseLanes (drainQueue s g.gid) g m ok
      let s := atomRelease s g m ok
      let (s, vals) := ok.foldl (fun (s, vals) p =>
        if (m.lane g p.th.t).tx.logging then
          match atomLogged s g m op u p with
          | (s, some v) => (s, vals ++ [{ t := p.th.t, val := BitVec.ofNat 64 v }])
          | (s, none) => (s, vals)
        else
          let (s, v) := atomLane s g m op u p
          (s, vals ++ [{ t := p.th.t, val := BitVec.ofNat 64 v }])) (s, ([] : List LoadVal))
      .done (deliver s g.gid m (m.size = 8) vals) (bad.map fun p => (p.th.t, 0x09, p.th.ea))

/-- RED (R152): one queue entry for each lane; logged in a transaction (R170). With `now` the reductions are applied at
once, under the Quoin of a deterministic launch (R153). -/
def performRed (s : State) (g : Group) (m : MemOp) (op : BitVec 4) (u now : Bool) : Perf :=
  let ps := m.placed s g
  let (log, direct) := ps.partition fun p => (m.lane g p.th.t).tx.logging
  match (if now then flushBlocked s g.gid g.core (atomReach g m ps) else none), (if now then hostWait s direct m.size true else none) with
  | some e, _ => .wait (askHost s e.place 32 true) (atomReason s m e)
  | none, some p => .wait (askHost s p m.size true) 4
  | none, none =>
    if now && spillWait s g direct m.size || logWait s g m ps false true then .wait s 12
    else
    let s := log.foldl (fun s p =>
      let t := ((s.group? g.gid).getD g).lane p.th.t |>.tx
      (putLog s g.gid p.th.t t (logOp t { pa := placeKey p.x.place, size := m.size, red := some (op, u),
                                          x := p.th.data.toNat % 2 ^ (8 * m.size), va := p.th.ea })).1) s
    let s := direct.foldl (fun s p =>
      queueEntry s g m p.x.place (.red op u m.size p.th.data) true (releases m.order) (scopeAt p.x.place (atomScope m)) p.th.ea) s
    .done (if now then drainQueue s g.gid else s) []

/-! ## Impressions -/

/-- Whether a sector holds poison (R392). -/
def sectorPoison (s : State) (x : Xlat) : Bool := s.poison.contains (sectorOf s x)

/-- The offset of an access in its sector. -/
def sectorOff (x : Xlat) : Nat := placeKey x.place % 32

/-- LDV (R195, R196): lanes with sealed bytes are written, missing ones fail, the others wait. -/
def performLdv (s : State) (g : Group) (m : MemOp) : Perf :=
  let ps := m.placed s g
  match hostWait s ps m.size false with
  | some p => .wait (askHost s p m.size false) 3
  | none =>
  let (bad, ok) := ps.partition fun p => sectorPoison s p.x
  let (s, ans) := ok.foldl (fun (s, ans) p =>
    let (s, c) := loadSector s g p.x
    (bringBack s g c m.num, ans ++ [(p, ldvAt c m.num (sectorOff p.x) m.size)])) (s, ([] : List (Placed × LdvAns)))
  let vals : List LoadVal := ans.filterMap fun (p, a) => match a with
    | .val v => some { t := p.th.t, val := BitVec.ofNat 64 v }
    | _ => none
  let miss := ans.filterMap fun (p, a) => match a with
    | .missing => some (p.th.t, 0x0A, p.th.ea)
    | _ => none
  let wait := ans.filterMap fun (p, a) => match a with
    | .waits => some p.th
    | _ => none
  let s := deliver s g.gid m (m.size = 8) vals
  let s := if wait.isEmpty then s
    else (s.countEvent g.core 12 1).updGroup g.gid fun h =>
      { h with fl := { h.fl with ldvs := h.fl.ldvs ++ [{ m with threads := wait, tr := m.tr.pin s g (wait.map MemThread.ea) }] } }
  .done s (miss ++ bad.map fun p => (p.th.t, 0x09, p.th.ea))

/-- STV (R195): lanes in ascending order; failing lanes write nothing. The group's earlier stores pass the write point first,
since its accesses take effect in issue order (R287). -/
def performStv (s : State) (g : Group) (m : MemOp) : Perf :=
  match flushBlocked s g.gid g.core (onL 1), hostWait s (m.placed s g) m.size true with
  | some e, _ => .wait (askHost s e.place 32 true) (flushReason s e)
  | none, some p => .wait (askHost s p m.size true) 4
  | none, none =>
    let s := drainQueue s g.gid
    let (s, fails) := (m.placed s g).foldl (fun (s, fails) p =>
      let (s, c) := loadSector s g p.x
      match stvFault s g c m.num with
      | some cls => (s, fails ++ [(p.th.t, cls, p.th.ea)])
      | none =>
        (stvSector s g p.x m.num ((numBytes m.size p.th.data.toNat).map fun (o, b) => (sectorOff p.x + o, b)), fails))
      (s, ([] : List (Nat × Nat × DWord)))
    .done (if fails.length < m.threads.length then progress s g.gid else s) fails

/-- The sectors of one thread's range, translated. -/
def rangeXlats (s : State) (g : Group) (m : MemOp) (t : MemThread) : List (DWord × Xlat) :=
  (rangeSectors t.ea t.data.toNat).filterMap fun a => match m.xlate s g a with
    | .ok x => some (a, x)
    | .error _ => none

/-- A sector of the ranges of an instruction that has to wait at its home (R343, R405). -/
def rangeWait (s : State) (g : Group) (m : MemOp) (wr : Bool) : Option Place :=
  ((m.threads.flatMap (rangeXlats s g m)).find? fun x => waitsHome s x.2.place 32 wr).map (·.2.place)

/-- The sectors of a range sealed in ascending address, or the class and address of the first that cannot be. -/
def sealRange (s : State) (g : Group) (n : Word) : List (DWord × Xlat) → Except (Nat × DWord) State
  | [] => .ok s
  | (a, x) :: xs =>
    match sealFault s g (loadSector s g x).2 n with
    | some cls => .error (cls, a)
    | none => sealRange (sealSector s g x n) g n xs

/-- SEALV (R195, R197, R353): a release at .dev, then sector by sector; a lane with a failing sector seals nothing. -/
def performSealv (s : State) (g : Group) (m : MemOp) : Perf :=
  match flushBlocked s g.gid g.core (onL 3), rangeWait s g m true with
  | some e, _ => .wait (askHost s e.place 32 true) 4
  | none, some p => .wait (askHost s p 32 true) 4
  | none, none =>
    let s := flush s g.gid g.core 3 false
    let (s, fails) := m.threads.foldl (fun (s, fails) t =>
      let xs := rangeXlats s g m t
      let s := xs.foldl (fun s (_, x) => (loadSector s g x).1) s
      match sealRange s g m.num xs with
      | .error (cls, a) => (s, fails ++ [(t.t, cls, a)])
      | .ok u => (u, fails)) (s, ([] : List (Nat × Nat × DWord)))
    .done (if fails.length < m.threads.length then progress s g.gid else s) fails

/-- Lanes of a waiting LDV have ended their wait; an LDV without lanes is complete. -/
def Group.cutLdv (g : Group) (m : MemOp) (ts : List Nat) : Group :=
  { g with fl := { g.fl with ldvs := (g.fl.ldvs.map fun n =>
      if n.pc == m.pc && n.dst == m.dst && n.helper == m.helper then n.without ts else n).filter fun n => !n.threads.isEmpty } }

/-- The lanes of waiting LDVs whose impressions are sealed take their bytes (R196); those of a poisoned sector do not (R392). -/
def ldvCapture (s : State) (gid : Nat) : State :=
  match s.group? gid with
  | none => s
  | some g => g.fl.ldvs.foldl (fun s m =>
      ((m.placed s g).filter fun p => !sectorPoison s p.x).foldl (fun s p =>
        match ldvAt (loadSector s g p.x).2 m.num (sectorOff p.x) m.size with
        | .val v =>
          let s := setThread s gid m.helper p.th.t fun x =>
            if m.size = 8 then x.setPair m.dst (BitVec.ofNat 64 v) else x.setReg m.dst (BitVec.ofNat 32 v)
          s.updGroup gid fun g => g.cutLdv m [p.th.t]
        | _ => s) s) s

/-- FLOORV (R195, R354), behind the group's earlier stores (R287): waiting LDVs take what is sealed before anything is
discarded. -/
def performFloorv (s : State) (g : Group) (m : MemOp) : Perf :=
  match flushBlocked s g.gid g.core (onL 1), rangeWait s g m true with
  | some e, _ => .wait (askHost s e.place 32 true) (flushReason s e)
  | none, some p => .wait (askHost s p 32 true) 4
  | none, none =>
    let s := drainQueue s g.gid
    let s := s.groups.foldl (fun s h => closeLig (ldvCapture s h.gid) h.gid) s
    .done (progress (m.threads.foldl (fun s t =>
      (rangeXlats s g m t).foldl (fun s (_, x) => noteFloor (floorSector s g x m.num) x m.num) s) s) g.gid) []

/-- VPROBE (R195): bit 3 says where the impression lies before VPROBE brings it back (R350). -/
def performVprobe (s : State) (g : Group) (m : MemOp) : Perf :=
  match hostWait s (m.placed s g) 1 false with
  | some p => .wait (askHost s p 1 false) 3
  | none =>
  let (s, vals) := (m.placed s g).foldl (fun (s, vals) p =>
    let (s, c) := loadSector s g p.x
    let (a, b) := probeSector c m.num
    (bringBack s g c m.num, vals ++ [({ t := p.th.t, val := pairOf a b } : LoadVal)])) (s, ([] : List LoadVal))
  .done (deliver s g.gid m true vals) []

/-! ## Cache control and FETCH -/

/-- The write covers a byte of the line frame. -/
def SqEntry.inFrame (e : SqEntry) (frame : Nat) : Bool :=
  e.places.any fun p => match p with
    | .mem k => k / 256 == frame
    | .case _ => false

/-- Dirty lines of host and pool memory in some frames are written through to their home and stay as clean copies (R158, log 8). -/
def cleanLines (s : State) (frames : List Nat) : State :=
  let clean (x : L3Line) : L3Line :=
    if frames.contains (x.line / 4) && (x.st == .m || x.st == .o) then
      { x with st := if x.st == .m then .e else .s, by_ := none, home := [] }
    else x
  s.updHost fun h => { h with l3 := h.l3.map clean }

/-- A write of the issuer's cluster to some frames. -/
def SqEntry.dirtyIn (g : Group) (frames : List Nat) (e : SqEntry) : Bool := coreClu e.core == coreClu g.core && frames.any e.inFrame

/-- CWB and CINV (R158): the dirty spans of the frame are written back as far as the scope says; those of CINV as far as their
homes, since its scope is not given (log 65). -/
def performCache (s : State) (g : Group) (m : MemOp) (scope : Nat) : Perf :=
  let frames := (m.threads.filterMap fun t =>
    if onGalley m.tr s g t.ea then none
    else match m.xlate s g t.ea with
      | .ok x => memKey x.place
      | .error _ => none).map (· / 256)
  let own := s.sq.filter fun e => e.gid == g.gid && scope ≥ 3 && e.dirtyIn g frames
  match flushBlocked s g.gid g.core (onL 1), (own.findSome? (SqEntry.waitPlace s)).or
      (if scope ≥ 3 then performBlocked s (SqEntry.dirtyIn g frames) else none) with
  | some e, _ => .wait (askHost s e.place 32 true) (flushReason s e)
  | none, some p => .wait (askHost s p 1 true) 4
  | none, none =>
    let s := showWhere (drainQueue s g.gid) (if scope = 1 then 0 else scope) (SqEntry.dirtyIn g frames)
    .done (if m.kind == .cwb && scope = 4 then cleanLines s frames else s) []

/-- The Fount's answers for the threads of a FETCH: values, and the threads that failed, met poison or were lost, with
their addresses; `held` is a line the host must give up first. -/
structure Fetched where
  vals : List LoadVal
  poison : List (Nat × DWord)
  bad : List (Nat × DWord)
  lost : List (BitVec 8 × DWord)
  held : Option Place

/-- The Fount's answers for the threads of a FETCH. -/
def fetchValues (s : State) (g : Group) (m : MemOp) : State × Fetched :=
  m.threads.foldl (fun (s, r) t =>
    match fountFetch m.tr s g (g.priv != .user) m.handle 32 t.coords.1 t.coords.2 with
    | (s, .ok v) => (s, { r with vals := r.vals ++ [({ t := t.t, val := BitVec.ofNat 64 v } : LoadVal)] })
    | (s, .poison a) => (s, { r with poison := r.poison ++ [(t.t, a)] })
    | (s, .lost c a) => (s, { r with lost := r.lost ++ [(c, a)] })
    | (s, .held p) => (s, { r with held := some p })
    | (s, .bad _ a) => (s, { r with bad := r.bad ++ [(t.t, a)] }))
    (s, ({ vals := [], poison := [], bad := [], lost := [], held := none } : Fetched))

/-- A register of a FETCH that failed in some lanes (R212, R392). -/
def failedFetch (s : State) (gid : Nat) (m : MemOp) (cls : Nat) (bad : List (Nat × DWord)) : State :=
  if bad.isEmpty then s
  else s.updGroup gid fun g => { g with fl := { g.fl with loads := g.fl.loads ++
    [{ helper := false, dst := m.dst, pair := false, vals := [], pc := m.pc, len := m.len, bad := bad, cls := cls,
       seq := BitVec.ofNat 32 m.seq }] } }

/-- A FETCH takes the Fount's answers (R212, R213, R236): the elements go to the register, lanes that fail a page's
attributes or meet poison fail at its first reader, lost ones are reported. It completes an engine command (R207): progress (R397). -/
def takeFetch (s : State) (g : Group) (m : MemOp) (r : Fetched) : State :=
  let s := deliver (progress s g.gid) g.gid m false r.vals
  let s := failedFetch (failedFetch s g.gid m 0x09 r.poison) g.gid m 0x07 r.bad
  r.lost.foldl (fun s (c, a) => asyncError s g.lid c m.pc (BitVec.ofNat 32 m.seq) a (s.blockIdx g) g.core g.grp) s

/-- FETCH (R236): the elements reach the register at once, or when the Fount answers; until then it keeps its translations
(R283, R396). -/
def performFetch (s : State) (g : Group) (m : MemOp) : Perf :=
  if s.defer.fetch then
    let kept := { m with tr := m.tr.pin s g (m.threads.flatMap fun t => fetchAddrs m.handle 32 t.coords.1 t.coords.2) }
    .done (s.updGroup g.gid fun g => { g with fl := { g.fl with fetches := g.fl.fetches ++ [kept] } }) []
  else
    let (s', r) := fetchValues s g m
    match r.held with
    | some p => .wait (askHost s p 32 false) 11
    | none => .done (takeFetch s' g m r) []

/-- Performs an instruction whose threads have passed every check. -/
def performMem (s : State) (g : Group) (m : MemOp) : Perf :=
  if m.threads.isEmpty then .done s []
  else match m.kind with
  | .ld sext => performLd s g m sext
  | .st => performSt s g m
  | .atom op u => performAtom s g m op u
  | .red op u => performRed s g m op u (s.groupTag g).isSome
  | .ldv => performLdv s g m
  | .stv => performStv s g m
  | .sealv => performSealv s g m
  | .floorv => performFloorv s g m
  | .vprobe => performVprobe s g m
  | .cwb => performCache s g m m.scope.toNat
  | .cinv => performCache s g m 4
  | .fetch => performFetch s g m

/-! ## The Quoin of a deterministic ATOM or RED (R153) -/

/-- The instruction takes the Quoin: an ATOM or RED of a deterministic launch with a lane that is not logged. Issues of a handler
leave the keys unchanged (R401). -/
def needsQuoin (s : State) (g : Group) (m : MemOp) : Bool :=
  g.priv == .user && (s.groupTag g).isSome && (match m.kind with
    | .atom _ _ => m.threads.any fun t => !(m.lane g t.t).tx.logging
    | .red _ _ => m.threads.any fun t => !(m.lane g t.t).tx.logging
    | _ => false)

/-- The group's ATOM batch, if it is presented. -/
def atomBatch (s : State) (gid : Nat) : Option Batch := s.batches.find? fun b => b.gid == gid && b.kind == .atom

/-- Presents the ATOM batch of a group (R342). -/
def presentAtom (s : State) (g : Group) (m : MemOp) : State :=
  { s with nextId := s.nextId + 1,
           batches := s.batches ++ [{ id := s.nextId, kind := .atom, gid := g.gid, lid := g.lid, lanes := [], need := [],
                                      held := [], quoin := false, ask := s.nextId, op := some m, iss := s.iss }] }

/-- Performs an instruction, under the Quoin where it takes it: it presents its batch, and is performed as the batch takes the
Quoin. -/
def performQuoin (s : State) (g : Group) (m : MemOp) : Perf :=
  if needsQuoin s g m then
    match atomBatch s g.gid with
    | none => .wait (presentAtom s g m) 8
    | some b => if b.quoin then performMem s g m else .wait s 8
  else performMem s g m

/-! ## The translation fault and the operand log (R387) -/

/-- The transactions of some lanes abort with reason 9, iterations in speculative mode take an ordered rerun (R186,
R192, R387). A lane whose transaction a translation fault has aborted issues nothing until its group is resumed. -/
def dropTxLanes (s : State) (gid : Nat) (ls : List Nat) : State :=
  ls.foldl (fun s l =>
    match s.group? gid with
    | none => s
    | some g =>
      let x := g.lane l
      if x.tx.isOpen then (abortTx s g l 9).updLane gid l fun y => { y with txStop := true }
      else if x.tx.speculative then squashLane s gid l 9 true
      else s) s

/-- An instruction enters the operand log with its failing threads, its transactional lanes dropped. -/
def enterLog (s : State) (g : Group) (m : MemOp) (fails : List (Nat × DWord)) : State :=
  let tx := (m.threads.filter fun t => (m.lane g t.t).tx.logging).map (·.t)
  let spec := (fails.filter fun f => (m.lane g f.1).tx.speculative).map (·.1)
  let s := dropTxLanes (s.countEvent g.core 8 1) g.gid tx
  let e := { m.without tx with fails := fails.filter fun f => !spec.contains f.1 }
  if e.threads.isEmpty && e.fails.isEmpty then s
  else s.updGroup g.gid fun g => { g with fl := { g.fl with opLog := g.fl.opLog ++ [e] } }

/-- Active threads other than some advance past the instruction. -/
def State.advanceBut (s : State) (ts : List Nat) : State :=
  s.updGroup s.iss.gid fun g => g.mapThreads s.iss.helper (s.iss.active.filter fun t => !ts.contains t) fun _ x =>
    { x with pc := s.nextPc }

/-- The fault of the lowest class among failures found while performing (R178). -/
def lowestFault (s : State) (g : Group) (m : MemOp) (fails : List (Nat × Nat × DWord)) : Option Raise :=
  match leastBy id (fails.map fun f => f.2.1) with
  | none => none
  | some c =>
    let vas := (fails.filter fun f => f.2.1 == c).map fun f => (f.1, f.2.2)
    some { m.fault s c vas with info := galleyInfo s g m.tr vas }

/-! ## An instruction that is translated (R173 rows 8, 1 and 9) -/

/-- What an instruction whose translation has succeeded comes to: a wait, its effect, or a fault with the threads that do not
complete, all of them where no thread has accessed memory. -/
inductive Concl where
  | wait (s : State) (reason : Nat)
  | ok (s : State)
  | fault (s : State) (r : Raise) (stay : List Nat)

/-- An LD: poison in one lane leaves every lane without effect (R173). -/
def MemKind.isLd : MemKind → Bool
  | .ld _ => true
  | _ => false

/-- The checks that follow the translation, then the effect. -/
def conclude (s : State) (g : Group) (m : MemOp) : Concl :=
  let prot := m.denied s g
  let home := rowHome s g m
  if !prot.isEmpty then .fault s { m.fault s 0x07 prot with info := galleyInfo s g m.tr prot } m.active
  else if !home.isEmpty then .fault s (m.fault s 0x0C home) m.active
  else
    match performQuoin s g m with
    | .wait s r => .wait s r
    | .done s' fails =>
      match lowestFault s g m fails with
      | none => .ok s'
      | some r => if r.cls = 0x09 && m.kind.isLd then .fault s r m.active else .fault s' r (fails.map (·.1))

/-- The lanes whose transaction or iteration has ended on the way: they have their own PC. -/
def endedLanes (old new : State) (g : Group) (m : MemOp) : List Nat :=
  (m.threads.filter fun t => !m.helper && ((old.group? g.gid).getD g |>.lane t.t).tx.logging &&
    !((new.group? g.gid).getD g |>.lane t.t).tx.logging).map (·.t)

/-! ## At issue -/

/-- The instruction performed at issue, translation having succeeded. -/
def performIssue (s : State) (g : Group) (m : MemOp) (gone : List Nat) : State :=
  match conclude s g m, openOps g with
  | .wait s r, _ => stall s r
  | .fault _ _ _, some k => stall s k
  | .fault s' r stay, none => raiseNow (s'.advanceBut (gone ++ stay ++ endedLanes s s' g m)) r
  | .ok s', _ => s'.advanceBut (gone ++ endedLanes s s' g m)

/-- The translation of an instruction at issue. -/
def translateIssue (s : State) (g : Group) (m : MemOp) (gone : List Nat) : State :=
  let fails := m.failing s g .translation
  if fails.isEmpty then performIssue s g m gone
  else if m.helper || g.priv != .user then
    match openOps g with
    | some k => stall s k
    | none => raiseNow (s.countEvent g.core 8 1) (m.fault s 0x06 fails)
  else
    let spec := (fails.filter fun f => (m.lane g f.1).tx.speculative).map (·.1)
    if spec.length = fails.length then
      let s := dropTxLanes s g.gid spec
      match s.group? g.gid with
      | some g => performIssue s g (m.without spec) (gone ++ spec)
      | none => s
    else
      let tx := (m.threads.filter fun t => (m.lane g t.t).tx.logging).map (·.t)
      (enterLog s g m fails).advanceBut (gone ++ tx)

/-- An impression instruction other than LDV ends the transaction of a lane with reason 8, or reruns its iteration in
order (R198). -/
def endForImpression (s : State) (g : Group) (m : MemOp) : State × List Nat :=
  match m.kind with
  | .ld _ | .st | .atom _ _ | .red _ _ | .ldv | .cwb | .cinv | .fetch => (s, [])
  | _ =>
    let tx := (m.threads.filter fun t => (m.lane g t.t).tx.logging).map (·.t)
    (tx.foldl (fun s l => overLimit s g.gid l 8) s, tx)

/-- A bank the instruction names is switching its mode: the access waits (R160). -/
def switching (s : State) (g : Group) (m : MemOp) : Bool :=
  m.threads.any fun t => match classify s g t.ea with
    | .caseAt c k _ _ => (s.bank c k).switch.isSome
    | _ => false

/-- The instruction names an address that the page tables translate: the Case window and the heap window need no walk
(R139, R384). -/
def MemOp.needsWalk (s : State) (g : Group) (m : MemOp) : Bool :=
  m.kind == .fetch || m.threads.any fun t => (m.addrs t).any fun a => classifyIn m.tr s g a == .paged

/-- A memory instruction issues (R173, R386): the early checks, then its translation at once, or, where its page walks are
put off or earlier instructions are not translated, in its turn. -/
def memIssue (s : State) (g : Group) (m : MemOp) : State :=
  if m.threads.isEmpty then s.advance
  else match m.held s g with
  | some p => stall (askHost s p 8 false) 12
  | none =>
    let (s, gone) := endForImpression s g m
    match s.group? g.gid with
    | none => s
    | some g =>
      let m := { m.without gone with active := m.active.filter fun t => !gone.contains t }
      if m.threads.isEmpty then s.advanceBut gone
      else if switching s g m then stall s 3
      else match earlyFault s g m with
      | some r => raiseNow s r
      | none =>
        if g.fl.walks.isEmpty && !(s.defer.walk && m.needsWalk s g && !needsQuoin s g m) then translateIssue s g m gone
        else if needsQuoin s g m || g.fl.walks.length ≥ 4 then stall s 12
        else (s.updGroup g.gid fun g => { g with fl := { g.fl with walks := g.fl.walks ++ [m] } }).advanceBut gone

/-! ## In its turn: page walks (R386) and replay (R390) -/

/-- Takes the oldest instruction that is not translated off the group's list. -/
def Group.nextWalk (g : Group) : Group := { g with fl := { g.fl with walks := g.fl.walks.drop 1 } }

/-- What the oldest instruction that is not translated comes to. The bank of a Case address may have changed its mode since it
issued: it then fails in its class (R141, R160). -/
def walkConcl (s : State) (g : Group) (m : MemOp) : Concl :=
  if (rowClass s g m).isEmpty then conclude s g m else .fault s (m.fault s 0x07 (rowClass s g m)) m.active

/-- The oldest instruction that is not translated comes to its effect, or to a precise fault: it and those behind it have
not issued, but for its threads that completed (R173, R178, R372). `none` while it has to wait and has asked already, and while
a FETCH before an instruction that fails is on its way. -/
def walkIssue (s : State) (g : Group) (m : MemOp) : Option State :=
  let s0 := s.updGroup g.gid Group.nextWalk
  match walkConcl s0 ((s0.group? g.gid).getD g) m with
  | .wait t _ => if t.host.snoops.length = s.host.snoops.length then none
      else some (t.updGroup g.gid fun h => { h with fl := { h.fl with walks := g.fl.walks } })
  | .ok t => some t
  | .fault t r stay =>
    if !g.fl.fetches.isEmpty then none
    else
    let back (h : Group) : Group :=
      { h with fl := { h.fl with walks := { m with active := m.active.filter stay.contains } :: h.fl.walks } }
    some (raise (t.updGroup g.gid back) g.gid (if m.helper then liftHelper g r else r))

/-- What applying an instruction in its turn answers. -/
inductive Turn where
  | done (s : State)
  | wait (s : State) (reason : Nat)
  | again (fails : List (Nat × DWord))

/-- A deferred fault of an instruction that is replayed (R390): its failing lanes write nothing. Where a doorbell of the host path
started the replay it ends the grid. -/
def deferredOf (s : State) (r : Raise) (m : MemOp) (gid : Nat) : State :=
  let r := { r with deferred := true, addr := m.pc, len := m.len }
  match s.group? gid with
  | none => s
  | some g => if g.fl.hostPath && r.cls != 0x09 then raiseGrid s g r else raise s gid r

/-- An instruction replayed in its turn: translation may fail again; the class of an address whose bank has left scratchpad mode
(R141), page attributes, the home check and performing raise a deferred fault for the lanes that fail, and the others take
their effect. -/
def applyTurn (s : State) (g : Group) (m : MemOp) : Turn :=
  let fails := m.failing s g .translation
  if switching s g m then .wait s 3
  else match m.held s g with
  | some p => .wait (askHost s p 8 false) 12
  | none =>
  if !fails.isEmpty then .again fails
  else
    let cls := rowClass s g m
    let prot := cls ++ (m.without (cls.map (·.1))).denied s g
    let home := if prot.isEmpty then rowHome s g m else []
    let m' := m.without (prot.map (·.1) ++ home.map (·.1))
    match performQuoin s g m' with
    | .wait s r => .wait s r
    | .done s' more =>
      let all := prot.map (fun f => (f.1, 0x07, f.2)) ++ home.map (fun f => (f.1, 0x0C, f.2)) ++ more
      match lowestFault s g m all with
      | none => .done s'
      | some r => .done (deferredOf s' r m g.gid)

/-- The operand log has lost its oldest entry; with the last one, the lanes that stopped with their transactions go on
(R186, R390). -/
def Group.logDone (g : Group) : Group :=
  let rest := g.fl.opLog.drop 1
  let g := { g with fl := { g.fl with opLog := rest, replay := !rest.isEmpty, hostPath := g.fl.hostPath && !rest.isEmpty } }
  if rest.isEmpty then g.mapLanes fun _ x => { x with txStop := false } else g

/-- One entry of the operand log replayed (R390); `some` reason when it has to wait. -/
def replayOne (s : State) (gid : Nat) : State × Option Nat :=
  match s.group? gid with
  | none => (s, none)
  | some g =>
    match g.fl.opLog with
    | [] => (s.updGroup gid Group.logDone, none)
    | m :: rest =>
      match applyTurn s g m with
      | .wait s r => (s, some r)
      | .again fails =>
        let m := { m with fails := fails }
        let s := (s.countEvent g.core 8 1).updGroup gid fun g => { g with fl := { g.fl with opLog := m :: rest, replay := false } }
        (raise s gid (logFault m), none)
      | .done s => (closeLig (s.updGroup gid Group.logDone) gid, none)

end Sys2Proof.Machine
end

