-- ==== Sys2Proof/Machine/Control.lean ====
section
/-!
DEFINITION. Meanings of the control instructions (R114 to R131): branches, calls, the divergence stack, the ending of
lanes, and the other control instructions. ERET is in Return.lean.
-/

namespace Sys2Proof.Machine

/-! ## Branches and calls -/

/-- A divergent branch (R114): `t` gives each executing thread's target, `link` the register it writes A + 4 into. -/
def divergent (s : State) (g : Group) (gd : Guard) (link : Option Nat) (t : Lane → Word) : State :=
  let bad := (executing s g gd).filter fun i => (t (threadLane s g i)).getLsbD 0
  if !bad.isEmpty then raiseIn s 0x08 bad
  else s.mapActive fun _ x =>
    if guardTrue gd x then
      { (match link with
          | some d => x.setReg d s.nextPc
          | none => x) with pc := t x }
    else { x with pc := s.nextPc }

def execBra (f : BForm) (s : State) : Out State :=
  gate s [] true true fun g => .next (divergent s g f.g none fun _ => s.target f.off)

def execBrx (f : GAForm) (s : State) : Out State :=
  gate s [Use.v f.a.toNat] true true fun g => .next (divergent s g f.g none fun x => x.reg f.a.toNat)

def execRet (f : GAForm) (s : State) : Out State :=
  gate s [Use.v f.a.toNat] true true fun g => .next (divergent s g f.g none fun x => x.reg f.a.toNat)

def execCall (f : BrForm) (s : State) : Out State :=
  gate s [Use.d f.r.toNat] true true fun g =>
    .next (divergent s g f.g (some f.r.toNat) fun _ => s.target f.off)

def execCallx (f : GDAForm) (s : State) : Out State :=
  gate s [Use.d f.d.toNat, Use.v f.a.toNat] true true fun g =>
    .next (divergent s g f.g (some f.d.toNat) fun x => x.reg f.a.toNat)

/-- BRU (R115): the guard is the condition. Each helper branches alone (R135). -/
def execBru (f : BForm) (s : State) : Out State :=
  gate s [] true true fun g =>
    let ex := executing s g f.g
    if s.iss.helper then
      .next (s.mapActive fun _ x => { x with pc := if guardTrue f.g x then s.target f.off else s.nextPc })
    else if ex.length = s.iss.active.length then .next (s.mapActive fun _ x => { x with pc := s.target f.off })
    else if ex.isEmpty then .next s.advance
    else .next (raiseAll s 0x03)

/-- BRD (R116). -/
def execBrd (f : BrForm) (s : State) : Out State :=
  perGroup s [Use.u f.r.toNat] true false f.g fun g _ =>
    let t := loWord (g.ureg f.r.toNat) + BitVec.ofInt 32 (2 * f.off.toInt)
    if t.getLsbD 0 then raiseAll s 0x08 else s.mapActive fun _ x => { x with pc := t }

/-! ## The divergence stack -/

/-- Empty entries on top are popped (R123). -/
def popEmpty : List (BitVec 32 × Word) → List (BitVec 32 × Word)
  | (m, a) :: r => if m = 0 then popEmpty r else (m, a) :: r
  | [] => []

/-- The top entry is complete: every lane of its mask is parked at its rejoin address or has exited (R121). -/
def topComplete (g : Group) : Bool :=
  match g.stack with
  | [] => false
  | (m, a) :: _ => (lanesOf m).all fun l => let x := g.lane l; (x.st == .parked && x.pc == a) || x.st == .exited

/-- Every lane parked at an address becomes live after it (R121). -/
def releaseAt (g : Group) (a : Word) : Group :=
  g.mapLanes fun _ x => if x.st == .parked && x.pc == a then { x with st := .live, pc := a + 4, age := 0 } else x

/-- A complete top entry releases the lanes parked at its rejoin address; it is not popped, and its mask stays (R121). -/
def releaseTop (g : Group) : Group :=
  match g.stack with
  | [] => g
  | (_, a) :: _ => if topComplete g then releaseAt g a else g

/-- Lanes that exit are cleared from the mask of every entry, the top entry is popped while its mask is 0, and R121 is applied to
the new top (R123). An entry that a handler refilled may name lanes that exited before: they stay (R124). -/
def clearLanes (g : Group) (ex : List Nat) : Group :=
  releaseTop { g with stack := popEmpty (g.stack.map fun (m, a) => (m &&& ~~~(maskOf ex), a)) }

/-- SPLIT (R119). -/
def execSplit (f : BForm) (s : State) : Out State :=
  perGroup s [] true false f.g fun g ex =>
    if g.stack.length ≥ 16 then raiseAll s 0x04
    else (s.updGroup g.gid fun g => { g with stack := (maskOf ex, s.target f.off) :: g.stack }).advance

/-- WAIT (R120). -/
def execWait (f : GForm) (s : State) : Out State :=
  perGroup s [] true false f.g fun g ex =>
    match g.stack with
    | [] => raiseAll s 0x05
    | (m, a) :: _ =>
      if s.iss.addr != a || !ex.all (fun l => m.getLsbD l) then raiseAll s 0x02
      else (s.mapActive fun _ x => { x with st := .parked }).updGroup g.gid releaseTop

/-- JOIN (R122). -/
def execJoin (f : GForm) (s : State) : Out State :=
  perGroup s [] true false f.g fun g ex =>
    match g.stack with
    | [] => raiseAll s 0x05
    | (m, a) :: r =>
      if !ex.all (fun l => m.getLsbD l) then raiseAll s 0x02
      else s.advance.updGroup g.gid fun g => releaseTop { g with stack := popEmpty ((m &&& ~~~(maskOf ex), a) :: r) }

/-! ## EXIT (R126, R135) -/

/-- Marks helpers as ended. -/
def markDone (hs : List Helper) (ex : List Nat) : List Helper :=
  hs.mapIdx fun i h => if ex.contains i then { h with done := true, lane := { h.lane with st := .exited } } else h

/-- Helpers end (R135, R204): their frames and lane slots are freed; the last ends the ligature. -/
def exitHelpers (s : State) (g : Group) (ex : List Nat) : State :=
  match g.lig with
  | none => s
  | some l =>
    let s := returnLanes s.advance (ex.filterMap fun i => l.helpers[i]?)
    let s := s.updGroup g.gid fun g => { g with lig := g.lig.map fun m => { m with helpers := markDone m.helpers ex } }
    closeLig s g.gid

/-- A FETCH of the issuing threads that is on its way does not translate now (R126 step 2); other memory instructions are
translated before EXIT issues. -/
def untranslated (s : State) (g : Group) (ex : List Nat) : Bool :=
  g.fl.fetches.any fun m => m.threads.any (fun t => ex.contains t.t) && !(m.failing s g .translation).isEmpty

/-- An engine command of the group has accesses left that do not translate now (R126 step 2). -/
def engineUntranslated (s : State) (g : Group) : Bool :=
  let e := s.engine g.core
  e.queue.any (fun c => c.gid == g.gid && c.incomplete && !drainTranslates s c) ||
  e.imps.any (fun r => r.gid == g.gid && (r.failed.isSome || !copyTranslates s r)) ||
  e.fetchcs.any (fun r => r.gid == g.gid && (r.failed.isSome || !fetchcTranslates s r))

/-- What the group has outstanding keeps its translations: no translation fault arrives after a lane has exited (R126, R283). -/
def pinAll (s : State) (g : Group) : State :=
  let fetch (m : MemOp) : MemOp :=
    { m with tr := m.tr.pin s g (m.threads.flatMap fun t => fetchAddrs m.handle 32 t.coords.1 t.coords.2) }
  (s.updEngine g.core fun e => { e with
    queue := e.queue.map (fun c => if c.gid == g.gid then c.pin s else c),
    imps := e.imps.map (fun r => if r.gid == g.gid then r.pin s else r),
    fetchcs := e.fetchcs.map (fun r => if r.gid == g.gid then r.pin s else r) }).updGroup g.gid fun h =>
      { h with fl := { h.fl with fetches := h.fl.fetches.map fetch } }

/-- The earliest deferred fault EXIT raises (R212): of a drain, then of a copy or FETCHC. -/
def exitFault (s : State) (g : Group) : Option (Word × Raise) :=
  match matrixFault s g MCmd.isDrain with
  | some f => some f
  | none => copyFault s g fun _ => true

def execExit (f : GForm) (s : State) : Out State :=
  perGroup s [] false true f.g fun g ex =>
    let tx := ex.filter fun l => (threadLane s g l).inTx
    if !s.iss.helper && !tx.isEmpty then raiseIn s 0x0C tx
    else if untranslated s g ex then stall s 12
    else if s.iss.helper then
      (match flushBlocked s g.gid g.core (onL 1) with
       | some e => stall (askHost s e.place 32 true) (flushReason s e)
       | none => exitHelpers s g ex)
    else
      match exitFault s g with
      | some r => raiseDeferred s g r
      | none =>
        if engineUntranslated s g then stall s 12
        else
          let s := ((pinAll s g).mapActive fun _ x => { x with st := .exited }).updGroup g.gid fun g =>
            clearLanes { g with stallCnt := 0 } ex
          settleBars s ((s.group? g.gid).getD g) 0 2

/-! ## Other control instructions -/

/-- NOP (R128). -/
def execNop (f : GForm) (s : State) : Out State := perGroup s [] true true f.g fun _ _ => s.advance

/-- YIELD (R129): 16 idle A-clocks after the one it issues in, then a forced issue, in a handler one of the handler's. -/
def execYield (f : GForm) (s : State) : Out State :=
  perGroup s [] false false f.g fun g _ =>
    -- a YIELD of the group that is still idle when its handler yields has run out when the handler's has
    (s.updGroup g.gid fun g => { g with hold := { g.hold with
      idleTo := some (s.clock + 17), idlePriv := g.priv != .user,
      forced := g.hold.forced || (g.priv != .user && g.hold.idleTo.isSome && !g.hold.idlePriv) } }).advance

/-- REGION (R130). -/
def execRegion (f : GForm) (s : State) : Out State :=
  perGroup s [] false false f.g fun g ex =>
    if !g.stack.isEmpty || !(g.lanesWhere fun x => x.st != .exited).all ex.contains then raiseAll s 0x02
    else (s.updGroup g.gid fun g => { g with restart := s.iss.addr }).advance

/-- BKPT and TRAP complete, and the group enters the handler with the code (R131), once the instructions before them have
written their registers (R372). -/
def trapWith (s : State) (gd : Guard) (cls : Nat) (code : BitVec 6) : Out State :=
  perGroup s [] false false gd fun g ex =>
    match openOps g with
    | some k => stall s k
    | none => raise s.advance g.gid { faultOf s cls ex [] with code := code.setWidth 8 }

def execBkpt (f : CodeForm) (s : State) : Out State := trapWith s f.g 0x10 f.code
def execTrap (f : CodeForm) (s : State) : Out State := trapWith s f.g 0x11 f.code

end Sys2Proof.Machine
end

