-- ==== Sys2Proof/Machine/Memory.lean ====
section
/-!
DEFINITION. Meanings of loads, stores, atomics and reductions (R138 to R153).
-/

namespace Sys2Proof.Machine

/-- The bytes of a size code (R48). -/
def sizeBytes (c : BitVec 2) : Nat := 2 ^ c.toNat

/-- A register operand of the access width: the pair at 8 bytes (R48). -/
def dataUse (size : BitVec 2) (d : BitVec 6) : Use := if size = 3 then Use.vp d.toNat else Use.v d.toNat

/-- The destination register of the access width. -/
def dataDst (size : BitVec 2) (d : BitVec 6) : Use := { dataUse size d with out := true }

/-- The data register of the access width. -/
def dataOf (size : BitVec 2) (x : Lane) (d : BitVec 6) : DWord :=
  if size = 3 then x.pair d.toNat else (x.reg d.toNat).setWidth 64

/-- The effective address (R138). -/
def effAddr (g : Group) (m : Option Mod) (x : Lane) (b : BitVec 6) (disp : Word) : DWord :=
  pairA g m x b + disp.signExtend 64

/-- A memory instruction of the issuer, its threads read from `f`. -/
def newOp (s : State) (g : Group) (gd : Guard) (kind : MemKind) (size : Nat) (order : BitVec 2) (scope : BitVec 3) (dst : Nat)
    (f : Nat → Lane → MemThread) : MemOp :=
  { kind := kind, pc := s.iss.addr, len := s.iss.len, seq := 0, helper := s.iss.helper,
    threads := (executing s g gd).map fun t => f t (threadLane s g t), size := size, order := order, scope := scope,
    dst := dst, num := 0, handle := 0, fails := [], active := s.iss.active, tr := s.now g }

/-- The window bits and the base of a memory instruction (R36, R138). -/
def baseUses (m : Option Mod) (b : BitVec 6) : List Use := modUse m ++ [Use.wp b.toNat (winA m)]

/-- A load (R144). -/
def load (m : Option Mod) (gd : Guard) (d b : BitVec 6) (size order : BitVec 2) (scope : BitVec 3) (disp : Word)
    (sext : Bool) (s : State) : Out State :=
  gateMem s (dataDst size d :: baseUses m b) false true fun g =>
    .next (memIssue s g (newOp s g gd (.ld sext) (sizeBytes size) order scope d.toNat fun t x =>
      { t := t, ea := effAddr g m x b disp, data := 0, cmp := 0 }))

def execLd (f : MemForm) (s : State) : Out State := load f.m f.g f.d f.b f.size f.order f.scope 0 false s
def execLdDisp (f : MemDForm) (s : State) : Out State := load f.m f.g f.d f.b f.size f.order f.scope f.disp false s
def execLdSext (f : MemDForm) (s : State) : Out State := load f.m f.g f.d f.b f.size f.order f.scope f.disp true s

/-- A store (R145). -/
def store (m : Option Mod) (gd : Guard) (d b : BitVec 6) (size order : BitVec 2) (scope : BitVec 3) (disp : Word)
    (s : State) : Out State :=
  gateMem s (dataUse size d :: baseUses m b) false true fun g =>
    .next (memIssue s g (newOp s g gd .st (sizeBytes size) order scope 0 fun t x =>
      { t := t, ea := effAddr g m x b disp, data := dataOf size x d, cmp := 0 }))

def execSt (f : MemForm) (s : State) : Out State := store f.m f.g f.d f.b f.size f.order f.scope 0 s
def execStDisp (f : MemDForm) (s : State) : Out State := store f.m f.g f.d f.b f.size f.order f.scope f.disp s

/-- ATOM (R151). -/
def execAtom (f : AtomForm) (s : State) : Out State :=
  gateMem s (dataDst f.size f.d :: dataUse f.size f.val :: baseUses f.m f.b) false true fun g =>
    .next (memIssue s g (newOp s g f.g (.atom f.op f.u) (sizeBytes f.size) f.order f.scope f.d.toNat fun t x =>
      { t := t, ea := effAddr g f.m x f.b 0, data := dataOf f.size x f.val, cmp := 0 }))

/-- ATOM CAS (R150). -/
def execAtomCas (f : CasForm) (s : State) : Out State :=
  gateMem s (dataDst f.size f.d :: dataUse f.size f.val :: dataUse f.size f.cmp :: baseUses f.m f.b) false true fun g =>
    .next (memIssue s g (newOp s g f.g (.atom 7 false) (sizeBytes f.size) f.order f.scope f.d.toNat fun t x =>
      { t := t, ea := effAddr g f.m x f.b 0, data := dataOf f.size x f.val, cmp := dataOf f.size x f.cmp }))

/-- RED (R152). -/
def execRed (f : RedForm) (s : State) : Out State :=
  gateMem s (dataUse f.size f.d :: baseUses f.m f.b) false true fun g =>
    .next (memIssue s g (newOp s g f.g (.red f.op f.u) (sizeBytes f.size) f.order f.scope 0 fun t x =>
      { t := t, ea := effAddr g f.m x f.b 0, data := dataOf f.size x f.d, cmp := 0 }))

/-! ## Cache control (R157, R158) -/

/-- PREF: a hint without effect. -/
def execPref (f : PrefForm) (s : State) : Out State :=
  gate s (baseUses f.m f.b) false true fun _ => .next s.advance

def execCwb (f : CwbForm) (s : State) : Out State :=
  gateMem s (baseUses f.m f.b) false true fun g =>
    .next (memIssue s g (newOp s g f.g .cwb 1 0 f.scope 0 fun t x =>
      { t := t, ea := effAddr g f.m x f.b 0, data := 0, cmp := 0 }))

def execCinv (f : CinvForm) (s : State) : Out State :=
  gateMem s (baseUses f.m f.b) false true fun g =>
    .next (memIssue s g (newOp s g f.g .cinv 1 0 0 0 fun t x =>
      { t := t, ea := effAddr g f.m x f.b 0, data := 0, cmp := 0 }))

end Sys2Proof.Machine
end

