-- ==== Sys2Proof/Machine/Fence.lean ====
section
/-!
DEFINITION. Meanings of the fences (R154 to R156, R273, R292) and of the Case bank instructions (R160, R161).
-/

namespace Sys2Proof.Machine

/-! ## Fences -/

/-- The lanes of a list with an open transaction or iteration. -/
def txLanes (s : State) (g : Group) (ex : List Nat) : List Nat := ex.filter fun t => (threadLane s g t).inTx

/-- A fence of path L at a scope (R154): the group's earlier stores pass the write point, and what its core sees of
path L is performed for the observers of the scope. It waits, under reason 4 (R431), while a write that this performs has to. -/
def fence (f : FenceForm) (s : State) : Out State :=
  gateAs 4 s (modUse f.m) false true fun g =>
    let ex := executing s g f.g
    let tx := txLanes s g ex
    if ex.isEmpty then .next s.advance
    else if !tx.isEmpty then .next (raiseIn s 0x0C tx)
    else if !g.fl.walks.isEmpty then .next (stall s 4)
    else match flushBlocked s g.gid g.core (onL f.scope.toNat) with
      | some e => .next (stall (askHost s e.place 32 true) 4)
      | none => .next (flush s g.gid g.core f.scope.toNat false).advance

def execFence (f : FenceForm) (s : State) : Out State := fence f s

/-- FENCE .sc (R155): every FENCE .sc is one step here, so their total order is the order of the steps. -/
def execFenceSc (f : FenceForm) (s : State) : Out State := fence f s

/-- The accesses of a producing path that FENCEX waits for (R156): commands of the group that are not complete, and on path L
the group's LDVs that wait (R284). -/
def pathBusy (s : State) (g : Group) (p : Nat) : Bool :=
  let e := s.engine g.core
  match p with
  | 0 => !g.fl.ldvs.isEmpty
  | 1 => e.queue.any fun c => c.gid == g.gid && c.incomplete
  | 2 => e.fetchcs.any (fun c => c.gid == g.gid) || !g.fl.fetches.isEmpty
  | 3 => e.imps.any fun c => c.gid == g.gid
  | _ => false

/-- The writes of engine commands of a group on a path. -/
def SqEntry.engineOf (g : Group) (p : Nat) (e : SqEntry) : Bool := e.gid == g.gid && e.path == p

/-- The flush of a producing path ahead of a consuming one (R292): for another path, and on the paths of the engines, the
writes go to their homes, whatever scope FENCEX names (log 65). -/
def pathFlush (s : State) (g : Group) (p q scope : Nat) : State :=
  let sc := if p = q then scope else max scope 3
  match p with
  | 0 => flush s g.gid g.core sc false
  | 4 => flush s g.gid g.core sc true
  | _ => performWhere s (SqEntry.engineOf g p)

/-- A write that FENCEX would perform and that has to wait (R343, R405). -/
def pathBlocked (s : State) (g : Group) (p q scope : Nat) : Option Place :=
  let sc := if p = q then scope else max scope 3
  match p with
  | 0 => (flushBlocked s g.gid g.core (onL sc)).map SqEntry.place
  | 4 => (flushBlocked s g.gid g.core fun x => if x then sc else 0).map SqEntry.place
  | _ => performBlocked s (SqEntry.engineOf g p)

/-- The stall reason of FENCEX by its producing path (R156). -/
def pathReason (p : Nat) : Nat := if p = 2 || p = 3 then 11 else 3

/-- FENCEX (R156, R212, R292, R322). -/
def execFencex (f : FencexForm) (s : State) : Out State :=
  gateAs (pathReason f.p.toNat) s (modUse f.m) false true fun g =>
    let ex := executing s g f.g
    let tx := txLanes s g ex
    let p := f.p.toNat
    let r := pathReason p
    if ex.isEmpty then .next s.advance
    else if !tx.isEmpty then .next (raiseIn s 0x0C tx)
    else match (if p = 2 || p = 3 then copyFault s g (fun _ => true) else none) with
      | some x => .next (raiseDeferred s g x)
      | none =>
        if !g.fl.walks.isEmpty || pathBusy s g p then .next (stall s r)
        else match pathBlocked s g p f.q.toNat f.scope.toNat with
          | some x => .next (stall (askHost s x 32 true) r)
          | none =>
            let s := pathFlush s g p f.q.toNat f.scope.toNat
            let s := if f.q = 2 then s.updCluster (coreClu g.core) fun c => { c with fcache := [] } else s
            .next s.advance

/-! ## Case banks -/

/-- The bank of a Case address, and whether it is through the block view. -/
def bankAt (s : State) (g : Group) (ea : DWord) : Option (Nat × Bool) :=
  match classify s g ea with
  | .caseAt _ k _ own => some (k, own)
  | _ => none

/-- A bank mode code (R160). -/
def bankMode (v : Nat) : Option BankMode :=
  match v with
  | 0 => some .cache
  | 1 => some .scratch
  | 2 => some .fifo
  | _ => none

/-- An address of a group lies in a bank of its cluster. -/
def inBank (s : State) (g : Group) (bank : Nat) (ea : DWord) : Bool := (bankAt s g ea).any fun b => b.1 == bank

/-- `m` rows of `n` bytes at a pitch, given by offsets of the block view, touch a bank: a row shorter than a bank by its ends. -/
def rowsInBank (s : State) (g : Group) (bank o pitch n m : Nat) : Bool :=
  let at_ (o : Nat) : Bool := ((s.block? g.bid).bind fun b => blockView b o).any fun x => x.1 == bank
  n != 0 && (List.range m).any fun i => at_ (o + i * pitch) || at_ (o + i * pitch + n - 1)

/-- A matrix command reads or writes a bank of its block (R214). -/
def MCmd.usesBank (s : State) (g : Group) (bank : Nat) (c : MCmd) : Bool :=
  let off (u : DWord) : Nat := (u.extractLsb' 0 22).toNat
  let pitch (u : DWord) : Nat := (u.extractLsb' 32 16).toNat
  let m := (c.u2.extractLsb' 0 7).toNat
  match c.ins with
  | .mload _ => rowsInBank s g bank (off c.u1) (pitch c.u1) 96 256
  | .mloads _ => rowsInBank s g bank (off c.u1) (pitch c.u1) 384 256 || rowsInBank s g bank (off c.u2) (pitch c.u2) 48 256
  | .mstream f => rowsInBank s g bank (off c.u1) (pitch c.u1) (if f.win then 384 else 96) m
  | .mstreams f => rowsInBank s g bank (off c.u1) (pitch c.u1) (if f.win then 384 else 96) m ||
      rowsInBank s g bank (off c.u3) (pitch c.u3) (if f.win then 48 else 12) m
  | .mdrain f =>
    let d := drainCtl c.u3 c.u3a c.u3b
    let area (ea : DWord) (pitch bytes : Nat) : Bool := (List.range d.m).any fun i =>
      let a := ea + BitVec.ofNat 64 (i * pitch)
      inBank s g bank a || inBank s g bank (a + BitVec.ofNat 64 (bytes - 1))
    area c.u1 d.dpitch (rowBytes f.dfmt) || (f.res && area c.u2 d.rpitch (rowBytes f.rfmt))
  | _ => false

/-- A copy request reads or writes a bank of its block. -/
def ImpReq.usesBank (s : State) (g : Group) (bank : Nat) (r : ImpReq) : Bool :=
  let c := copyReq r.req
  !c.page && (c.rows false ++ c.rows true).any fun a => inBank s g bank a || inBank s g bank (a + BitVec.ofNat 64 (c.xb - 1))

/-- A Fount command reads or writes a bank of its block: through its handle, or at a lane's offset. -/
def fountUsesBank (s : State) (g : Group) (bank entry bits : Nat) (lanes : List (Word × Word × Option Nat)) : Bool :=
  lanes.any fun (x, y, off) => (fetchAddrs entry bits x y).any (inBank s g bank) ||
    off.any fun o => rowsInBank s g bank o 0 32 1

/-- An access is under way that a switch of a bank waits for (R160, R214): the engine commands of the issuing group's block that
use the bank, FETCHes of its groups among them, whether they are on their way, not translated yet, or logged. -/
def bankInUse (s : State) (g : Group) (bank : Nat) : Bool :=
  let e := s.engine g.core
  e.queue.any (fun c => c.bid == g.bid && c.incomplete && c.usesBank s g bank) ||
  e.imps.any (fun r => r.bid == g.bid && r.usesBank s g bank) ||
  e.fetchcs.any (fun c => c.bid == g.bid && fountUsesBank s g bank c.h.entry 256 (c.lanes.map fun (_, x, y, o) => (x, y, some o))) ||
  s.groups.any fun h => h.bid == g.bid &&
    (h.fl.fetches ++ (h.fl.walks ++ h.fl.opLog).filter fun m => m.kind == .fetch).any fun m => fountUsesBank s h bank m.handle 32 (m.threads.map fun t => (t.coords.1, t.coords.2, none))

/-- Queued writes to a bank reach it. -/
def bankFlush (s : State) (clu bank : Nat) : State :=
  performWhere s fun e => match e.place with
    | .case k => k / 2 ^ 16 == clu * 64 + bank
    | .mem _ => false

/-- CASEMODE (R160): the named banks start to switch and the group waits; it goes on once every one of them is in its
mode or has completed its switch (step 4), and none of the others is switching. Other groups' accesses to a switching bank wait. DESIGN CHOICE (log 52): the manual names no stall
reason for these waits. A lane's access to a switching bank counts under 3, a Fount or Imposer command's under 11, a matrix
command's under 15; CASEMODE counts its wait for accesses under way under 11 and its wait for a switch under 15. -/
def execCasemode (f : CaseForm) (s : State) : Out State :=
  gate s (Use.v f.d.toNat :: baseUses f.m f.b) false false fun g =>
    let ex := executing s g f.g
    let tx := txLanes s g ex
    let ea := fun t => effAddr g f.m (threadLane s g t) f.b 0
    let bad := ex.filter fun t => match bankAt s g (ea t) with
      | some (_, own) => !own || (bankMode ((threadLane s g t).reg f.d.toNat).toNat).isNone
      | none => true
    if ex.isEmpty then .next s.advance
    else if !tx.isEmpty then .next (raiseIn s 0x0C tx)
    else if !bad.isEmpty then .next (raiseNow s (faultOf s 0x07 bad (bad.map fun t => (t, ea t))))
    else
      let clu := coreClu g.core
      let want : List (Nat × BankMode) := ex.foldl (fun acc t =>
        match bankAt s g (ea t), bankMode ((threadLane s g t).reg f.d.toNat).toNat with
        | some (k, _), some md => listPut acc k md
        | _, _ => acc) []
      let done := g.hold.switched.getD []
      let left := want.filter fun (k, _) => !done.contains k
      let todo := left.filter fun (k, md) => (s.bank clu k).mode != md
      let note (ks : Option (List Nat)) (s : State) : State :=
        s.updGroup g.gid fun g => { g with hold := { g.hold with switched := ks } }
      if left.any fun (k, _) => (s.bank clu k).switch.isSome then .next (stall s 15)
      else if todo.isEmpty then .next (note none s).advance
      else if !g.fl.walks.isEmpty then .next (stall s 12)
      else if todo.any fun (k, _) => bankInUse s g k then .next (stall s 11)
      else match flushBlocked s g.gid g.core (onL 1) with
        | some e => .next (stall (askHost s e.place 32 true) (flushReason s e))
        | none =>
          let rest := (want.map (·.1)).filter fun k => !todo.any fun t => t.1 == k
          .next (stall (note (some rest) (todo.foldl (fun s (k, md) =>
            (bankFlush s clu k).updBank clu k fun b => { b with switch := some (md, g.gid) }) (drainQueue s g.gid))) 15)

/-- The executing threads of FPUSH or FPOP with their banks, after the checks of R173. -/
def fifoOp (f : CaseForm) (d : Use) (s : State) (reason : Nat) (room : Nat → Nat → Bool) (k : Group → List (Nat × Nat) → State) :
    Out State :=
  gate s (d :: baseUses f.m f.b) false true fun g =>
    let ex := executing s g f.g
    let tx := ex.filter fun t => (threadLane s g t).tx.logging
    let ea := fun t => effAddr g f.m (threadLane s g t) f.b 0
    let clu := coreClu g.core
    let odd := ex.filter fun t => (ea t).toNat % 4 != 0
    let wait := ex.any fun t => match bankAt s g (ea t) with
      | some (b, _) => (s.bank clu b).switch.isSome
      | none => false
    let bad := ex.filter fun t => match bankAt s g (ea t) with
      | some (b, _) => (s.bank clu b).mode != .fifo
      | none => true
    if ex.isEmpty then .next s.advance
    else if !tx.isEmpty then .next (raiseIn s 0x0C tx)
    else if !odd.isEmpty then .next (raiseNow s (faultOf s 0x08 odd (odd.map fun t => (t, ea t))))
    else if wait then .next (stall s reason)
    else if !bad.isEmpty then .next (raiseNow s (faultOf s 0x07 bad (bad.map fun t => (t, ea t))))
    else if !g.fl.walks.isEmpty then .next (stall s 12)
    else
      let ts := ex.filterMap fun t => (bankAt s g (ea t)).map fun b => (t, b.1)
      if ts.all fun (_, b) => room b (ts.filter fun x => x.2 == b).length then
        (match flushBlocked s g.gid g.core (onL 1) with
         | some e => .next (stall (askHost s e.place 32 true) reason)
         | none => .next (progress (k g ts) g.gid).advance)
      else .next (stall s reason)

/-- Words a FIFO bank holds (R161). -/
def fifoDepth : Nat := 16384

/-- FPUSH (R161). -/
def execFpush (f : CaseForm) (s : State) : Out State :=
  let clu := ((s.cur).map fun g => coreClu g.core).getD 0
  fifoOp f (Use.v f.d.toNat) s 4 (fun b n => (s.bank clu b).fifo.length + n ≤ fifoDepth) fun g ts =>
    ts.foldl (fun s' (t, b) =>
      s'.updBank clu b fun x => { x with fifo := x.fifo ++ [(threadLane s g t).reg f.d.toNat] }) (drainQueue s g.gid)

/-- FPOP (R161). -/
def execFpop (f : CaseForm) (s : State) : Out State :=
  let clu := ((s.cur).map fun g => coreClu g.core).getD 0
  fifoOp f (Use.d f.d.toNat) s 3 (fun b n => n ≤ (s.bank clu b).fifo.length) fun g ts =>
    ts.foldl (fun s' (t, b) =>
      let w := ((s'.bank clu b).fifo.head?).getD 0
      setThread (s'.updBank clu b fun x => { x with fifo := x.fifo.drop 1 }) g.gid s.iss.helper t fun x =>
        x.setReg f.d.toNat w) (drainQueue s g.gid)

end Sys2Proof.Machine
end

