-- ==== Sys2Proof/Machine/EventMem.lean ====
section
/-!
DEFINITION. Events of the memory instructions: completions (R144, R196, R236), queued writes (R146, R152, R291), page
walks (R380, R386, R387), a bank's mode switch (R160), stamps (R341), poison (R392), the end of a YIELD (R129).
-/

namespace Sys2Proof.Machine

/-- An event answers its next state, or does not happen. -/
def event (name : String) (o : Option State) : Out State :=
  match o with
  | some s => .next s
  | none => .refused (.notEnabled name)

/-- YIELD_END (R129): the next issue is forced, of the handler where it was the handler that yielded. -/
def execYieldEnd (g : Nat) (s : State) : Out State :=
  event "YIELD_END" <| (s.group? g).bind fun x =>
    match x.hold.idleTo with
    | some t => if t ≤ s.clock then
        some (s.updGroup g fun x => { x with hold :=
          if x.hold.idlePriv then { x.hold with idleTo := none, idlePriv := false, forcedPriv := true }
          else { x.hold with idleTo := none, forced := true } })
      else none
    | none => none

/-- LOAD_COMPLETE (R144): the values reach their registers. -/
def execLoadComplete (g k : Nat) (s : State) : Out State :=
  event "LOAD_COMPLETE" <| (s.group? g).bind fun x =>
    match x.fl.loads[k]? with
    | none => none
    | some l =>
      if l.vals.isEmpty then none
      else
        let s := s.updGroup g fun x => { x with fl := { x.fl with loads := x.fl.loads.eraseIdx k } }
        let s := l.vals.foldl (fun s v => setThread s g l.helper v.t fun y =>
          if l.pair then y.setPair l.dst v.val else y.setReg l.dst (loWord v.val)) s
        some (closeLig s g)

/-! ## Queued writes -/

/-- The oldest queued write of a group. -/
def oldest (s : State) (g : Nat) : Option SqEntry := s.sq.find? fun e => e.gid == g

/-- The writes that are performed at their homes as a group's oldest one leaves the queue: itself where it goes there, the group's held
one, and for a release beyond the cluster those it takes along (R289, R291). -/
def sentHome (s : State) (e : SqEntry) : List SqEntry :=
  mustOf (fun f => (f.id == e.id && e.goesHome s) || (f.gid == e.gid && f.sync && f.heldBack) ||
    (e.rel && e.scope.toNat ≥ 3 && f.shownOn e.gid e.core e.pathX)) (s.wp ++ [e])

/-- A place of a write that goes home with a group's oldest one, itself among them, that has to be waited for. -/
def heldPlace (s : State) (e : SqEntry) : Option Place := (sentHome s e).findSome? (SqEntry.waitPlace s)

/-- The group's oldest queued write goes on; a line the host holds is asked for first, once. -/
def sendOldest (s : State) (g : Nat) (e : SqEntry) : Option State :=
  match heldPlace s e with
  | none => some (passOldest s g)
  | some p => askOnce s p 1 true

/-- STORE_WRITE_POINT (R146). -/
def execStoreWritePoint (g : Nat) (s : State) : Out State :=
  event "STORE_WRITE_POINT" <| (oldest s g).bind fun e =>
    match e.kind with
    | .store _ => sendOldest s g e
    | .red _ _ _ _ => none

/-- RED_PERFORM (R152). -/
def execRedPerform (g : Nat) (s : State) : Out State :=
  event "RED_PERFORM" <| (oldest s g).bind fun e =>
    match e.kind with
    | .store _ => none
    | .red _ _ _ _ => sendOldest s g e

/-- The writes that are performed before or with one past the write point. -/
def mustPerform (s : State) (e : SqEntry) : List SqEntry := mustOf (fun f => f.id == e.id) s.wp

/-- STORE_PERFORMED_AT_SCOPE (R291): a write past the write point is performed at a scope, at least its own when it is
held back as a synchronisation store. -/
def execStorePerformedAtScope (k : Nat) (scope : BitVec 3) (s : State) : Out State :=
  event "STORE_PERFORMED_AT_SCOPE" <| (s.wp[k]?).bind fun e =>
    let n := scope.toNat
    if n ≤ 1 || n > 4 || (n = 2 && e.vis ≥ 2) || (e.heldBack && n < e.scope.toNat) then none
    else
      match if n ≥ 3 then (mustPerform s e).findSome? (SqEntry.waitPlace s) else none with
      | some p => askOnce s p 1 true
      | none =>
        let s := showWhere s n fun f => f.id == e.id
        some { s with wp := s.wp.map fun f => if f.id == e.id then { f with heldBack := false } else f }

/-! ## Page walks -/

/-- The oldest instructions of a group that are not translated enter the operand log, in order (R387). What an abort on the way
has dropped does not. -/
def logWalks (s : State) (g : Nat) : Nat → State
  | 0 => s
  | n + 1 =>
    match s.group? g with
    | none => s
    | some x =>
      match x.fl.walks.find? fun m => !m.helper with
      | none => s
      | some m =>
        let s := s.updGroup g fun x => { x with fl := { x.fl with walks := x.fl.walks.eraseP fun m => !m.helper } }
        logWalks (enterLog s x m (m.failing s x .translation)) g n

/-- A walk ends with a translation fault (R387, R371): a helper's or a handler's is a fault at once, lanes in speculative
mode take an ordered rerun, otherwise the instruction enters the operand log with those behind it. -/
def walkFails (s : State) (x : Group) (m : MemOp) (fails : List (Nat × DWord)) : State :=
  if m.helper || x.priv != .user then
    let r := m.fault s 0x06 fails
    raise ((s.countEvent x.core 8 1).updGroup x.gid Group.nextWalk) x.gid (if m.helper then liftHelper x r else r)
  else
    let spec := (fails.filter fun f => (m.lane x f.1).tx.speculative).map (·.1)
    if spec.length = fails.length then dropTxLanes s x.gid spec else logWalks s x.gid x.fl.walks.length

/-- PAGE_WALK (R380, R386): the oldest instruction of a group that is not translated is translated and takes effect, or
raises its fault, that of its address class first (R173). It waits while a bank it names is switching (R160); a table entry that has
to be waited for is asked for first (R343, R405), and a helper's fault or a handler's waits for FETCHes on their way (R372). -/
def execPageWalk (g : Nat) (s : State) : Out State :=
  event "PAGE_WALK" <| (s.group? g).bind fun x =>
    match x.fl.walks with
    | [] => none
    | m :: _ =>
      if switching s x m then none
      else match m.held s x with
      | some p => askOnce s p 8 false
      | none =>
        let fails := if (rowClass s x m).isEmpty then m.failing s x .translation else []
        if fails.isEmpty then (walkIssue s x m).map fun s => raiseStanding (closeLig s g) g
        else if (m.helper || x.priv != .user) && !x.fl.fetches.isEmpty then none
        else some (walkFails s x m fails)

/-! ## LDV and FETCH -/

/-- What a lane of a waiting LDV finds now. -/
def ldvNow (s : State) (x : Group) (m : MemOp) (p : Placed) : LdvAns := ldvAt (loadSector s x p.x).2 m.num (sectorOff p.x) m.size

/-- The lanes of a waiting LDV whose sector has become missing, with their addresses. -/
def ldvMissing (s : State) (x : Group) (m : MemOp) : List (Nat × DWord) :=
  (m.placed s x).filterMap fun p => match ldvNow s x m p with
    | .missing => some (p.th.t, p.th.ea)
    | _ => none

/-- The lanes of a waiting LDV whose impression is sealed and whose sector is poisoned, with their addresses (R392). -/
def ldvPoison (s : State) (x : Group) (m : MemOp) : List (Nat × DWord) :=
  (m.placed s x).filterMap fun p => match ldvNow s x m p with
    | .val _ => if sectorPoison s p.x then some (p.th.t, p.th.ea) else none
    | _ => none

/-- The LDV of a group at position `k`, with the places of its lanes whose impressions are sealed or missing. -/
def ldvReady (s : State) (x : Group) (k : Nat) : Option (MemOp × List Place) :=
  (x.fl.ldvs[k]?).bind fun m =>
    let ps := (m.placed s x).filter fun p => match ldvNow s x m p with
      | .waits => false
      | _ => true
    if ps.isEmpty then none else some (m, ps.map (·.x.place))

/-- The deferred impression-missing fault of a waiting LDV (R196): kept for the next instruction; a helper's is a fault of
the ligature at once; where every lane has exited it ends the grid. -/
def ldvFault (s : State) (x : Group) (m : MemOp) (miss : List (Nat × DWord)) : State :=
  let r := { m.fault s 0x0A miss with deferred := true, info := galleyInfo s x m.tr miss }
  if m.helper then raise s x.gid (liftHelper x { r with deferred := false })
  else if (List.range 32).all fun l => (x.lane l).st == .exited then raiseGrid s x r
  else s.updGroup x.gid fun x => { x with fl := { x.fl with deferred := x.fl.deferred ++ [r] } }

/-- LDV_WAIT_END (R196): lanes whose impressions are sealed take their bytes; missing ones end with a deferred fault; a poisoned
one ends the grid (R392). A word that the host or a commit batch holds is waited for (R343, R405), and a helper's fault waits for
FETCHes on their way (R372). -/
def execLdvWaitEnd (g k : Nat) (s : State) : Out State :=
  event "LDV_WAIT_END" <| (s.group? g).bind fun x =>
    (ldvReady s x k).bind fun (m, ps) =>
      match ps.find? fun p => waitsHome s p m.size false with
      | some p => askOnce s p m.size false
      | none =>
        let miss := ldvMissing s x m
        let bad := ldvPoison s x m
        if m.helper && !miss.isEmpty && !x.fl.fetches.isEmpty then none
        else if !bad.isEmpty then
          some (raise s g (let r := m.fault s 0x09 bad; if m.helper then liftHelper x r else r))
        else
          let s := (ldvCapture s g).updGroup g fun x => x.cutLdv m (miss.map (·.1))
          match s.group? g with
          | none => some s
          | some x => some (closeLig (if miss.isEmpty then s else ldvFault s x m miss) g)

/-- FETCH_COMPLETE (R236): the Fount answers; where translation fails now, the FETCH enters the operand log (R387). -/
def execFetchComplete (g k : Nat) (s : State) : Out State :=
  event "FETCH_COMPLETE" <| (s.group? g).bind fun x =>
    (x.fl.fetches[k]?).bind fun m =>
      let drop (s : State) : State := s.updGroup g fun x => { x with fl := { x.fl with fetches := x.fl.fetches.eraseIdx k } }
      let fails := m.failing s x .translation
      if !fails.isEmpty then
        some (if x.priv != .user then raise (drop s) g (m.fault s 0x06 fails) else enterLog (drop s) x m fails)
      else
        let (s', r) := fetchValues s x m
        match r.held with
        | some p => askOnce s p 32 false
        | none => some (raiseStanding (closeLig (takeFetch (drop s') x m r) g) g)

/-! ## Case banks, stamps, poison -/

/-- The bytes of a bank are all zero (R159, R160). -/
def zeroBank (s : State) (clu bank : Nat) : State :=
  { s with caseMem := s.caseMem.filter fun c => c.1 / 65536 != clu * 64 + bank }

/-- The group's waiting CASEMODE has one bank more in its mode (R160 step 4). -/
def Group.bankDone (bank : Nat) (g : Group) : Group :=
  { g with hold := { g.hold with switched := g.hold.switched.map fun ks => ks ++ [bank] } }

/-- CASEMODE_COMPLETE (R160): the bank enters its new mode, a scratchpad with every byte zero, a FIFO empty; the CASEMODE that
waits for it has it behind it. -/
def execCasemodeComplete (clu bank : Nat) (s : State) : Out State :=
  event "CASEMODE_COMPLETE" <| match (s.bank clu bank).switch with
    | none => none
    | some (md, gid) =>
      let s := (zeroBank s clu bank).updBank clu bank fun b => { b with mode := md, switch := none, fifo := [] }
      some (s.updGroup gid (Group.bankDone bank))

/-- STAMP_EVICTION (R341): the slice records the largest stamp it has evicted, and the frame's next stamp is that plus
one. -/
def execStampEviction (frame : Nat) (s : State) : Out State :=
  event "STAMP_EVICTION" <|
    if inHbm (frame * 256) then
      let k := homeSlice (frame * 256)
      let n := max (listGet 0 s.evicted k) (stampOf s frame)
      some { s with evicted := listPut s.evicted k n, stamps := listPut s.stamps frame (n + 1) }
    else none

/-- SECTOR_POISONED (R392): a sector of device memory, or of a host or pool line in the device cache. -/
def execSectorPoisoned (sector : Nat) (s : State) : Out State :=
  event "SECTOR_POISONED" <|
    if (inHbm (sector * 32) || s.host.l3.any fun l => l.line == sector / 2 && l.st != .i) && !s.poison.contains sector then
      some { s with poison := insertNat sector s.poison }
    else none

end Sys2Proof.Machine
end

