-- ==== Sys2Proof/Machine/MatrixOps.lean ====
section
/-!
DEFINITION. The matrix engine (R215 to R233, R310 to R320): descriptors, plane sets, which command may act, the step sum,
and the rows of a drain.
-/

namespace Sys2Proof.Machine

/-! ## Operands in the Case (R218 to R223) -/

/-- An operand descriptor (R218). -/
structure Desc where
  off : Nat
  pitch : Nat
deriving DecidableEq, Repr

def descOf (u : DWord) : Desc := { off := (u.extractLsb' 0 22).toNat, pitch := (u.extractLsb' 32 16).toNat }

/-- The reserved bits of a descriptor are 0. -/
def descReserved (u : DWord) : Bool := u.extractLsb' 22 10 == 0 && u.extractLsb' 48 16 == 0

/-- Offset and pitch are multiples of 32. -/
def Desc.aligned (d : Desc) : Bool := d.off % 32 == 0 && d.pitch % 32 == 0

/-- Row control (R223): first tile row, and rows. -/
structure RowCtl where
  row0 : Nat
  m : Nat
deriving DecidableEq, Repr

def rowCtl (u : DWord) : RowCtl := { row0 := (u.extractLsb' 8 6).toNat, m := (u.extractLsb' 0 7).toNat }

/-- Row control in range, its reserved bits 0. -/
def rowCtlOk (u : DWord) : Bool :=
  let r := rowCtl u
  u.extractLsb' 14 50 == 0 && !u.getLsbD 7 && 1 ≤ r.m && r.m ≤ 64 && r.row0 + r.m ≤ 64

/-- The bits of a bitmap in bytes, bit j mod 8 of byte j div 8 (R222). -/
def bitmapOf (bs : List Byte) : List Nat :=
  (List.range (8 * bs.length)).filter fun j => (bs.getD (j / 8) 0).getLsbD (j % 8)

/-! ## Plane sets -/

/-- The element width of a matrix format: 4, 8 or 16 bits (R220). -/
def matrixWidth (fmt : BitVec 6) : Nat := ((fmtOfCode fmt).map fmtWidth).getD 8

/-- A matrix format is an integer format. -/
def matrixInt (fmt : BitVec 6) : Bool := ((fmtOfCode fmt).map fmtIsInt).getD false

/-- Blocks per pass (R68). -/
def scaleBlocks (fmt : BitVec 6) (window : Bool) : Nat := if window then 12 else if matrixWidth fmt = 4 then 6 else 3

/-- The scales of the 256 columns of a weight operand (R68): column l + 32k takes S[bs + G k + b] of lane l. -/
def columnScales (bytes : List (List Byte)) (bs g : Nat) : List (List Byte) :=
  (List.range 256).map fun c => (List.range g).map fun b => (bytes.getD (c % 32) []).getD (bs + g * (c / 32) + b) 127

/-- The scales of an A row (R68): row l takes S[bs + b] of lane l, row l + 32 takes S[bs + G + b]. -/
def rowScales (bytes : List (List Byte)) (bs g i : Nat) : List Byte :=
  (List.range g).map fun b => (bytes.getD (i % 32) []).getD (bs + (if i < 32 then 0 else g) + b) 127

/-- The dense set of an MLOAD (R221). -/
def denseSet (s : State) (c : MCmd) (f : MloadForm) : PlaneSet :=
  let d := descOf c.u1
  { planes := 1, sparse := false, depth := 96, fmt := f.fmt, scaled := f.sc,
    cols := (List.range 256).map fun col =>
      (List.range 96).zip (caseBytes s c.bid (d.off + col * d.pitch) 96),
    scales := if f.sc then columnScales c.scales f.bs.toNat (scaleBlocks f.fmt false) else [] }

/-- The set positions of an MLOADS column. -/
def loadBitmap (s : State) (c : MCmd) (col : Nat) : List Nat :=
  let d := descOf c.u2
  bitmapOf (caseBytes s c.bid (d.off + col * d.pitch) 48)

/-- What the count phase of an MLOADS computes (R222, R314): the positions of every column, their values still to come, and the
plane count; the index sets follow from the positions. -/
def countedSet (s : State) (c : MCmd) (f : MloadsForm) : PlaneSet :=
  let cols := (List.range 256).map (loadBitmap s c)
  { planes := cols.foldl (fun n x => max n ((x.length + 95) / 96)) 1, sparse := true, depth := 384, fmt := f.fmt,
    scaled := f.sc, cols := cols.map fun ps => ps.map fun j => (j, 0),
    scales := if f.sc then columnScales c.scales f.bs.toNat 12 else [] }

/-- Where the value extent of an MLOADS, by the counts of its columns, leaves the scratchpad bytes of the block (R222): the
window address of the first end of a column that does. -/
def loadsFault (s : State) (g : Group) (c : MCmd) (p : PlaneSet) : Option DWord :=
  let d := descOf c.u1
  (List.range 256).findSome? fun col =>
    let o := d.off + col * d.pitch
    let n := (p.cols.getD col []).length
    if caseRun s g o n != .bad then none
    else some (0x01FFFFFFFF000000 + BitVec.ofNat 64 (if caseByteOk s g o == .bad then o else o + n - 1))

/-- The packing phase (R222, R314): the values in ascending position, 96 to a plane. -/
def packedSet (s : State) (c : MCmd) (p : PlaneSet) : PlaneSet :=
  let d := descOf c.u1
  { p with cols := p.cols.mapIdx fun col ps => (ps.map (·.1)).zip (caseBytes s c.bid (d.off + col * d.pitch) ps.length) }

/-- The slots of a column in a plane. -/
def PlaneSet.slots (p : PlaneSet) (plane col : Nat) : List (Nat × Byte) := ((p.cols.getD col []).drop (96 * plane)).take 96

/-- The positions some column holds in a plane (R222); every position below the depth of a dense set (R224). -/
def PlaneSet.index (p : PlaneSet) (plane j : Nat) : Bool :=
  if p.sparse then p.cols.any fun c => ((c.drop (96 * plane)).take 96).any fun x => x.1 == j else j < p.depth

/-! ## The step sum (R67, R70 to R72) -/

/-- The value of a scale code. -/
def scaleOf (scaled : Bool) (ss : List Byte) (block : Nat) : FVal :=
  if scaled then decodeElem .x8 (ss.getD block 127).toNat else .fin false 1 0 false

/-- One product with its scales (R67): NaN when a scale is, without a flag of its own. Whether infinity by zero under a NaN
scale sets invalid (R70) or not is open: the model sets no flag (log 63). -/
def productOf (a b sa sb : FVal) : FVal × Flags :=
  if sa.isNan || sb.isNan then (.nan false, 0)
  else
    let (p, f) := mulVal a b
    ((mulVal (mulVal p sa).1 sb).1, f)

/-- The element pairs of a step in a column with their K positions: codes of A and B (R220, R310). -/
def stepPairs (w : Nat) (row : List Byte) (slots : List (Nat × Byte)) : List (Nat × Nat × Nat) :=
  match w with
  | 4 => slots.flatMap fun (j, b) =>
      let a := (row.getD j 0).toNat
      [(2 * j, a % 16, b.toNat % 16), (2 * j + 1, a / 16, b.toNat / 16)]
  | 16 => (List.range (slots.length / 2)).map fun k =>
      let at_ := fun (i : Nat) => ((slots.getD i (0, 0)).2).toNat
      (k, (row.getD (2 * k) 0).toNat + 256 * (row.getD (2 * k + 1) 0).toNat, at_ (2 * k) + 256 * at_ (2 * k + 1))
  | _ => slots.map fun (j, b) => (j, (row.getD j 0).toNat, b.toNat)

/-- Whether a value is a non-zero finite one. -/
def valNonzero : FVal → Bool
  | .fin _ m _ _ => m != 0
  | _ => false

/-- floor(log2 |x|) of a finite non-zero value. -/
def valLog2 : FVal → Int
  | .fin _ m e _ => floorLog2 m e
  | _ => 0

/-- A finite value truncated to a multiple of 2^q (R71). -/
def valTrunc (q : Int) : FVal → FVal
  | .fin n m e _ => .fin n (if q ≤ e then m <<< (e - q).toNat else m >>> (q - e).toNat) (if m = 0 then e else q) false
  | x => x

/-- The products of a step on the grid of 2^(Emax - 40) (R71). -/
def truncProducts (ps : List FVal) : List FVal :=
  match (ps.filter valNonzero).map valLog2 with
  | [] => ps
  | e :: es => let emax := es.foldl max e; ps.map (valTrunc (emax - 40))

/-- An infinity of a sign. -/
def valInf (neg : Bool) : FVal → Bool
  | .inf n => n == neg
  | _ => false

/-- The sum of a step's products (R70): infinities of both signs are invalid, any NaN gives a NaN. -/
def stepSum (ps : List FVal) : FVal × Flags :=
  let up := ps.any (valInf false)
  let dn := ps.any (valInf true)
  let f := if up && dn then flagInvalid else 0
  if ps.any FVal.isNan || (up && dn) then (.nan false, f)
  else if up then (.inf false, f)
  else if dn then (.inf true, f)
  else match ps with
    | [] => (.fin false 0 0 false, f)
    | p :: r => (r.foldl (fun a b => (addVal false a b).1) p, f)

/-- The exact integer value of a code. -/
def codeInt (f : Fmt) (code : Nat) : Int :=
  match decodeElem f code with
  | .fin n m _ _ => if n then -(m : Int) else m
  | _ => 0

/-- One element accumulated (R70 to R72): the new tile word and the flags; no product leaves it as it is. -/
def accumulate (fa fb : Fmt) (sat : Bool) (acc : Word) (pairs : List (Nat × Nat × Nat)) (scales : Nat → FVal × FVal) :
    Word × Flags :=
  if pairs.isEmpty then (acc, 0)
  else if fmtIsInt fa then
    (intResult 32 sat (acc.toInt + pairs.foldl (fun t (_, a, b) => t + codeInt fa a * codeInt fb b) 0), 0)
  else
    let ps := pairs.map fun (j, a, b) => productOf (decodeElem fa a) (decodeElem fb b) (scales j).1 (scales j).2
    let f := ps.foldl (fun f p => f ||| p.2) 0
    let (q, f1) := stepSum (if fmtWidth fa = 16 then truncProducts (ps.map (·.1)) else ps.map (·.1))
    let (v, f2) := addVal false (f32 acc) q
    let (w, f3) := roundF32 v
    (w, f ||| f1 ||| f2 ||| f3)

/-! ## Streams -/

/-- What the two stream instructions share (R219, R223). -/
structure StreamArgs where
  fmt : BitVec 6
  sc : Bool
  bs : Nat
  tile : Nat
  sat : Bool
  swap : Bool
  win : Bool
  bitmap : Bool
deriving DecidableEq, Repr

/-- The stream of a command. -/
def MCmd.stream? (c : MCmd) : Option StreamArgs :=
  match c.ins with
  | .mstream f => some { fmt := f.fmt, sc := f.sc, bs := f.bs.toNat, tile := f.tile.toNat, sat := f.sat, swap := f.swap,
                         win := f.win, bitmap := false }
  | .mstreams f => some { fmt := f.fmt, sc := f.sc, bs := f.bs.toNat, tile := f.tile.toNat, sat := f.sat, swap := f.swap,
                          win := f.win, bitmap := true }
  | _ => none

def StreamArgs.depth (a : StreamArgs) : Nat := if a.win then 384 else 96

/-- The set positions of a bitmap-compressed A row (R223). -/
def rowBitmap (s : State) (c : MCmd) (a : StreamArgs) (i : Nat) : List Nat :=
  let d := descOf c.u3
  bitmapOf (caseBytes s c.bid (d.off + i * d.pitch) (a.depth / 8))

/-- A row of the stream on the window bus (R223, R315). -/
def streamRow (s : State) (c : MCmd) (a : StreamArgs) (i : Nat) : List Byte :=
  let d := descOf c.u1
  if a.bitmap then
    let ps := rowBitmap s c a i
    let vs := ps.zip (caseBytes s c.bid (d.off + i * d.pitch) ps.length)
    (List.range a.depth).map fun j => ((vs.find? fun x => x.1 == j).map (·.2)).getD 0
  else caseBytes s c.bid (d.off + i * d.pitch) a.depth

/-- Step n of a stream over m rows is executed (R224): plane n div m, row n mod m. -/
def stepRuns (s : State) (c : MCmd) (a : StreamArgs) (p : PlaneSet) (m n : Nat) : Bool :=
  !a.bitmap || (rowBitmap s c a (n % m)).any fun j => p.index (n / m) j

/-- The position of the step register is within the extent of a stream of m rows (R232). -/
def StepReg.within (r : StepReg) (planes m : Nat) : Bool := r.row < m && r.plane < planes

/-- The step a stream in progress stands before (R224): past the last row of a plane, row 0 of the next one. -/
def StepReg.pos (r : StepReg) (m : Nat) : Nat := if r.row < m then r.plane * m + r.row else (r.plane + 1) * m

/-- The next executed step from n on. -/
def nextStep (s : State) (c : MCmd) (a : StreamArgs) (p : PlaneSet) (m n : Nat) : Option Nat :=
  ((List.range (p.planes * m)).drop n).find? fun k => stepRuns s c a p m k

/-- The executed step a running stream is to take next. -/
def pendingStep (s : State) (r : StepReg) (c : MCmd) : Option Nat :=
  match c.stream?, c.set with
  | some a, some p =>
    nextStep s c a p (rowCtl c.u2).m (r.pos (rowCtl c.u2).m)
  | _, _ => none

/-- A stream accepts the set it binds (R224). -/
def suitable (a : StreamArgs) (p : PlaneSet) : Bool :=
  p.planes != 0 && p.depth == a.depth && matrixWidth p.fmt == matrixWidth a.fmt && matrixInt p.fmt == matrixInt a.fmt

/-! ## Order within the engine (R217, R311 to R313) -/

/-- The tiles a command names. -/
def MCmd.tiles (c : MCmd) : List Nat :=
  match c.ins with
  | .mzero f => [f.tile.toNat]
  | .mdrain f => [f.tile.toNat]
  | .mmova _ => c.vals.foldl (fun acc v => insertNat ((v.1.extractLsb' 14 2).toNat) acc) []
  | _ => (c.stream?.map fun a => [a.tile]).getD []

/-- The command is an MSWAP. -/
def MCmd.isSwap (c : MCmd) : Bool :=
  match c.ins with
  | .mswap _ => true
  | _ => false

/-- The commands of the queue that came before position `i`. -/
def Engine.before (e : Engine) (i : Nat) : List MCmd := e.queue.take i

/-- A context of an engine. -/
def Engine.ctx (e : Engine) (x : Nat) : MCtx := vget MCtx.reset e.cx x

/-- An earlier command of the same context on one of its tiles is not complete. -/
def tileBusy (e : Engine) (i : Nat) (c : MCmd) : Bool :=
  (e.before i).any fun b => b.x == c.x && b.incomplete && b.tiles.any c.tiles.contains

/-- An earlier stream of the same context is not complete. -/
def laterStream (e : Engine) (i : Nat) (c : MCmd) : Bool :=
  (e.before i).any fun b => b.x == c.x && b.stream?.isSome && b.incomplete

/-- The command at position `i` has an exchange of the sets still to come (R312, R316): a stream that resumes has made
its own. -/
def swapToCome (e : Engine) (i : Nat) (c : MCmd) : Bool :=
  c.isSwap ||
  (c.phase == .queued && !c.swapped && (c.stream?.map StreamArgs.swap).getD false &&
   !((e.ctx c.x).step.sv && !laterStream e i c))

/-- No exchange of an earlier command is still to come. -/
def swapsDone (e : Engine) (i : Nat) : Bool :=
  ((e.before i).mapIdx fun k b => (k, b)).all fun (k, b) => !swapToCome e k b

/-- Every earlier stream and load of the engine is complete, as an exchange asks. -/
def planesQuiet (e : Engine) (i : Nat) : Bool :=
  (e.before i).all fun b => !((b.stream?.isSome || b.isLoad) && b.incomplete)

/-- The command with its position. -/
def Engine.indexed (e : Engine) : List (Nat × MCmd) := e.queue.mapIdx fun i c => (i, c)

/-- A stream is ready at its position once the exchanges before it, its own among them, have taken effect (R312). -/
def streamReady (e : Engine) (i : Nat) (c : MCmd) : Bool :=
  c.stream?.isSome && c.phase == .queued && !laterStream e i c && swapsDone e i && !tileBusy e i c && !swapToCome e i c

/-- The stream of a context that starts next on the idle array, the other context's turn considered (R312). -/
def startable (e : Engine) (x : Nat) : Option MCmd :=
  let ready (x : Nat) := (e.indexed.find? fun (i, c) => c.x == x && streamReady e i c).map (·.2)
  if e.queue.any fun c => c.phase == .running && c.stream?.isSome then none
  else if e.lastStream = x && (ready (1 - x)).isSome then none
  else ready x

/-- The load that acts next: one at a time in arrival order, after every earlier exchange (R312). -/
def loadable (e : Engine) : Option MCmd :=
  (e.indexed.find? fun (_, c) => c.isLoad && c.incomplete).bind fun (i, c) => if swapsDone e i then some c else none

/-- The exchange that takes effect next, of an MSWAP or of a stream with its swap bit set (R312). -/
def swappable (e : Engine) : Option MCmd :=
  (e.indexed.find? fun (i, c) => swapToCome e i c).bind fun (i, c) => if planesQuiet e i then some c else none

/-- The running stream. -/
def runningStream (e : Engine) : Option MCmd := e.queue.find? fun c => c.stream?.isSome && c.phase == .running

/-- The drain of a context that stores its next row: drains run one at a time in issue order (R311). -/
def drainable (e : Engine) (x : Nat) : Option MCmd :=
  (e.indexed.find? fun (_, c) => c.x == x && c.isDrain).bind fun (i, c) =>
    if c.fault.isNone && !tileBusy e i c then some c else none

/-- The command of a context that completes at its tile without a step or a row (R313). -/
def tileCompletable (s : State) (e : Engine) (x : Nat) : Option MCmd :=
  (e.indexed.find? fun (i, c) => c.x == x && c.incomplete && (match c.ins with
    | .mzero _ => !tileBusy e i c
    | .mmova _ => !tileBusy e i c
    | _ => c.stream?.isSome && c.phase == .running && (pendingStep s (e.ctx x).step c).isNone)).map (·.2)

/-! ## Effects -/

/-- Changes a context of a core's engine. -/
def State.updMctx (s : State) (core x : Nat) (f : MCtx → MCtx) : State :=
  s.updEngine core fun e => { e with cx := vset e.cx x (f (e.ctx x)) }

/-- Changes a command of a core's engine. -/
def State.updCmd (s : State) (core : Nat) (c : MCmd) (f : MCmd → MCmd) : State :=
  s.updEngine core fun e => { e with queue := e.queue.map fun d => if d.gid == c.gid && d.seq == c.seq then f d else d }

/-- A context is free, and both sets become empty when neither context is held (R215). -/
def freeContext (s : State) (core x : Nat) : State :=
  s.updEngine core fun e =>
    let cx := vset e.cx x MCtx.reset
    let idle := (vget MCtx.reset cx 0).holder.isNone && (vget MCtx.reset cx 1).holder.isNone
    { e with cx := cx, queue := e.queue.filter (fun c => c.x != x),
             live := if idle then PlaneSet.reset else e.live, shadow := if idle then PlaneSet.reset else e.shadow }

/-- The context of a group that has ended is free once its commands are complete (R127). -/
def releaseEnded (s : State) (core x : Nat) : State :=
  let e := s.engine core
  match (e.ctx x).holder with
  | none => s
  | some gid =>
    if (s.group? gid).isSome || e.queue.any (fun c => c.x == x && c.incomplete) then s else freeContext s core x

/-- A command is complete: it leaves the queue, and its group makes progress (R397). -/
def completeCmd (s : State) (core : Nat) (c : MCmd) : State :=
  releaseEnded (progress (s.updEngine core fun e => { e with queue := e.queue.filter fun d =>
    !(d.gid == c.gid && d.seq == c.seq) }) c.gid) core c.x

/-- The block of the group that holds a context, or of the one that has ended and for which it is still held. -/
def ctxBlock (s : State) (e : Engine) (x : Nat) : Option Nat :=
  match (e.ctx x).holder with
  | none => none
  | some gid => match s.group? gid with
    | some g => some g.bid
    | none => (e.queue.find? fun c => c.x == x).map MCmd.bid

/-- A running stream stands past the last row of a plane, where a stop does not take effect (R316). -/
def MCmd.overRow (e : Engine) (c : MCmd) : Bool :=
  c.stream?.isSome && c.phase == .running && (rowCtl c.u2).m ≤ (e.ctx c.x).step.row

/-- The tile words of a context. -/
def tileWord (m : MCtx) (t i c : Nat) : Word := cellGet (vget [] m.tiles t) (256 * i + c)

def setTileWord (m : MCtx) (t i c : Nat) (w : Word) : MCtx :=
  { m with tiles := vset m.tiles t (cellPut (vget [] m.tiles t) (256 * i + c) w) }

/-- One row of a tile set word by word, in ascending columns. -/
def setTileRow (m : MCtx) (t i : Nat) (ws : List Word) : MCtx :=
  (ws.mapIdx fun c w => (c, w)).foldl (fun m (c, w) => setTileWord m t i c w) m

/-- A stream starts (R224, R312), its exchange having taken effect: it binds the live set; an unsuitable set fails it. One that resumes
beyond its extent takes no step (R232); any other holds a valid position from here on, so that it never exchanges again (R316).
DESIGN CHOICE (log 56): a stream that bound an unsuitable set does not count as the most recent one of R312. -/
def startStream (s : State) (core : Nat) (c : MCmd) (a : StreamArgs) : State :=
  let p := (s.engine core).live
  let r := ((s.engine core).ctx c.x).step
  if suitable a p then
    let s := s.updCmd core c fun c => { c with phase := .running, set := some p }
    let s := s.updEngine core fun e => { e with lastStream := c.x }
    if r.sv && !r.within p.planes (rowCtl c.u2).m then
      completeCmd (s.updMctx core c.x fun m => { m with step := { r with sv := false } }) core c
    else s.updMctx core c.x fun m => { m with step := if r.sv then r else { r with sv := true, row := 0, plane := 0 } }
  else
    progress (s.updCmd core c fun c => { c with phase := .failed (engineRaise 0x12 5 c.pc c.seq 0 false) }) c.gid

/-- The step register when a stream has ended (R224): the position after its last row stays. -/
def StepReg.ended (r : StepReg) (planes m : Nat) : StepReg := { r with sv := false, row := m, plane := planes - 1 }

/-- One executed step (R224): every column of the tile row; then the position after it, or the stream's end. -/
def takeStep (s : State) (core : Nat) (c : MCmd) (a : StreamArgs) (p : PlaneSet) (n : Nat) : State :=
  match fmtOfCode a.fmt, fmtOfCode p.fmt with
  | some fa, some fb =>
    let e := s.engine core
    let m := (rowCtl c.u2).m
    let i := n % m
    let g := scaleBlocks a.fmt a.win
    let row := streamRow s c a i
    let sa := rowScales c.scales a.bs g i
    let x := e.ctx c.x
    let r := (rowCtl c.u2).row0 + i
    let out := (List.range 256).map fun col =>
      accumulate fa fb a.sat (tileWord x a.tile r col) (stepPairs (fmtWidth fa) row (p.slots (n / m) col)) fun j =>
        (scaleOf a.sc sa (j / 32), scaleOf p.scaled (p.scales.getD col []) (j / 32))
    let x := setTileRow { x with flags := out.foldl (fun f o => f ||| o.2) x.flags } a.tile r (out.map (·.1))
    let next := nextStep s c a p m (n + 1)
    let step := match next with
      | some _ => { x.step with sv := true, row := i + 1, plane := n / m }
      | none => x.step.ended p.planes m
    let skipped := (match next with
      | some k => k
      | none => p.planes * m) - (n + 1)
    let s := ((s.updMctx core c.x fun _ => { x with step := step }).countEvent core 4 1).countEvent core 5 skipped
    if next.isNone then completeCmd s core c else s
  | _, _ => s

/-! ## Drains (R226 to R229, R319) -/

/-- The rounding mode of a drain (R226). -/
def drainMode (r : BitVec 3) : RMode :=
  match r.toNat with
  | 2 => .rz
  | 3 => .rd
  | 4 => .ru
  | 5 => .rna
  | _ => .rn

/-- The row a drain stores next, counted from row0 (R228, R232). -/
def drainPos (r : StepReg) : Nat := if r.dv then r.drow else 0

/-- A value rounded to binary32, with its flags; a tile of integers stays exact (R228). -/
def drainRound (it : Bool) (v : FVal × Flags) (f : Flags) : FVal × Flags :=
  if it then (v.1, f ||| v.2)
  else let (w, k) := roundF32 v.1; (f32 w, f ||| v.2 ||| k)

/-- One element through the epilogue (R228): the code and the flags. -/
def drainElem (c : MCmd) (f : MdrainForm) (d : DrainCtl) (i col : Nat) (t : Word) (res : Option FVal) : Nat × Flags :=
  let x : FVal := if f.it then (let v := t.toInt; .fin (v < 0) v.natAbs 0 false) else f32 t
  let (x, k) := drainRound f.it (mulVal x (f32 d.scale)) 0
  let (x, k) := match res with
    | some r => drainRound f.it (addVal false x r) k
    | none => (x, k)
  let draw := (gen c.u62 (d.rowbase + BitVec.ofNat 32 i) (d.colbase + BitVec.ofNat 32 col) (loWord c.u63)).toNat % 65536
  let x := if d.thr != 0 && draw < d.thr then .fin false 0 0 false else x
  match fmtOfCode f.dfmt with
  | some fmt => let (y, j) := roundTo fmt (drainMode f.rnd) f.sat x; (y, k ||| j)
  | none => (0, k)

/-- Codes of a width packed low to high into bytes. -/
def packCodes (w : Nat) (cs : List Nat) : List Byte :=
  leBytes (cs.length * w / 8) (cs.foldr (fun c t => c % 2 ^ w + 2 ^ w * t) 0)

/-- The 32-byte pieces of a row: their addresses and places; every piece has been translated. -/
def rowPieces (f : Frozen) (s : State) (g : Group) (n : Need) (ea : DWord) (bytes : Nat) : List (DWord × Place) :=
  (List.range (bytes / 32)).filterMap fun k =>
    let a := ea + BitVec.ofNat 64 (32 * k)
    match xlateIn f s g n a with
    | .ok x => some (a, x.place)
    | .error _ => none

/-- The residual area and the destination of a drain coincide exactly (R320). -/
def drainInPlace (c : MCmd) (f : MdrainForm) : Bool :=
  let d := drainCtl c.u3 c.u3a c.u3b
  f.res && c.u1 == c.u2 && d.rpitch == d.dpitch && rowBytes f.rfmt == rowBytes f.dfmt

/-- 32 bytes of memory as a drain reads them on path M. -/
def drainBytes (s : State) (g : Group) (p : Place) : List Byte := (List.range 32).map (placeByte s (s.groupTag g) p)

/-- 32 bytes of a residual: where the areas coincide, those from before the drain (R320). -/
def residualBytes (s : State) (g : Group) (c : MCmd) (x : DWord × Place) : List Byte :=
  match c.old.find? fun o => o.1 == x.1 with
  | some o => o.2
  | none => drainBytes s g x.2

/-- What the pieces of a row held before the drain, kept before its first store to them. -/
def keepOld (s : State) (g : Group) (c : MCmd) (ps : List (DWord × Place)) : List (DWord × List Byte) :=
  c.old ++ (ps.filter fun x => !c.old.any fun o => o.1 == x.1).map fun x => (x.1, drainBytes s g x.2)

/-- The site of a command's write on path M. -/
def MCmd.site (c : MCmd) (va : DWord) : EngineSite := { path := 1, pc := c.pc, seq := c.seq, va := va, bar := none }

/-- A table entry that the translation of a drain's row waits for (R343, R405). -/
def rowHeld (s : State) (g : Group) (c : MCmd) (f : MdrainForm) (i : Nat) : Option Place :=
  let d := drainCtl c.u3 c.u3a c.u3b
  (spanHeld c.tr s g (c.u1 + BitVec.ofNat 64 (i * d.dpitch)) (rowBytes f.dfmt)).or
    (if f.res then spanHeld c.tr s g (c.u2 + BitVec.ofNat 64 (i * d.rpitch)) (rowBytes f.rfmt) else none)

/-- The launch site of a command with an address (R379). -/
def MCmd.asyncAt (c : MCmd) (s : State) (code : BitVec 8) (va : DWord) : State :=
  let g := s.issuerOf c.gid c.bid 0 c.prv
  asyncError s g.lid code c.pc c.seq va (s.blockIdx g) g.core g.grp

/-- A drain stores its next row (R228, R229, R319): a residual or store that fails stops it there with its tile pinned; an
error of the memory ends it (R213); a place that has to be waited for is asked for first (R343, R405). DESIGN CHOICE (log 56):
the rows go one by one, each reads its residual before its stores, and the stores reach memory in that order; where residual and
destination overlap but do not coincide, a row reads what has then been performed. -/
def drainRow (s : State) (core : Nat) (c : MCmd) (f : MdrainForm) : Option State :=
  let x := (s.engine core).ctx c.x
  let d := drainCtl c.u3 c.u3a c.u3b
  let i := drainPos x.step
  let g := s.issuerOf c.gid c.bid 0 c.prv
  if d.m ≤ i then
    some (completeCmd (s.updMctx core c.x fun m => { m with step := { m.step with dv := false } }) core c)
  else match rowHeld s g c f i, drainRowFault s g c f i with
    | some p, _ => askOnce s p 8 false
    | none, some (k, va, wr) =>
      some ((s.updCmd core c fun c => { c with phase := .failed (engineRaise k.cls 0 c.pc c.seq va wr) }).updMctx core c.x fun m =>
        { m with step := { m.step with dv := true, drow := i } })
    | none, none =>
      let dst := c.u1 + BitVec.ofNat 64 (i * d.dpitch)
      let src := c.u2 + BitVec.ofNat 64 (i * d.rpitch)
      let outs := rowPieces c.tr s g (engineNeed true c.prv) dst (rowBytes f.dfmt)
      let ins := if f.res then rowPieces c.tr s g (engineNeed false c.prv) src (rowBytes f.rfmt) else []
      match outs.find? (fun p => writeWaits s (s.groupTag g) p.2 32), ins.find? (fun p => waitsHome s p.2 32 false) with
      | some p, _ => askOnce s p.2 32 true
      | none, some p => askOnce s p.2 32 false
      | none, none =>
        match ins.findSome? (fun p => engineError s p.2 32 false), outs.findSome? (fun p => engineError s p.2 32 true) with
        | some code, _ => some (completeCmd (c.asyncAt s code src) core c)
        | none, some code => some (completeCmd (c.asyncAt s code dst) core c)
        | none, none =>
          let resNum := ofLeBytes (ins.flatMap (residualBytes s g c))
          let rw := rowBytes f.rfmt / 32
          let row := (List.range 256).map fun col =>
            drainElem c f d i col (tileWord x f.tile.toNat (d.row0 + i) col)
              (if f.res then (fmtOfCode f.rfmt).map fun r => decodeElem r (resNum / 2 ^ (rw * col) % 2 ^ rw) else none)
          let bytes := packCodes (rowBytes f.dfmt / 32) (row.map (·.1))
          let old := if drainInPlace c f then keepOld s g c outs else []
          let s := engineTouch s g (ins.map (·.2))
          let s := (outs.mapIdx fun k p => (k, p)).foldl
            (fun s (k, p) => engineWrite s g (c.site p.1) p.2 ((bytes.drop (32 * k)).take 32)) s
          let last := i + 1 = d.m
          let s := s.updMctx core c.x fun m =>
            let m := { m with flags := row.foldl (fun k o => k ||| o.2) m.flags,
                              step := { m.step with dv := !last, drow := i + 1 } }
            if f.zr then setTileRow m f.tile.toNat (d.row0 + i) (List.replicate 256 0) else m
          some (if last then completeCmd s core c else s.updCmd core c fun c => { c with phase := .running, old := old })

/-- MWAIT performs the drain stores of a group's commands at .grp (R230): its own path-L accesses see them from here on. -/
def showDrains (s : State) (gid : Nat) : State :=
  { s with wp := s.wp.map fun e => if e.gid == gid && e.path == 1 && e.vis = 0 then { e with vis := 1, heldBack := true } else e }

end Sys2Proof.Machine
end

