-- ==== Sys2Proof/Machine/Matrix.lean ====
section
/-!
DEFINITION. Meanings of the matrix instructions (R207 to R232).
-/

namespace Sys2Proof.Machine

/-! ## Commands -/

/-- The scale bytes of every lane from a base register (R68, R210): the registers stay held, so the values at issue are
those the engine reads. -/
def scaleBytes (g : Group) (r : Option (Nat × Nat)) : List (List Byte) :=
  match r with
  | none => []
  | some (vb, n) => (List.range 32).map fun l => (List.range n).flatMap fun i => leBytes 4 ((g.lane l).reg (vb + i)).toNat

/-- The scale registers an instruction names (R34, R68, R210). -/
def scaleUse (ins : Instr) : List Use :=
  match scaleRegs ins with
  | none => []
  | some (vb, n) => [{ vec := true, n := vb, len := n, even := false, win := false, out := false }]

/-- A command of a group as it enters the engine (R207, R210). -/
def newCmd (s : State) (g : Group) (x : Nat) (ins : Instr) : MCmd :=
  { ins := ins, gid := g.gid, bid := g.bid, prv := g.priv != .user, x := x, seq := nextSeq g.seq, pc := s.iss.addr,
    len := s.iss.len, word := s.iss.word, konst := s.iss.konst, u1 := 0, u2 := 0, u3 := 0, u3a := 0, u3b := 0, u62 := 0,
    u63 := 0, vals := [], scales := scaleBytes g (scaleRegs ins), set := none, old := [], phase := .queued, raised := false,
    swapped := false, tr := s.now g }

/-- The commands of a context that are not complete. -/
def openCmds (e : Engine) (x : Nat) : List MCmd := e.queue.filter fun c => c.x == x && c.incomplete

/-- A matrix command issues (R208 to R211, R216): misalignment, then protection, then room in the context's queue. -/
def matrixIssue (s : State) (uses : List Use) (gd : Guard) (ins : Instr) (odd bad : Group → Bool) (ext : Group → Extent)
    (f : Group → MCmd → MCmd) : Out State :=
  engineGroup s (uses ++ scaleUse ins) true gd fun g =>
    if odd g then raiseAll s 0x08
    else match g.mctx with
      | none => raiseAll s 0x07
      | some x =>
        if bad g then raiseAll s 0x07
        else match ext g with
          | .bad => raiseAll s 0x07
          | .busy => stall s 15
          | .ok =>
            if (openCmds (s.engine g.core) x).length ≥ 8 then stall s 10
            else ((s.updEngine g.core fun e => { e with queue := e.queue ++ [f g (newCmd s g x ins)] }).updGroup g.gid
              fun g => { g with seq := nextSeq g.seq }).advance

/-- No misalignment, no value out of range, no Case extent. -/
def never (_ : Group) : Bool := false
def extentOk (_ : Group) : Extent := .ok

/-- MLOAD (R221). -/
def execMload (f : MloadForm) (s : State) : Out State :=
  let u := fun (g : Group) => g.ureg f.e1.toNat
  matrixIssue s [Use.u f.e1.toNat] f.g (.mload f) (fun g => !(descOf (u g)).aligned) (fun g => !descReserved (u g))
    (fun g => let d := descOf (u g); caseRows s g d.off d.pitch 96 256) fun g c => { c with u1 := u g }

/-- MLOADS (R222): the value extent is checked when the command starts. -/
def execMloads (f : MloadsForm) (s : State) : Out State :=
  let u := fun (g : Group) => g.ureg f.e1.toNat
  let v := fun (g : Group) => g.ureg f.e2.toNat
  matrixIssue s [Use.u f.e1.toNat, Use.u f.e2.toNat] f.g (.mloads f)
    (fun g => !(descOf (u g)).aligned || !(descOf (v g)).aligned) (fun g => !descReserved (u g) || !descReserved (v g))
    (fun g => let d := descOf (v g); caseRows s g d.off d.pitch 48 256) fun g c => { c with u1 := u g, u2 := v g }

/-- MSTREAM (R223, R224). -/
def execMstream (f : MstreamForm) (s : State) : Out State :=
  let u := fun (g : Group) => g.ureg f.e1.toNat
  let r := fun (g : Group) => g.ureg f.e2.toNat
  matrixIssue s [Use.u f.e1.toNat, Use.u f.e2.toNat] f.g (.mstream f) (fun g => !(descOf (u g)).aligned)
    (fun g => !descReserved (u g) || !rowCtlOk (r g))
    (fun g => let d := descOf (u g); caseRows s g d.off d.pitch (if f.win then 384 else 96) (rowCtl (r g)).m)
    fun g c => { c with u1 := u g, u2 := r g }

/-- MSTREAMS (R223, R224): bitmaps, then as many value bytes of each row as its bitmap has bits. -/
def execMstreams (f : MstreamsForm) (s : State) : Out State :=
  let u := fun (g : Group) => g.ureg f.e1.toNat
  let r := fun (g : Group) => g.ureg f.e2.toNat
  let v := fun (g : Group) => g.ureg f.e3.toNat
  let n := if f.win then 48 else 12
  matrixIssue s [Use.u f.e1.toNat, Use.u f.e2.toNat, Use.u f.e3.toNat] f.g (.mstreams f)
    (fun g => !(descOf (u g)).aligned || !(descOf (v g)).aligned)
    (fun g => !descReserved (u g) || !descReserved (v g) || !rowCtlOk (r g))
    (fun g =>
      let m := (rowCtl (r g)).m
      let d := descOf (u g)
      let b := descOf (v g)
      (caseRows s g b.off b.pitch n m).and ((List.range m).foldl (fun e i =>
        e.and (caseRun s g (d.off + i * d.pitch) (bitmapOf (caseBytes s g.bid (b.off + i * b.pitch) n)).length)) .ok))
    fun g c => { c with u1 := u g, u2 := r g, u3 := v g }

/-- One address of a drain's row in the Case: a bank in scratchpad mode (R211, R320). -/
def drainAddr (s : State) (g : Group) (a : DWord) : Extent :=
  match classify s g a with
  | .bad => .bad
  | .caseAt c k _ _ => if (s.bank c k).switch.isSome then .busy else if (s.bank c k).mode = .scratch then .ok else .bad
  | _ => .ok

/-- The rows of an area of a drain, by both of their ends. -/
def drainArea (s : State) (g : Group) (ea : DWord) (pitch bytes m : Nat) : Extent :=
  (List.range m).foldl (fun e i =>
    let a := ea + BitVec.ofNat 64 (i * pitch)
    e.and ((drainAddr s g a).and (drainAddr s g (a + BitVec.ofNat 64 (bytes - 1))))) .ok

/-- MDRAIN (R226 to R228). -/
def execMdrain (f : MdrainForm) (s : State) : Out State :=
  let q := f.e3.toNat
  let dst := fun (g : Group) => g.ureg f.e1.toNat
  let src := fun (g : Group) => if f.res then g.ureg f.e2.toNat else 0
  let ctl := fun (g : Group) => drainCtl (g.ureg q) (g.ureg (q + 1)) (g.ureg (q + 2))
  matrixIssue s [Use.u f.e1.toNat, Use.u f.e2.toNat, { vec := false, n := q, len := 3, even := false, win := false, out := false }] f.g
    (.mdrain f)
    (fun g => (dst g).toNat % 32 != 0 || (ctl g).dpitch % 32 != 0 ||
      (f.res && ((src g).toNat % 32 != 0 || (ctl g).rpitch % 32 != 0)))
    (fun g =>
      let d := ctl g
      (g.ureg q).extractLsb' 46 18 != 0 || (g.ureg q).getLsbD 39 || (g.ureg (q + 1)).extractLsb' 48 16 != 0 ||
      d.m < 1 || d.m > 64 || d.row0 + d.m > 64)
    (fun g =>
      let d := ctl g
      (drainArea s g (dst g) d.dpitch (rowBytes f.dfmt) d.m).and
        (if f.res then drainArea s g (src g) d.rpitch (rowBytes f.rfmt) d.m else .ok))
    fun g c => { c with u1 := dst g, u2 := src g, u3 := g.ureg q, u3a := g.ureg (q + 1), u3b := g.ureg (q + 2),
                        u62 := g.ureg 62, u63 := g.ureg 63 }

/-- MSWAP (R217). -/
def execMswap (f : GForm) (s : State) : Out State := matrixIssue s [] f.g (.mswap f) never never extentOk fun _ c => c

/-- MZERO (R225). -/
def execMzero (f : TileForm) (s : State) : Out State := matrixIssue s [] f.g (.mzero f) never never extentOk fun _ c => c

/-- MMOVA (R225): the values and coordinates of the lanes, the lowest first. -/
def execMmova (f : GDAForm) (s : State) : Out State :=
  matrixIssue s [Use.v f.d.toNat, Use.v f.a.toNat] f.g (.mmova f) never never extentOk fun g c =>
    { c with vals := (List.range 32).map fun l => ((g.lane l).reg f.a.toNat, (g.lane l).reg f.d.toNat) }

/-- The tile, row and column a coordinate register names (R225). -/
def coordTile (w : Word) : Nat × Nat × Nat :=
  ((w.extractLsb' 14 2).toNat, (w.extractLsb' 8 6).toNat, (w.extractLsb' 0 8).toNat)

/-- MMOVV (R225): it waits for the earlier commands on every tile a lane names. -/
def execMmovv (f : GDAForm) (s : State) : Out State :=
  engineGroup s [Use.d f.d.toNat, Use.v f.a.toNat] true f.g fun g =>
    match g.mctx with
    | none => raiseAll s 0x07
    | some x =>
      let e := s.engine g.core
      let ts := (List.range 32).map fun l => (coordTile ((g.lane l).reg f.a.toNat)).1
      if (openCmds e x).any fun c => c.tiles.any ts.contains then stall s 2
      else (s.mapActive fun _ y =>
        let (t, i, c) := coordTile (y.reg f.a.toNat)
        y.setReg f.d.toNat (tileWord (e.ctx x) t i c)).advance

/-! ## Contexts, waiting, status -/

/-- The context an acquire takes (R215). -/
def freeCtx (s : State) (g : Group) : Option Nat :=
  let e := s.engine g.core
  [0, 1].find? fun x =>
    (e.ctx x).holder.isNone && (match ctxBlock s e (1 - x) with
      | none => true
      | some b => b == g.bid)

/-- MCTX acquire (R215). -/
def execMctxAcq (f : GForm) (s : State) : Out State :=
  engineGroup s [] true f.g fun g =>
    if g.mctx.isSome then s.advance
    else match freeCtx s g with
      | none => stall s 10
      | some x =>
        ((s.updMctx g.core x fun _ => { MCtx.reset with holder := some g.gid }).updGroup g.gid fun g =>
          { g with mctx := some x }).advance

/-- A command that only a failed drain ahead of it holds back. -/
def behindPinned (e : Engine) (i : Nat) (gid : Nat) : Bool :=
  (e.before i).any fun b => b.gid == gid && b.isDrain && b.fault.isSome

/-- MWAIT's wait (R230): every command of the group is complete, but for those a pinned drain holds back while its fault
is still to be raised; then the earliest fault, or what follows. -/
def awaitMatrix (s : State) (g : Group) (k : State) : State :=
  let e := s.engine g.core
  if e.indexed.any fun (i, c) => c.gid == g.gid && c.fault.isNone && !behindPinned e i g.gid then stall s 2
  else match matrixFault s g fun _ => true with
    | some r => raiseDeferred s g r
    | none => if e.queue.any fun c => c.gid == g.gid && c.incomplete then stall s 2 else k

/-- What MWAIT does when it has waited (R75, R230): every lane takes the context's flag union, which is cleared, and the group's
path-L accesses see its drain stores. -/
def mergeFlags (s : State) (g : Group) (x : Nat) : State :=
  let f := ((s.engine g.core).ctx x).flags
  ((showDrains s g.gid).updMctx g.core x fun m => { m with flags := 0 }).updGroup g.gid fun g => g.mapLanes fun _ y => y.addFlags f

/-- MWAIT (R216, R230). -/
def execMwait (f : GForm) (s : State) : Out State :=
  engineGroup s [] true f.g fun g =>
    match g.mctx with
    | none => raiseAll s 0x07
    | some x => awaitMatrix s g (mergeFlags s g x).advance

/-- MCTX release (R215): MWAIT first. -/
def execMctxRel (f : GForm) (s : State) : Out State :=
  engineGroup s [] true f.g fun g =>
    match g.mctx with
    | none => s.advance
    | some x => awaitMatrix s g
        ((freeContext (mergeFlags s g x) g.core x).updGroup g.gid fun g => { g with mctx := none }).advance

/-- The mask of the tiles that commands name. -/
def tileMask (cs : List MCmd) : Nat := (maskOf (cs.flatMap MCmd.tiles)).toNat

/-- The status word of MSTAT (R231). -/
def mstatWord (s : State) (g : Group) : DWord :=
  let e := s.engine g.core
  let held := match g.mctx with
    | none => 0
    | some x =>
      let cs := openCmds e x
      2 ^ 24 + 2 ^ 20 * tileMask cs + 2 ^ 16 * tileMask (cs.filter fun c => c.isDrain && c.fault.isSome) + 2 ^ 8 * cs.length
  BitVec.ofNat 64 (held + 2 ^ 7 * bit e.shadow.sparse + 2 ^ 6 * bit e.live.sparse + 2 ^ 3 * e.live.planes + e.shadow.planes)

/-- MSTAT (R231). -/
def execMstat (f : GDForm) (s : State) : Out State :=
  engineGroup s [Use.u f.d.toNat] true f.g fun g =>
    if (s.engine g.core).queue.any fun c => c.gid == g.gid && c.isLoad && c.incomplete then stall s 2
    else match matrixFault s g MCmd.isLoad with
      | some r => raiseDeferred s g r
      | none => (s.updGroup g.gid fun h => h.setUreg f.d.toNat (mstatWord s g)).advance

/-- The step register as MSTEP.GET reads it (R232). -/
def stepWord (r : StepReg) : DWord :=
  BitVec.ofNat 64 (2 ^ 22 * bit r.dv + 2 ^ 16 * (r.drow % 64) + 2 ^ 8 * bit r.sv + 2 ^ 6 * (r.plane % 4) + r.row % 64)

/-- The step register from the value MSTEP.SET writes (R232). -/
def stepOf (u : DWord) : StepReg :=
  { sv := u.getLsbD 8, row := (u.extractLsb' 0 6).toNat, plane := (u.extractLsb' 6 2).toNat, dv := u.getLsbD 22,
    drow := (u.extractLsb' 16 6).toNat }

/-- MSTEP.GET (R232): a command is always at a step or row boundary between two steps of the machine; past the last row of a plane
it waits for the next row, so that the field holds the true position (R316). -/
def execMstepGet (f : GDForm) (s : State) : Out State :=
  engineGroup s [Use.u f.d.toNat] true f.g fun g =>
    let put (w : DWord) : State := (s.updGroup g.gid fun g => g.setUreg f.d.toNat w).advance
    match g.mctx with
    | none => put 0
    | some x =>
      let e := s.engine g.core
      if e.queue.any fun c => c.x == x && c.overRow e then stall s 2 else put (stepWord (e.ctx x).step)

/-- A stream or drain of a context is in progress (R316, R317): a drain that a fault has stopped at a row among them (R229). -/
def inProgress (e : Engine) (x : Nat) : Bool :=
  e.queue.any fun c => c.x == x && (c.phase == .running || (c.isDrain && c.fault.isSome))

/-- MSTEP.SET (R232, R317). -/
def execMstepSet (f : GAForm) (s : State) : Out State :=
  engineGroup s [Use.u f.a.toNat] true f.g fun g =>
    match g.mctx with
    | none => s.advance
    | some x =>
      if inProgress (s.engine g.core) x then stall s 2
      else (s.updMctx g.core x fun m => { m with step := stepOf (g.ureg f.a.toNat) }).advance

end Sys2Proof.Machine
end

