-- ==== Sys2Proof/Machine/EventQueue.lean ====
section
/-!
DEFINITION. Events of the management window (R412 to R421): management registers, queues and doorbells, the fetch of
launch records with their checks (R251, R416), completion (R269, R417), replay doorbells (R389) and the summary (R420).
-/

namespace Sys2Proof.Machine

/-- The management window is live (R435 step 7, R440). -/
def windowLive (s : State) : Bool := s.fw.boot == .running && s.fw.power != .off

/-- A write to the window: ignored until the window is live. -/
def windowWrite (s : State) (k : State → State) : Out State := .next (if windowLive s then k s else s)

/-! ## Queues (R413, R415) -/

/-- A queue enters overrun (R414, R415). -/
def overrun (s : State) (q : Nat) : State := mgmtEvent (s.updQueue q fun x => { x with overrun := true }) 0

/-- A doorbell value is refused: checked against QLAST and QREAD, after a clear of overrun against QREAD alone (R415). -/
def doorBad (x : Queue) (w : Nat) : Bool := w < (if x.anyDoor then x.read else x.last) || w - x.read > 2 ^ x.z || w < x.read

/-- A doorbell (R415). -/
def doorWrite (s : State) (q w : Nat) : State :=
  let x := s.queue q
  if x.overrun then s
  else if doorBad x w then overrun s q
  else s.updQueue q fun x => { x with last := w, anyDoor := false }

/-- QDOOR (R415). -/
def execQdoor (q : BitVec 6) (w : BitVec 64) (s : State) : Out State := windowWrite s fun s => doorWrite s q.toNat w.toNat

/-- The fields of QCTL that stay until written (R413). -/
def qctlFields (x : Queue) (v : BitVec 32) : Queue :=
  let z := if x.en then x.z else (v.extractLsb' 0 5).toNat
  { x with z := z, cls := (v.extractLsb' 8 2).toNat, ctx := (v.extractLsb' 16 6).toNat,
           en := v.getLsbD 24 && 4 ≤ z && z ≤ 16, hold := v.getLsbD 25, evict := v.getLsbD 26, abort := v.getLsbD 27 }

/-- Clearing overrun (R415): the next doorbell is checked against QREAD alone. -/
def clearOverrun (x : Queue) : Queue := if x.overrun then { x with overrun := false, anyDoor := true } else x

/-- The resident blocks of a queue are to be pre-empted (R265). -/
def evictQueue (s : State) (q : Nat) : State :=
  let ids := (s.launches.filter fun l => l.q == q).map Launch.lid
  let mark : Block → Block := fun b =>
    if ids.contains b.lid && (b.phase == .resident || b.phase == .gang) then { b with preempt := true } else b
  { s with blocks := s.blocks.map mark }

/-- A write of QCTL (R413). -/
def qctlWrite (s : State) (q : Nat) (v : BitVec 32) : State :=
  let s := s.updQueue q fun x => qctlFields x v
  let s := if v.getLsbD 28 then s.updQueue q clearOverrun else s
  let s := if v.getLsbD 26 then evictQueue s q else s
  if v.getLsbD 27 then (s.queue q).lids.foldl (fun s l => endGrid s l .aborted) s else s

/-- QCTL as it reads. -/
def qctlWord (x : Queue) : BitVec 32 :=
  BitVec.ofNat 32 (x.z + 2 ^ 8 * x.cls + 2 ^ 16 * x.ctx + 2 ^ 24 * bit x.en + 2 ^ 25 * bit x.hold + 2 ^ 26 * bit x.evict +
    2 ^ 27 * bit x.abort)

/-- QCTL with its action bits as given. -/
def qctlWith (x : Queue) (hold evict abort clear : Bool) : BitVec 32 :=
  (qctlWord { x with hold := hold, evict := evict, abort := abort }) ||| (BitVec.ofNat 32 (2 ^ 28 * bit clear))

/-- QCTL_EN (R413): a write of QCTL. -/
def execQctlEn (q : BitVec 6) (v : BitVec 32) (s : State) : Out State := windowWrite s fun s => qctlWrite s q.toNat v

/-- QCTL_HOLD (R413). -/
def execQctlHold (q : BitVec 6) (on : Bool) (s : State) : Out State :=
  windowWrite s fun s => qctlWrite s q.toNat (qctlWith (s.queue q.toNat) on false false false)

/-- QCTL_EVICT (R413). -/
def execQctlEvict (q : BitVec 6) (s : State) : Out State :=
  windowWrite s fun s => qctlWrite s q.toNat (qctlWith (s.queue q.toNat) (s.queue q.toNat).hold true false false)

/-- QCTL_ABORT (R413). -/
def execQctlAbort (q : BitVec 6) (s : State) : Out State :=
  windowWrite s fun s => qctlWrite s q.toNat (qctlWith (s.queue q.toNat) (s.queue q.toNat).hold false true false)

/-- QCTL_CLEAR_OVERRUN (R415). -/
def execQctlClearOverrun (q : BitVec 6) (s : State) : Out State :=
  windowWrite s fun s => qctlWrite s q.toNat (qctlWith (s.queue q.toNat) (s.queue q.toNat).hold false false true)

/-! ## Launch records (R416) -/

/-- Field `hi:lo` of a launch record. -/
def recField (r lo n : Nat) : Nat := r / 2 ^ lo % 2 ^ n

/-- A launch record decoded (R416). -/
def launchRec (r : Nat) : LaunchRec :=
  { args := Vector.ofFn fun (k : Fin 8) => BitVec.ofNat 64 (recField r (64 * k.val) 64),
    cbase := BitVec.ofNat 64 (recField r 512 64), entry := BitVec.ofNat 32 (recField r 576 32),
    gx := recField r 608 32, gy := recField r 640 32, gz := recField r 672 32,
    bx := recField r 704 16, by_ := recField r 720 16, bz := recField r 736 16,
    regs := recField r 752 8, clusterdim := recField r 760 8, banks := recField r 768 8,
    gbar := recField r 776 2, bbar := recField r 778 5, cbar := recField r 783 4, dbar := recField r 787 3,
    stall := recField r 792 6, liglim := recField r 800 5, coresident := r.testBit 808, det := r.testBit 809,
    restartable := r.testBit 810, overlap := r.testBit 811, irq := r.testBit 812,
    compl := BitVec.ofNat 64 (recField r 832 64), cval := BitVec.ofNat 32 (recField r 896 32) }

/-- The checks of R416: reserved bits, entry, compl, liglim. -/
def recordLegal (r : Nat) : Bool :=
  let l := launchRec r
  recField r 928 96 == 0 && recField r 813 19 == 0 && recField r 805 3 == 0 && recField r 798 2 == 0 &&
  recField r 790 2 == 0 && !l.entry.getLsbD 0 && l.compl.toNat % 64 == 0 && (l.liglim == 0 || (10 ≤ l.liglim && l.liglim ≤ 24))

/-! ## Cores and room (R14, R15, R252, R436) -/

/-- The failed cores of a repair word that no spare replaces (R436). -/
def lostIdx (w : Word) : List Nat :=
  let f := numbers 20 fun i => w.getLsbD i
  if w.getLsbD 20 then f else f.drop 1

/-- A logical core is present: its cluster is not disabled (R15). -/
def corePresent (s : State) (c : Nat) : Bool :=
  let clu := c % 80 / 4
  c < Config.cores && !(lostIdx (vget 0 s.fw.applied (4 * (c / 80) + clu / 5))).any fun i => (20 * (clu / 5) + i) / 4 == clu

/-- The cores of a die that take work: present, and not failed in service (R14). A block saved on a failed core is not restored
there before the reset: the model's choice (log 74). -/
def dieCores (s : State) (d : Nat) : List Nat :=
  ((List.range 80).map fun i => 80 * d + i).filter fun c => corePresent s c && !(s.coreRegs c).failed

/-- Register bytes of one block (R39, R252). -/
def LaunchRec.bytes (r : LaunchRec) : Nat := 128 * r.regs * r.groups

/-- An idle die: every present core and cluster free. -/
def idleDie (s : State) (d : Nat) : Report :=
  let cs := (List.range 80).map (fun i => 80 * d + i) |>.filter (corePresent s)
  { cores := cs.map fun c => (c, Config.slots, Config.vrfBytes),
    clus := (List.range 20).map fun k => (20 * d + k, 64, 4) }

/-- Takes room of a report. -/
def Report.take (r : Report) (core slots bytes banks : Nat) : Report :=
  { cores := r.cores.map fun (c, n, b) => if c = core then (c, n - slots, b - bytes) else (c, n, b),
    clus := r.clus.map fun (k, n, b) => if k = coreClu core then (k, n - banks, b) else (k, n, b) }

/-- The place of one block (R254): of the cores that can hold it, on a cluster with its banks, the one with the most free
slots, the lowest on ties; and the room after it. -/
def Report.place (r : Report) (l : LaunchRec) (ok : Nat → Bool) : Option (Nat × Report) :=
  let fits := r.cores.filter fun (c, n, b) => ok c && l.groups ≤ n && l.bytes ≤ b &&
    r.clus.any fun (k, m, _) => k == coreClu c && l.banks ≤ m
  (greatestBy (fun c => ((r.cores.find? fun x => x.1 == c).map (·.2.1)).getD 0) (fits.map (·.1))).map fun c =>
    (c, r.take c l.groups l.bytes l.banks)

/-- The places of a number of blocks, one after the other. -/
def Report.placeMany (r : Report) (l : LaunchRec) (ok : Nat → Bool) : Nat → Option (List Nat × Report)
  | 0 => some ([], r)
  | n + 1 => (r.place l ok).bind fun (c, r) => (r.placeMany l ok n).map fun (cs, r) => (c :: cs, r)

/-- The reports of all dies as one. -/
def joinReports (rs : List Report) : Report := { cores := rs.flatMap Report.cores, clus := rs.flatMap Report.clus }

/-- The cluster with room for a launch cluster of `n` blocks on cores that satisfy a condition, the most free slots over all its
cores first (R253): its number and the cores of its blocks. -/
def clusterFor (r : Report) (l : LaunchRec) (ok : Nat → Bool) (n : Nat) : Option (Nat × List Nat) :=
  let plan (k : Nat) := r.placeMany l (fun c => coreClu c == k && ok c) n
  let sets (k : Nat) := l.cbar = 0 || r.clus.any fun (j, _, m) => j == k && 0 < m
  let free (k : Nat) := (r.cores.filter fun x => coreClu x.1 == k).foldl (fun a x => a + x.2.1) 0
  (greatestBy free ((r.clus.map (·.1)).filter fun k => sets k && (plan k).isSome)).bind fun k => (plan k).map fun p => (k, p.1)

/-- The room of a placed launch cluster taken, with its barrier set. -/
def Report.takeCluster (r : Report) (l : LaunchRec) (k : Nat) (cs : List Nat) : Report :=
  let r := cs.foldl (fun (r : Report) c => r.take c l.groups l.bytes l.banks) r
  { r with clus := r.clus.map fun (j, n, m) => if j = k && l.cbar != 0 then (j, n, m - 1) else (j, n, m) }

/-- A core of a cluster with a free barrier set, where the launch needs one. -/
def setOk (r : Report) (l : LaunchRec) (c : Nat) : Bool := l.cbar = 0 || r.clus.any fun (j, _, m) => j == coreClu c && 0 < m

/-- The placement of all blocks of a list (R258), on cores that satisfy a condition: for each launch cluster in turn, or for each
block; the core of every block. -/
def gangPlan (l : LaunchRec) (ok : Nat → Bool) : Nat → Report → List Nat → Option (List Nat)
  | 0, _, _ => some []
  | _ + 1, _, [] => some []
  | fuel + 1, r, i :: is =>
    if l.clusterdim ≤ 1 then
      (r.place l fun c => ok c && setOk r l c).bind fun (c, _) =>
        (gangPlan l ok fuel (r.takeCluster l (coreClu c) [c]) is).map fun cs => c :: cs
    else
      let n := (is.takeWhile fun j => j / l.clusterdim == i / l.clusterdim).length
      (clusterFor r l ok (n + 1)).bind fun (k, cs) =>
        (gangPlan l ok fuel (r.takeCluster l k cs) (is.drop n)).map fun ds => cs ++ ds

/-- Blocks can be placed at once from a report. -/
def gangFits (l : LaunchRec) (ok : Nat → Bool) (r : Report) (idxs : List Nat) : Option (List Nat) :=
  if idxs.length * l.groups > Config.cores * Config.slots then none else gangPlan l ok idxs.length r idxs

/-- The whole grid can be placed at once from a report. -/
def gridFits (l : LaunchRec) (r : Report) : Bool :=
  l.blocks * l.groups ≤ Config.cores * Config.slots && (gangFits l (fun _ => true) r (List.range l.blocks)).isSome

/-- The rows of R251 in order, the first that fails; 9 before all where R416 fails (R417). -/
def refusal (s : State) (r : Nat) : Option Nat :=
  let l := launchRec r
  let threads := l.bx * l.by_ * l.bz
  let idle := joinReports ((List.range 8).map (idleDie s))
  if !recordLegal r then some 9
  else if l.regs < 16 || 64 < l.regs || l.regs % 8 != 0 then some 1
  else if threads % 32 != 0 || threads < 32 || 1024 < threads then some 2
  else if l.gx = 0 || l.gy = 0 || l.gz = 0 || 2 ^ 31 < l.blocks then some 3
  else if l.clusterdim < 1 || 16 < l.clusterdim || 768 < l.clusterdim * l.groups || 64 < l.clusterdim * l.banks then some 4
  else if 64 < l.banks then some 5
  else if 2 < l.gbar || 16 < l.bbar || 8 < l.cbar || 4 < l.dbar || (l.dbar != 0 && !l.coresident) then some 6
  else if (idle.place l fun _ => true).isNone then some 7
  else if l.coresident && !gridFits l idle then some 8
  else none

/-- The ring slot of record p (R413). -/
def ringSlot (x : Queue) (p : Nat) : Nat := x.base.toNat / 4096 * 4096 + 128 * (p % 2 ^ x.z)

/-- A fetched launch (R248); a refused one is over at once (R251). -/
def newLaunch (s : State) (q r : Nat) : Launch :=
  let x := s.queue q
  { lid := s.nextId, q := q, ctx := x.ctx, cls := x.cls, lr := launchRec r, next := 0, again := [], done := 0,
    reserve := [], ganged := false, gridSet := false, gridBars := Vector.replicate 4 Bar.reset, cluBars := [],
    quoin := none, how := (refusal s r).map LaunchEnd.refused }

/-- The device may fetch records, and dispatch blocks (R440). -/
def deviceRuns (s : State) : Bool := s.fw.boot == .running && s.fw.power == .d0

/-- RECORD_FETCH (R414): the next visible record, at most two ahead of QDONE; one that cannot be read puts the queue in
overrun. After a clear of overrun the queue fetches again from the next accepted doorbell on (R415). -/
def execRecordFetch (q : BitVec 6) (s : State) : Out State :=
  event "RECORD_FETCH" <|
    let x := s.queue q.toNat
    if !deviceRuns s || !x.en || x.overrun || x.anyDoor || x.last ≤ x.read || x.done + 2 ≤ x.read then none
    else
      let a := ringSlot x x.read
      if !inMemory a then some (overrun s q.toNat)
      else if waitsHome s (.mem a) 128 false then askOnce s (.mem a) 128 false
      else if poisonedAt s (.mem a) 128 then some (overrun s q.toNat)
      else
        let s := l3Read (l3Read s 0 a) 0 (a + 64)
        let l := newLaunch s q.toNat (physNum s a 128)
        let s : State := { s with launches := s.launches ++ [l], nextId := s.nextId + 1 }
        some (s.updQueue q.toNat fun x => { x with read := x.read + 1, lids := x.lids ++ [l.lid] })

/-! ## Completion (R269, R270, R417) -/

/-- Every block of a launch is gone, or it has ended and none of its blocks is left (R269, R270). -/
def launchDone (s : State) (l : Launch) : Bool :=
  !(s.blocks.any fun b => b.lid == l.lid) && !(s.groups.any fun g => g.lid == l.lid) &&
  !(s.disp.sends.any fun d => d.lid == l.lid) &&
  (l.how.isSome || (l.next == l.lr.blocks && l.again.isEmpty))

/-- Every write of a launch is performed at home, its reductions are applied, and no error of it waits. -/
def launchQuiet (s : State) (l : Launch) : Bool :=
  !(s.sq.any fun e => e.lid == l.lid) && !(s.wp.any fun e => e.lid == l.lid) && !(s.async.any fun a => a.lid == l.lid)

/-- The completion block (R417). -/
def completionBlock (l : Launch) : List Byte :=
  let (status, detail, record) := match l.how with
    | none => (0, 0, 0)
    | some (.refused d) => (1, d, 0)
    | some (.fault c r) => (2, c, r)
    | some .aborted => (3, 0, 0)
  leBytes 4 l.lr.cval.toNat ++ leBytes 1 status ++ leBytes 1 detail ++ leBytes 26 0 ++ leBytes 32 record

/-- The versions of a retired launch: each byte holds the newest write of the highest index (R399). -/
def foldVersions (s : State) (lid : Nat) : State :=
  let mine := s.ver.filter fun v => v.lid == lid
  let mem := mine.foldl (fun m v => match topVersion (mine.filter fun w => w.addr == v.addr) with
    | some b => cellPut m v.addr b
    | none => m) s.mem
  { s with mem := mem, ver := s.ver.filter fun v => v.lid != lid }

/-- The launch is complete: completion block, QDONE, interrupt, in this order (R417). -/
def complete (s : State) (l : Launch) : State :=
  let a := l.lr.compl.toNat
  let s := foldVersions s l.lid
  let s := if inMemory a then deviceWrite s a (completionBlock l) else s
  let s : State := { s with launches := s.launches.filter fun x => x.lid != l.lid }
  let s := s.updQueue l.q fun x => { x with done := x.done + 1, lids := x.lids.filter (· != l.lid) }
  if l.lr.irq then msix s (1 + l.q) else s

/-- LAUNCH_RETIRE (R269): the oldest launch of a queue retires, or completes as refused or ended, behind the device's own writes
that wait (R417, R418). -/
def execLaunchRetire (l : Nat) (s : State) : Out State :=
  event "LAUNCH_RETIRE" <| (s.launch? l).bind fun x =>
    let a := x.lr.compl.toNat
    if !deviceRuns s || (s.queue x.q).lids.head? != some l || !launchDone s x || !launchQuiet s x || !s.late.isEmpty then none
    else if waitsHome s (.mem a) 64 true then askOnce s (.mem a) 64 true
    else some (complete s x)

/-! ## Management registers (R412) -/

/-- A pool range as the host writes it (R407): the device's fields stay, writing 1 to fenced ends a fence. -/
def poolWrite (old v : DWord) : DWord :=
  let keep : DWord := 0x3F00000000000000
  (v &&& 0x80FFFFFFF0FFFFFF) ||| (old &&& keep) ||| (if v.getLsbD 62 then 0 else old &&& 0x4000000000000000)

/-- The 64 bits of a 256-bit register written at byte offset `8 k`. -/
def put256 (x : BitVec 256) (k : Nat) (v : DWord) : BitVec 256 :=
  (x &&& ~~~((v.setWidth 256 ||| 0xFFFFFFFFFFFFFFFF) <<< (64 * k))) ||| (v.setWidth 256 <<< (64 * k))

/-- A write of a management register; an offset that is not listed or read-only ignores it (R412). -/
def mgmtWrite (s : State) (off : Nat) (v : DWord) : State :=
  if off = 0x08 then (if s.launches.isEmpty then s.updHost fun h => { h with devnum := loWord v } else s)
  else if off = 0x18 then s.updHost fun h => { h with event := h.event &&& ~~~v }
  else if off = 0x20 then s.updHost fun h => { h with ptime := loWord v }
  else if off = 0x28 then s.updHost fun h => { h with ctxbase := v }
  else if 0x100 ≤ off && off < 0x180 && off % 8 = 0 then
    let i := (off - 0x100) / 8
    s.updHost fun h => { h with poolrng := vset h.poolrng i (poolWrite (vget 0 h.poolrng i) v) }
  else if 0x1000 ≤ off && off < 0x2000 && off % 64 = 0 then
    s.updQueue ((off - 0x1000) / 64) fun x => if x.en then x else { x with base := v }
  else if 0x2000 ≤ off && off < 0x2400 && off % 16 = 4 then
    s.updCtx ((off - 0x2000) / 16) fun c => { c with tail := loWord v }
  else if 0x3000 ≤ off && off < 0x3020 && off % 8 = 0 then
    s.updHost fun h => { h with peeracc := put256 h.peeracc ((off - 0x3000) / 8) v }
  else if 0x3100 ≤ off && off < 0x3300 && off % 2 = 0 then
    s.updHost fun h => { h with routes := vset h.routes ((off - 0x3100) / 2) (v.setWidth 16) }
  else s

/-- POOLRNG_FENCED_CLEAR (R409). -/
def execPoolrngFencedClear (i : BitVec 4) (s : State) : Out State :=
  windowWrite s fun s => s.updHost fun h =>
    { h with poolrng := vset h.poolrng i.toNat (vget 0 h.poolrng i.toNat &&& ~~~0x4000000000000000) }

/-! ## Replay (R389, R391) -/

/-- The engine commands of a context that wait for the doorbell are tried again (R391): those whose fault its group waits for on the
host path, and of those whose fault is not raised yet the ones whose context has no handler, as far as its vector entry can be
read. -/
def retryEngines (s : State) (ctx : Nat) : State :=
  let waits (gid : Nat) (raised : Bool) : Bool := match s.group? gid with
    | some g => g.ctx == ctx && (if raised then g.hold.host else match vectorEntry s g 0x06 with
      | .ok _ _ => false
      | _ => true)
    | none => false
  let tr : Option Raise → Bool := fun r => match r with
    | some r => r.cls == 0x06
    | none => false
  let cmd : MCmd → MCmd := fun c => if waits c.gid c.raised && tr c.fault then { c with phase := .running, raised := false } else c
  let imp : ImpReq → ImpReq := fun r => if waits r.gid r.raised && tr r.failed then { r with failed := none, raised := false } else r
  let fc : FetchC → FetchC := fun r => if waits r.gid r.raised && tr r.failed then { r with failed := none, raised := false } else r
  { s with engines := s.engines.map fun (c, e) =>
      (c, { e with queue := e.queue.map cmd, imps := e.imps.map imp, fetchcs := e.fetchcs.map fc }) }

/-- A group waiting on the host path has its failed entries walked again (R389): it replays when all pass, else each that
fails posts a fresh record. An entry whose walk has to wait for the host or a commit batch is walked in its turn of the replay. -/
def retryGroup (s : State) (gid : Nat) : State :=
  match s.group? gid with
  | none => s
  | some g =>
    let again := (g.fl.opLog.map fun m =>
      { m with fails := if (m.held s g).isSome then [] else m.failing s g .translation }).filter fun m => !m.fails.isEmpty
    if again.isEmpty then
      raiseStanding (s.updGroup gid fun g =>
        { g with hold := { g.hold with host := false }, fl := { g.fl with replay := !g.fl.opLog.isEmpty, hostPath := !g.fl.opLog.isEmpty } }) gid
    else again.foldl (fun s m => postRecord (s.countEvent g.core 8 1) g.ctx (recordOf s g (logFault m) false)) s

/-- The replay doorbell of a context (R389, R391). -/
def replayWrite (s : State) (ctx : Nat) : State :=
  let gids := (s.groups.filter fun g => g.ctx == ctx && g.hold.host).map Group.gid
  gids.foldl retryGroup (retryEngines s ctx)

/-- CREPLAY (R389, R391). -/
def execCreplay (ctx : BitVec 6) (s : State) : Out State := windowWrite s fun s => replayWrite s ctx.toNat

/-! ## The summary (R420, R421) -/

/-- The compute-die part of the summary. -/
def dieSummary (s : State) (d : Nat) : List Byte :=
  let bits := (List.range 80).foldl (fun n i => if (s.coreRegs (80 * d + i)).failed then n + 2 ^ i else n) 0
  let es := (s.engines.filter fun e => e.1 / 80 == d).map (·.2)
  let held := es.foldl (fun n e => n + (([0, 1] : List Nat).filter fun x => (e.ctx x).holder.isSome).length) 0
  let imps := es.foldl (fun n e => n + e.imps.length) 0
  leBytes 16 bits ++ leBytes 4 held ++ leBytes 4 imps ++ leBytes 8 (s.groups.filter fun g => coreDie g.core == d).length

/-- QSTAT (R413). -/
def qstat (x : Queue) : Nat := bit x.overrun + 2 * bit x.hold + 2 ^ 8 * (x.lids.length % 4)

/-- The 4 KiB summary (R421; log 32 for the places R421 does not give). -/
def summary (s : State) : List Byte :=
  let present := ((List.range Config.cores).filter (corePresent s)).length
  leBytes 2 0x0100 ++ leBytes 2 (s.host.devnum.toNat % 256) ++ leBytes 4 0 ++ leBytes 8 s.clock ++ leBytes 4 present ++
    leBytes 44 0 ++
  (List.range 64).flatMap (fun q =>
    let x := s.queue q
    leBytes 8 x.last ++ leBytes 8 x.read ++ leBytes 8 x.done ++ leBytes 4 (qstat x) ++ leBytes 2 x.cls ++ leBytes 2 x.ctx) ++
  (List.range 64).flatMap (fun c =>
    let x := s.ctx c
    leBytes 2 x.head.toNat ++ leBytes 2 x.tail.toNat ++ leBytes 2 x.lost ++
    leBytes 2 (s.groups.filter fun g => g.ctx == c && g.hold.host).length) ++
  (List.range 8).flatMap (dieSummary s) ++
  (List.range 16).flatMap (fun i => leBytes 8 (vget 0 s.host.poolrng i).toNat) ++
  leBytes 64 0 ++
  (List.range 256).flatMap fun k => leBytes 4 (listGet (0 : Word) s.floors k).toNat

/-- A write of RESYNC (R420): ignored while the busy bit is set. The summary is written behind the device's own writes that wait;
then the busy bit is clear and the event is set. An address that is unaligned or in pool memory writes nothing, as one outside
every memory range does (log 32). -/
def resyncWrite (s : State) (a : Nat) : State :=
  if s.host.resync then s
  else if a % 4096 != 0 || !(inHbm a || inHost a) then mgmtEvent s 5
  else
    let s := deviceWrite (s.updHost fun h => { h with resync := true }) a (summary s)
    msix (lateDo (lateDo s .resyncDone) (.event 5)) 0

/-- RESYNC (R420). -/
def execResync (addr : BitVec 64) (s : State) : Out State := windowWrite s fun s => resyncWrite s addr.toNat

/-! ## A write at an offset (R412) -/

/-- A write of the window at an offset: the registers whose write is an action, then the others. -/
def offsetWrite (s : State) (off : Nat) (v : DWord) : State :=
  if off = 0x10 then resyncWrite s v.toNat
  else if 0x1000 ≤ off && off < 0x2000 && off % 64 = 0x08 then qctlWrite s ((off - 0x1000) / 64) (loWord v)
  else if 0x1000 ≤ off && off < 0x2000 && off % 64 = 0x10 then doorWrite s ((off - 0x1000) / 64) v.toNat
  else if 0x2000 ≤ off && off < 0x2400 && off % 16 = 8 then replayWrite s ((off - 0x2000) / 16)
  else mgmtWrite s off v

/-- MGMT_REGISTER_WRITE (R412, R413, R419, R420). -/
def execMgmtRegisterWrite (off : Nat) (v : BitVec 64) (s : State) : Out State := windowWrite s fun s => offsetWrite s off v

end Sys2Proof.Machine
end

