-- ==== Sys2Proof/Machine/Place.lean ====
section
/-!
DEFINITION. A program of one instruction as a launch would have placed it (log 10): page tables, code bytes, launch,
block and group, and the group's issue as the next item of the agenda.
-/

namespace Sys2Proof.Machine

/-- Where the placed program stands: its code base, the same virtual as physical, and its tables of levels 4, 3 and 2. -/
def placedBase : Nat := 0x1000
def placedRoot : Nat := 0x10000
def placedMid : Nat := 0x12000
def placedLeaf : Nat := 0x14000

/-- The bytes of the placed program: 12 bytes of code, and the walk of address 0 to a leaf of level 2 that maps the first
8 GiB onto themselves with every permission (R380, R381). -/
def placedBytes (w : Nat) : List (Nat × Byte) :=
  let at_ (a : Nat) (bs : List Byte) : List (Nat × Byte) := (List.range bs.length).zip bs |>.map fun (i, b) => (a + i, b)
  at_ placedBase (leBytes 12 w) ++ at_ placedRoot (leBytes 8 (placedMid + 1)) ++ at_ placedMid (leBytes 8 (placedLeaf + 1)) ++
  at_ placedLeaf (leBytes 8 0x3F)

/-- The record of the placed program's launch: one block of one group, every register, every barrier. -/
def placedRecord : LaunchRec :=
  { args := Vector.replicate 8 0, cbase := BitVec.ofNat 64 placedBase, entry := 0, gx := 1, gy := 1, gz := 1,
    bx := 32, by_ := 1, bz := 1, regs := 64, clusterdim := 1, banks := 0, gbar := 2, bbar := 16, cbar := 8, dbar := 4,
    stall := 0, liglim := 0, coresident := true, det := false, restartable := false, overlap := false, irq := false,
    compl := 0, cval := 0 }

/-- The launch of the placed program, with its one block dispatched. -/
def placedLaunch (lid : Nat) : Launch :=
  { lid := lid, q := 0, ctx := 0, cls := 0, lr := placedRecord, next := 1, again := [], done := 0, reserve := [],
    ganged := true, gridSet := true, gridBars := Vector.replicate 4 Bar.reset, cluBars := [], quoin := none, how := none }

/-- The block of the placed program. -/
def placedBlock (lid bid : Nat) : Block :=
  { Block.none with bid := bid, lid := lid, left := [0] }

/-- The group of the placed program. -/
def placedGroup1 (lid bid gid : Nat) : Group :=
  Group.start gid 0 0 (placedBlock lid bid) 0 64 (BitVec.ofNat 64 placedBase) 0 (Vector.replicate 8 0) Debug.reset

/-- A state in which the next step issues the instruction whose bits are `w`. -/
def placeWord (s : State) (w : Nat) : State :=
  let n := s.nextId
  let cells := placedBytes w
  let here (a : Nat) : Bool := cells.any fun c => c.1 == a
  let gid := n + 2
  { s with
    mem := offsetsPut s.mem 0 cells, ver := s.ver.filter (fun v => !here v.addr),
    poison := s.poison.filter (fun p => !cells.any fun c => c.1 / 32 == p),
    ctxs := vset s.ctxs 0 { s.ctx 0 with ptbase := BitVec.ofNat 64 placedRoot, heapbase := 0, heaplim := 0 },
    launches := s.launches ++ [placedLaunch n], blocks := s.blocks ++ [placedBlock n (n + 1)],
    groups := s.groups ++ [placedGroup1 n (n + 1) gid], fw := { s.fw with boot := .running, power := .d0 },
    agenda := [.issue { gid := gid, helper := false }], nextId := n + 3 }

end Sys2Proof.Machine
end

