-- ==== Sys2Proof/Machine/Barrier.lean ====
section
/-!
DEFINITION. Meanings of the barrier instructions (R162 to R169): checks in the order of R173, the release of an
arrival (R167), arrivals, waits and byte counts.
-/

namespace Sys2Proof.Machine

/-- The barrier-misuse fault with level and number in sys.tinfo (R375). -/
def barMisuse (s : State) (ts : List Nat) (level : BitVec 2) (num : BitVec 4) : State :=
  raiseNow s { faultOf s 0x0D ts [] with info := BitVec.ofNat 64 ((16 * level.toNat + num.toNat) * 2 ^ 16) }

/-- The checks every barrier instruction makes (R47, R164, R170, R173): transactions, the whole group above group
level, the number. An arrival waits for its group's translations under the reason of its release (R167, R431). -/
def barrierGroup (s : State) (reason : Nat) (uses : List Use) (gd : Guard) (level : BitVec 2) (num : BitVec 4)
    (k : Group → List Nat → State) : Out State :=
  gateAs reason s uses false false fun g =>
    let tx := (executing s g gd).filter fun l => (g.lane l).inTx
    .next <| if !tx.isEmpty then raiseIn s 0x0C tx else groupGuard s g gd fun ex =>
    let whole := (g.lanesWhere fun x => x.st != .exited).all ex.contains
    let count := match s.launch? g.lid with
      | some l => barrierCount l level.toNat
      | none => 0
    if level != 0 && !whole then raiseAll s 0x02
    else if num.toNat ≥ count then barMisuse s ex level num
    else k g ex

/-- The arrival phase a member has recorded (R164). -/
def arrPhase (b : Bar) (m : Nat) : Option Nat := (b.arr.find? fun a => a.1 == m).map (·.2)

/-- The member has arrived in the current phase. -/
def arrivedNow (b : Bar) (m : Nat) : Bool := b.arrived.any fun a => a.member == m

/-- The scope of an arrival's release (R167): .blk, .clu and .dev above group level. -/
def barScope (level : Nat) : Nat := min level 3

/-- The release of an arrival (R167): nothing at group level, the write point at block level, the cluster at cluster
level, the homes at grid level. -/
def barRelease (s : State) (g : Group) (level : Nat) : State :=
  if level = 0 then s else flush s g.gid g.core (barScope level) false

/-- An arrival with its release, once no write it performs has to wait (R405); it waits for one under reason 4 (R431). -/
def releaseThen (s : State) (g : Group) (level : Nat) (k : State → State) : State :=
  if level = 0 then k s
  else
    match flushBlocked s g.gid g.core (onL (barScope level)) with
    | some e => stall (askHost s e.place 32 true) 4
    | none => k (barRelease s g level)

def execBara (f : BarForm) (s : State) : Out State :=
  barrierGroup s 4 [] f.g f.level f.num fun g ex =>
    let ms := if f.level = 0 then ex else [memberOf s g f.level.toNat 0]
    let b := barOf s g f.level.toNat f.num.toNat
    if ms.any (arrivedNow b) then
      barMisuse s (if f.level = 0 then ex.filter (arrivedNow b) else ex) f.level f.num
    else releaseThen s g f.level.toNat fun s => (arrive s g f.level.toNat f.num.toNat ms false).advance

/-- A deferred fault of a copy that counts down the barrier is raised at its BARW or BARS (R212). -/
def barCopyFault (s : State) (g : Group) (level : BitVec 2) (num : BitVec 4) : Option (Word × Raise) :=
  if level = 1 then copyFault s g fun b => b == some num.toNat else none

/-- The group waits for a phase, or goes on when it has completed. -/
def startWait (s : State) (g : Group) (w : BarWait) : State :=
  let s := (s.updGroup g.gid fun g => { g with hold := { g.hold with bar := some w } }).advance
  match s.group? g.gid with
  | some g => if waitOver s g w then endWait s g w else s
  | none => s

def execBarw (f : BarwForm) (s : State) : Out State :=
  barrierGroup s 12 [] f.g f.level f.num fun g ex =>
    let b := barOf s g f.level.toNat f.num.toNat
    if f.mx && f.level = 0 then barMisuse s ex f.level f.num
    else if f.level = 0 then
      let bad := ex.filter fun l => match arrPhase b l with
        | some p => b.phase ≤ p
        | none => true
      if bad.isEmpty then s.advance else barMisuse s bad f.level f.num
    else
      match arrPhase b (memberOf s g f.level.toNat 0) with
      | none => barMisuse s ex f.level f.num
      | some p =>
        match barCopyFault s g f.level f.num with
        | some r => raiseDeferred s g r
        | none => startWait s g { bars := false, mx := f.mx, p := 0, level := f.level, num := f.num, phase := p }

def execBars (f : BarsForm) (s : State) : Out State :=
  barrierGroup s 4 [] f.g f.level f.num fun g ex =>
    let b := barOf s g f.level.toNat f.num.toNat
    if f.level = 0 then
      let twice := ex.filter (arrivedNow b)
      if !twice.isEmpty then barMisuse s twice f.level f.num
      else if !(barMembers s g 0).all (fun l => ex.contains l || arrivedNow b l) then barMisuse s ex f.level f.num
      else
        let s := arrive s g 0 f.num.toNat ex true
        let last := (barOf s g 0 f.num.toNat).last
        (s.mapActive fun l x => x.setPred f.p (last == some l)).advance
    else
      let m := memberOf s g f.level.toNat 0
      if arrivedNow b m then barMisuse s ex f.level f.num
      else
        match barCopyFault s g f.level f.num with
        | some r => raiseDeferred s g r
        | none => releaseThen s g f.level.toNat fun s =>
            startWait (arrive s g f.level.toNat f.num.toNat [m] true) g
              { bars := true, mx := false, p := f.p, level := f.level, num := f.num, phase := b.phase }

/-- BARC (R166): bits 39:0 of the register are added to a block barrier's signed 48-bit counter. -/
def execBarc (f : BarcForm) (s : State) : Out State :=
  barrierGroup s 12 [Use.u f.s.toNat] f.g f.level f.num fun g ex =>
    let v := (g.ureg f.s.toNat).toNat
    let b := barOf s g 1 f.num.toNat
    if f.level != 1 || v ≥ 2 ^ 40 || b.count + v > 2 ^ 47 - 1 then barMisuse s ex f.level f.num
    else (updBar s g 1 f.num.toNat fun b => { b with count := b.count + v }).advance

end Sys2Proof.Machine
end

