-- ==== Sys2Proof/Machine/CrossLane.lean ====
section
/-!
DEFINITION. Meanings of predicate logic (R98), the uniform operations (R99, R100), transfers between lanes and uniform
registers (R101), the cross-lane instructions (R102 to R105) and the sparse helpers (R106 to R108).
-/

namespace Sys2Proof.Machine

/-! ## Predicates -/

/-- Predicate logic in each executing thread. -/
def predOp (f : PForm) (op : Bool → Bool → Bool) (s : State) : Out State :=
  perLane s (modUse f.m) f.g fun _ _ x => x.setPred f.d (op (x.pred f.a) (x.pred f.b))

def execPand (f : PForm) (s : State) : Out State := predOp f (· && ·) s
def execPor (f : PForm) (s : State) : Out State := predOp f (· || ·) s
def execPxor (f : PForm) (s : State) : Out State := predOp f (· != ·) s

/-! ## Uniform operations -/

/-- A uniform operation: once for the group, under R32 (R99). -/
def uniOp (f : UForm) (op : DWord → DWord → DWord) (s : State) : Out State :=
  perGroup s (modUse f.m ++ [Use.u f.d.toNat, Use.u f.a.toNat, Use.u f.b.toNat]) true false f.g fun g _ =>
    (s.updGroup g.gid fun g => g.setUreg f.d.toNat (op (g.ureg f.a.toNat) (g.ureg f.b.toNat))).advance

def execUadd (f : UForm) (s : State) : Out State := uniOp f (· + ·) s
def execUsub (f : UForm) (s : State) : Out State := uniOp f (· - ·) s
def execUmul (f : UForm) (s : State) : Out State := uniOp f (· * ·) s
def execUand (f : UForm) (s : State) : Out State := uniOp f (· &&& ·) s
def execUor (f : UForm) (s : State) : Out State := uniOp f (· ||| ·) s
def execUshl (f : UForm) (s : State) : Out State := uniOp f (fun a b => a <<< (b.toNat % 64)) s

def execUmov (f : DAForm) (s : State) : Out State :=
  perGroup s (modUse f.m ++ [Use.u f.d.toNat, Use.u f.a.toNat]) true false f.g fun g _ =>
    (s.updGroup g.gid fun g => g.setUreg f.d.toNat (g.ureg f.a.toNat)).advance

/-- UCMP: the predicate of every active lane (R100). -/
def execUcmp (f : UCmpForm) (s : State) : Out State :=
  perGroup s (modUse f.m ++ [Use.u f.a.toNat, Use.u f.b.toNat]) true false f.g fun g _ =>
    let a := g.ureg f.a.toNat
    let b := g.ureg f.b.toNat
    let r := if f.lt then decide (a.toInt < b.toInt) else a == b
    (s.mapActive fun _ x => x.setPred f.p r).advance

/-! ## Transfers (R101) -/

/-- UMOVV: the lowest executing lane's register, when a lane executes (R79). -/
def execUmovv (f : DAForm) (s : State) : Out State :=
  gate s (modUse f.m ++ [Use.u f.d.toNat, Use.w f.a.toNat (winA f.m)]) true false fun g =>
    match leastBy id (executing s g f.g) with
    | none => .next s.advance
    | some l => .next (s.updGroup g.gid fun g => g.setUreg f.d.toNat (((g.lane l).reg f.a.toNat).setWidth 64)).advance

def execUbcst (f : DAForm) (s : State) : Out State :=
  gate s (modUse f.m ++ [Use.d f.d.toNat, Use.u f.a.toNat]) true false fun g =>
    .next (s.mapActive fun _ x => if guardTrue f.g x then x.setReg f.d.toNat (loWord (g.ureg f.a.toNat)) else x).advance

/-! ## Shuffles (R102, R78) -/

/-- The fill lanes of R78: not active, in a quad that holds an executing lane. -/
def fillLanes (s : State) (m : Option Mod) (ex : List Nat) : List Nat :=
  if (m.map Mod.qf).getD false then
    numbers 32 fun l => !s.iss.active.contains l && ex.any fun e => e / 4 == l / 4
  else []

/-- A shuffle: each executing and each fill lane reads register `a` of its source lane. -/
def shuffle (m : Option Mod) (gd : Guard) (d a : Nat) (src : Lane → Nat → Nat) (s : State) : Out State :=
  gate s (modUse m ++ [Use.d d, Use.w a (winA m)]) true false fun g =>
    let ex := executing s g gd
    let ws := ex ++ fillLanes s m ex
    .next (s.updGroup g.gid fun g' => g'.mapLanes fun l x =>
      if ws.contains l then x.setReg d ((g.lane (src x l)).reg a) else x).advance

def execShflXor (f : ShflForm) (s : State) : Out State :=
  shuffle f.m f.g f.d.toNat f.a.toNat (fun _ l => l ^^^ f.k.toNat) s
def execShfl (f : ShflForm) (s : State) : Out State := shuffle f.m f.g f.d.toNat f.a.toNat (fun _ _ => f.k.toNat) s
def execShflIdx (f : DAForm) (s : State) : Out State :=
  shuffle f.m f.g f.d.toNat f.a.toNat (fun x _ => (x.reg f.d.toNat).toNat % 32) s

/-- QSWZ: field value k stands for m = k + 1 (functions 0x44 to 0x46). -/
def execQswz (f : QuadForm) (s : State) : Out State :=
  shuffle f.m f.g f.d.toNat f.a.toNat (fun _ l => l ^^^ (f.k.toNat + 1)) s
def execQbcst (f : QuadForm) (s : State) : Out State :=
  shuffle f.m f.g f.d.toNat f.a.toNat (fun _ l => 4 * (l / 4) + f.k.toNat) s

/-! ## Votes (R103) -/

/-- A vote over the executing lanes, written to their predicate. -/
def vote (f : VoteForm) (r : List Bool → Bool) (s : State) : Out State :=
  gate s (modUse f.m) true false fun g =>
    let b := r ((executing s g f.g).map fun l => (g.lane l).pred f.a)
    .next (s.mapActive fun _ x => if guardTrue f.g x then x.setPred f.d b else x).advance

def execVoteAll (f : VoteForm) (s : State) : Out State := vote f (fun bs => bs.all id) s
def execVoteAny (f : VoteForm) (s : State) : Out State := vote f (fun bs => bs.any id) s
def execVoteUni (f : VoteForm) (s : State) : Out State := vote f (fun bs => bs.all id || !bs.any id) s

def execBallot (f : BallotForm) (s : State) : Out State :=
  gate s (modUse f.m ++ [Use.d f.d.toNat]) true false fun g =>
    let r := maskOf ((executing s g f.g).filter fun l => (g.lane l).pred f.a)
    .next (s.mapActive fun _ x => if guardTrue f.g x then x.setReg f.d.toNat r else x).advance

/-! ## Reductions and prefixes (R104, R105) -/

/-- One level of the tree of R104, with the flags of its combinations. -/
def treeLevel (c : Word → Word → Word × Flags) : List (Option Word) → List (Option Word) × Flags
  | x :: y :: r =>
    let (t, f) := treeLevel c r
    match x, y with
    | none, y => (y :: t, f)
    | some a, none => (some a :: t, f)
    | some a, some b => let (v, g) := c a b; (some v :: t, f ||| g)
  | r => (r, 0)

/-- The tree of R104 over 32 leaves: five levels. -/
def tree (c : Word → Word → Word × Flags) : Nat → List (Option Word) → List (Option Word) × Flags
  | 0, xs => (xs, 0)
  | k + 1, xs =>
    let (ys, f) := treeLevel c xs
    let (zs, g) := tree c k ys
    (zs, f ||| g)

/-- LREDUCE with a combination. -/
def reduce (f : DAForm) (c : Word → Word → Word × Flags) (s : State) : Out State :=
  gate s (modUse f.m ++ [Use.d f.d.toNat, Use.w f.a.toNat (winA f.m)]) true false fun g =>
    let ex := executing s g f.g
    let (r, fl) := tree c 5 ((List.range 32).map fun l => if ex.contains l then some ((g.lane l).reg f.a.toNat) else none)
    let v := (r.head?.join).getD 0
    .next (s.mapActive fun _ x => if guardTrue f.g x then (x.setReg f.d.toNat v).addFlags fl else x).advance

/-- A combination without flags. -/
def plainOp (op : Word → Word → Word) (a b : Word) : Word × Flags := (op a b, 0)

def execLreduceAddI32 (f : DAForm) (s : State) : Out State := reduce f (plainOp (· + ·)) s
def execLreduceAddF32 (f : DAForm) (s : State) : Out State := reduce f addF32 s
def execLreduceMinI32 (f : DAForm) (s : State) : Out State :=
  reduce f (plainOp fun a b => if a.toInt ≤ b.toInt then a else b) s
def execLreduceMaxI32 (f : DAForm) (s : State) : Out State :=
  reduce f (plainOp fun a b => if a.toInt ≤ b.toInt then b else a) s
def execLreduceMinF32 (f : DAForm) (s : State) : Out State := reduce f (minmaxF32 false) s
def execLreduceMaxF32 (f : DAForm) (s : State) : Out State := reduce f (minmaxF32 true) s
def execLreduceOrB32 (f : DAForm) (s : State) : Out State := reduce f (plainOp (· ||| ·)) s
def execLreduceAndB32 (f : DAForm) (s : State) : Out State := reduce f (plainOp (· &&& ·)) s

/-- The running sums of R105 over the executing lanes, rising: lane, value before, value after, and the flags. -/
def prefixes (c : Word → Word → Word × Flags) : Option Word → List (Nat × Word) → List (Nat × Word × Word) × Flags
  | _, [] => ([], 0)
  | acc, (l, v) :: r =>
    let (n, f) := match acc with
      | none => (v, 0)
      | some a => c a v
    let (t, g) := prefixes c (some n) r
    ((l, acc.getD 0, n) :: t, f ||| g)

/-- PREFIX, exclusive or inclusive. -/
def prefixOp (f : DAForm) (c : Word → Word → Word × Flags) (ex : Bool) (s : State) : Out State :=
  gate s (modUse f.m ++ [Use.d f.d.toNat, Use.w f.a.toNat (winA f.m)]) true false fun g =>
    let (rs, fl) := prefixes c none ((numbers 32 (executing s g f.g).contains).map fun l => (l, (g.lane l).reg f.a.toNat))
    .next (s.mapActive fun l x =>
      match rs.find? fun r => r.1 == l with
      | some (_, b, a) => (x.setReg f.d.toNat (if ex then b else a)).addFlags fl
      | none => x).advance

def execPrefixAddI32 (f : DAForm) (s : State) : Out State := prefixOp f (plainOp (· + ·)) false s
def execPrefixAddI32Ex (f : DAForm) (s : State) : Out State := prefixOp f (plainOp (· + ·)) true s
def execPrefixAddF32 (f : DAForm) (s : State) : Out State := prefixOp f addF32 false s
def execPrefixAddF32Ex (f : DAForm) (s : State) : Out State := prefixOp f addF32 true s

/-! ## Sparse helpers (R106 to R108) -/

def execBmand (f : DAForm) (s : State) : Out State :=
  perLane s (modUse f.m ++ [Use.dp f.d.toNat, Use.wp f.a.toNat (winA f.m)]) f.g fun g _ x =>
    let y := srcLane g (winA f.m) x
    let w := y.reg f.a.toNat &&& y.reg (f.a.toNat + 1)
    (x.setReg f.d.toNat w).setReg (f.d.toNat + 1) (BitVec.ofNat 32 (popCount w))

def execPopcp (f : DAForm) (s : State) : Out State :=
  gate s (modUse f.m ++ [Use.d f.d.toNat, Use.w f.a.toNat (winA f.m)]) true false fun g =>
    let ex := executing s g f.g
    .next (s.mapActive fun l x =>
      if guardTrue f.g x then
        x.setReg f.d.toNat (BitVec.ofNat 32 (((ex.filter (· < l)).map fun k => popCount ((g.lane k).reg f.a.toNat)).sum))
      else x).advance

/-- One lane of ISECT (R108): the matched pair to d to d + 2, then the state to a to a + 3. With a window source the
state is read from the recruiter and written to the thread's own registers. -/
def isectLane (p : BitVec 5) (d a : Nat) (y x : Lane) : Lane :=
  let bx := y.reg a
  let by_ := y.reg (a + 1)
  let ox := y.reg (a + 2)
  let oy := y.reg (a + 3)
  let w := bx &&& by_
  if w = 0 then
    let ox := ox + BitVec.ofNat 32 (popCount bx)
    let oy := oy + BitVec.ofNat 32 (popCount by_)
    let x := ((x.setReg d ox).setReg (d + 1) oy).setReg (d + 2) 0
    ((((x.setPred p false).setReg a 0).setReg (a + 1) 0).setReg (a + 2) ox).setReg (a + 3) oy
  else
    let j := (ctzOp w).toNat
    let below : Word := BitVec.ofNat 32 (2 ^ j - 1)
    let upto : Word := BitVec.ofNat 32 (2 ^ (j + 1) - 1)
    let ix := ox + BitVec.ofNat 32 (popCount (bx &&& below))
    let iy := oy + BitVec.ofNat 32 (popCount (by_ &&& below))
    let x := ((x.setReg d ix).setReg (d + 1) iy).setReg (d + 2) (BitVec.ofNat 32 (popCount w))
    ((((x.setPred p true).setReg a (bx &&& ~~~upto)).setReg (a + 1) (by_ &&& ~~~upto)).setReg (a + 2) (ix + 1)).setReg
      (a + 3) (iy + 1)

/-- ISECT: a must be a multiple of 4. In helper code a windowed a above v12 names own registers that a helper does not have,
and no rule says where the state would go: the model takes the word as an illegal encoding (log 62). -/
def execIsect (f : IsectForm) (s : State) : Out State :=
  let quad : Use := { vec := true, n := f.a.toNat, len := 4, even := true, win := winA f.m, out := false }
  let own : Use := { vec := true, n := f.a.toNat, len := 4, even := true, win := false, out := false }
  let dst : Use := { vec := true, n := f.d.toNat, len := 3, even := false, win := false, out := true }
  let odd4 : Use := { vec := true, n := if f.a.toNat % 4 = 0 then 0 else 1, len := 0, even := true, win := false, out := false }
  perLane s (modUse f.m ++ [quad, own, dst, odd4]) f.g fun g _ x =>
    isectLane f.p f.d.toNat f.a.toNat (srcLane g (winA f.m) x) x

end Sys2Proof.Machine
end

