-- ==== Sys2Proof/Machine/Imposer.lean ====
section
/-!
DEFINITION. Meanings of IMPOSE and IMPSTAT (R238 to R240), and of a request in page mode at issue (R393).
-/

namespace Sys2Proof.Machine

/-- One address of a request (R211 order 6): its class, and in the Case a bank in scratchpad or FIFO mode. -/
def copyAddr (s : State) (g : Group) (a : DWord) : Extent :=
  match classify s g a with
  | .bad => .bad
  | .caseAt c k _ _ =>
    let b := s.bank c k
    if b.switch.isSome then .busy
    else match b.mode with
      | .cache => .bad
      | _ => .ok
  | _ => .ok

/-- Both ends of every row of a request, which name every bank and class the row touches. -/
def CopyReq.ends (c : CopyReq) : List DWord :=
  (c.rows false ++ c.rows true).flatMap fun a => [a, a + BitVec.ofNat 64 (c.xb - 1)]

/-- Every row of a request. -/
def copyExtent (s : State) (g : Group) (c : CopyReq) : Extent :=
  c.ends.foldl (fun e a => e.and (copyAddr s g a)) .ok

/-- An address lies in a bank in FIFO mode (R161). -/
def inFifo (s : State) (g : Group) (a : DWord) : Bool :=
  match classify s g a with
  | .caseAt c k _ _ => (s.bank c k).mode == .fifo
  | _ => false

/-- A request whose rows are no whole number of words names a bank in FIFO mode (R211 order 5, R239). -/
def copyOdd (s : State) (g : Group) (c : CopyReq) : Bool := c.xb % 4 != 0 && c.ends.any (inFifo s g)

/-- The line frames of a page request, source and destination (R393). -/
def CopyReq.frames (c : CopyReq) : List (Nat × Nat) :=
  ((c.rows false).zip (c.rows true)).flatMap fun (a, b) =>
    (List.range (c.xb / 256)).map fun i => (a.toNat / 256 + i, b.toNat / 256 + i)

/-- A write past the write point goes to a source frame of a page request. -/
def inSource (c : CopyReq) (e : SqEntry) : Bool := c.page && c.frames.any fun f => e.inFrame f.1

/-- One that has to wait before it can go home (R343, R405). -/
def sourceHeld (s : State) (c : CopyReq) : Option SqEntry :=
  s.wp.find? fun e => inSource c e && e.places.any fun p => writeWaits s (s.detTag e.lid e.bidx) p 1

/-- The conditions of R393. -/
def pageLegal (g : Group) (c : CopyReq) : Bool :=
  g.priv != .user && c.xb % 256 == 0 &&
  ((c.rows false) ++ (c.rows true)).all (fun a => a.toNat % 256 == 0 && inHbm a.toNat && inHbm (a.toNat + c.xb - 1)) &&
  (let fs := c.frames
   let ds := fs.map (·.2)
   !fs.any fun f => ds.contains f.1)

/-- The values of a request are in range (R238); its reserved bits are ignored (R5). -/
def copyValues (r : Nat) : Bool :=
  let c := copyReq r
  c.xb != 0 && c.yc != 0 && c.zc != 0 && c.total < 2 ^ 40

/-- IMPOSE (R211, R238): the request's offset is checked, the request is read as the group's own Case load, its fields are
checked, and it is passed to the core's engine. DESIGN CHOICE (log 54): the barrier number is checked only where cnt is set. -/
def execImpose (f : GAForm) (s : State) : Out State :=
  engineGroup s [Use.u f.a.toNat] false f.g fun g =>
    let off := ((g.ureg f.a.toNat).extractLsb' 0 22).toNat
    let fault := fun cls => raiseAll s cls
    if off % 32 != 0 then fault 0x08
    else match caseRun s g off 32 with
      | .bad => fault 0x07
      | .busy => stall s 11
      | .ok =>
        match blockPlace s g.bid off with
        | none => fault 0x07
        | some p =>
          if redPending s g.gid p 32 then stall s 11
          else
            let r := loadNum s g none p 32
            let c := copyReq r
            let count := match s.launch? g.lid with
              | some l => l.lr.bbar
              | none => 0
            if r.testBit 180 && r / 2 ^ 176 % 16 ≥ count then fault 0x0D
            else if !c.page && copyOdd s g c then fault 0x08
            else if !copyValues r || (c.page && !pageLegal g c) then fault 0x07
            else match (if c.page then .ok else copyExtent s g c) with
              | .bad => fault 0x07
              | .busy => stall s 11
              | .ok =>
                if (s.engine g.core).imps.length ≥ 64 then stall s 11
                else if let some e := sourceHeld s c then stall (askHost s e.place 32 true) 11
                else
                  let n := nextSeq g.seq
                  let q : ImpReq :=
                    { gid := g.gid, bid := g.bid, grp := g.grp, prv := g.priv != .user, seq := n, pc := s.iss.addr,
                      len := s.iss.len, req := r, pos := 0, failed := none, raised := false,
                      tr := s.now g }
                  -- no cache keeps a frame of the source (R393)
                  let m : Migr := { core := g.core, gid := g.gid, seq := n, lines := c.frames.map fun (a, b) => (a, b, false) }
                  let s := if c.page then { performWhere s (inSource c) with migr := s.migr ++ [m] } else s
                  ((s.updEngine g.core fun e => { e with imps := e.imps ++ [q] }).updGroup g.gid fun g =>
                    { g with seq := n }).advance

/-- IMPSTAT (R240): the oldest command is the one issued longest ago, by sequence numbers that wrap (R207). -/
def execImpstat (f : GDForm) (s : State) : Out State :=
  engineGroup s [Use.u f.d.toNat] false f.g fun g =>
    match copyFault s g fun _ => true with
    | some r => raiseDeferred s g r
    | none =>
      let e := s.engine g.core
      let seqs := (e.imps.filter fun r => r.gid == g.gid).map (fun r => r.seq.toNat) ++
        (e.fetchcs.filter fun r => r.gid == g.gid).map (fun r => r.seq.toNat)
      let age := fun (q : Nat) => (g.seq - BitVec.ofNat 32 q).toNat
      let w := seqs.length % 2 ^ 16 + 2 ^ 32 * ((greatestBy age seqs).getD 0)
      (s.updGroup g.gid fun g => g.setUreg f.d.toNat (BitVec.ofNat 64 w)).advance

end Sys2Proof.Machine
end

