-- ==== Sys2Proof/Machine/EventEngine.lean ====
section
/-!
DEFINITION. Events of the engines: commands of the matrix engine (R217, R311 to R319), bytes of FETCHC and of the
Imposer (R237, R239), and lines of a page in migration (R394).
-/

namespace Sys2Proof.Machine

/-! ## Matrix engine -/

/-- The engine runs a context's commands: its block is not stopped for a save or on its way back (R233). -/
def ctxRuns (s : State) (e : Engine) (x : Nat) : Bool :=
  match (ctxBlock s e x).bind s.block? with
  | some b => !(b.phase == .saving || b.phase == .saved || b.phase == .restoring)
  | none => true

/-- A command an engine may take up now; at a stop a stream goes on to a boundary where the next row is below m (R316). -/
def engineTakes (s : State) (core : Nat) (c : Option MCmd) : Option MCmd :=
  let e := s.engine core
  let saving := fun (x : Nat) => ((ctxBlock s e x).bind s.block?).any fun b => b.phase == .saving
  c.bind fun c => if ctxRuns s e c.x || (saving c.x && MCmd.overRow e c) then some c else none

/-- STREAM_START (R312, R224). -/
def execStreamStart (core x : Nat) (s : State) : Out State :=
  event "STREAM_START" <| (engineTakes s core (startable (s.engine core) x)).bind fun c =>
    c.stream?.map fun a => releaseEnded (startStream s core c a) core c.x

/-- MATRIX_STEP (R224). -/
def execMatrixStep (core : Nat) (s : State) : Out State :=
  event "MATRIX_STEP" <| (engineTakes s core (runningStream (s.engine core))).bind fun c =>
    match c.stream?, c.set, pendingStep s ((s.engine core).ctx c.x).step c with
    | some a, some p, some n => some (takeStep s core c a p n)
    | _, _, _ => none

/-- SWAP_TAKE_EFFECT (R217, R312): the sets are exchanged. An MSWAP is complete; a stream waits for the array. -/
def execSwapTakeEffect (core : Nat) (s : State) : Out State :=
  event "SWAP_TAKE_EFFECT" <| (engineTakes s core (swappable (s.engine core))).map fun c =>
    let s := s.updEngine core fun e => { e with live := e.shadow, shadow := e.live }
    if c.isSwap then completeCmd s core c else s.updCmd core c fun c => { c with swapped := true }

/-- MLOAD_COMPLETE (R221). -/
def execMloadComplete (core : Nat) (s : State) : Out State :=
  event "MLOAD_COMPLETE" <| (engineTakes s core (loadable (s.engine core))).bind fun c =>
    match c.ins with
    | .mload f => some (completeCmd (s.updEngine core fun e => { e with shadow := denseSet s c f }) core c)
    | _ => none

/-- MLOADS_COUNT_PHASE (R222, R314): the command starts, and the shadow set holds no usable set from here on. The bitmaps are
read, and the value extent checked; where it fails, a deferred fault waits that names the first byte outside it. -/
def execMloadsCountPhase (core : Nat) (s : State) : Out State :=
  event "MLOADS_COUNT_PHASE" <| (engineTakes s core (loadable (s.engine core))).bind fun c =>
    match c.ins, c.phase with
    | .mloads f, .queued =>
      let p := countedSet s c f
      let s := s.updEngine core fun e => { e with shadow := PlaneSet.reset }
      (match loadsFault s (s.issuerOf c.gid c.bid 0 c.prv) c p with
       | none => some (s.updCmd core c fun c => { c with phase := .counted, set := some p })
       | some a =>
         let s := s.updCmd core c fun c => { c with phase := .failed (engineRaise 0x07 0 c.pc c.seq a false) }
         some (releaseEnded (progress s c.gid) core c.x))
    | _, _ => none

/-- MLOADS_COMPLETE (R222, R314): the set is packed. -/
def execMloadsComplete (core : Nat) (s : State) : Out State :=
  event "MLOADS_COMPLETE" <| (engineTakes s core (loadable (s.engine core))).bind fun c =>
    match c.ins, c.phase, c.set with
    | .mloads _, .counted, some p =>
      some (completeCmd (s.updEngine core fun e => { e with shadow := packedSet s c p }) core c)
    | _, _, _ => none

/-- DRAIN_ROW (R228, R319). -/
def execDrainRow (core x : Nat) (s : State) : Out State :=
  event "DRAIN_ROW" <| (engineTakes s core (drainable (s.engine core) x)).bind fun c =>
    match c.ins with
    | .mdrain f => drainRow s core c f
    | _ => none

/-- A tile with its non-zero elements dropped. -/
def zeroTile (m : MCtx) (t : Nat) : MCtx := { m with tiles := vset m.tiles t [] }

/-- TILE_COMMAND_COMPLETE (R225, R313): MZERO, MMOVA, or a stream with no step left. -/
def execTileCommandComplete (core x : Nat) (s : State) : Out State :=
  event "TILE_COMMAND_COMPLETE" <| (engineTakes s core (tileCompletable s (s.engine core) x)).bind fun c =>
    match c.ins with
    | .mzero f => some (completeCmd (s.updMctx core x fun m => zeroTile m f.tile.toNat) core c)
    | .mmova _ =>
      let put : MCtx → Word × Word → MCtx := fun m v =>
        let (t, i, col) := coordTile v.1
        setTileWord m t i col v.2
      some (completeCmd (s.updMctx core x fun m => c.vals.foldl put m) core c)
    | _ =>
      c.set.map fun p =>
        let m := (rowCtl c.u2).m
        let skipped := p.planes * m - ((s.engine core).ctx x).step.pos m
        let s := s.updMctx core x fun k => { k with step := k.step.ended p.planes m }
        completeCmd (s.countEvent core 5 skipped) core c

/-! ## Copies -/

/-- Where a copy stands after one of its bytes was tried. -/
inductive CopyAns where
  | moved (s : State) (n : Nat)
  | failed (r : Raise)
  | lost (code : BitVec 8) (va : DWord)
  | asked (p : Place) (write : Bool)
  | waits

/-- A place in a FIFO bank, as cluster and bank. -/
def fifoAt (s : State) (p : Place) : Option (Nat × Nat) :=
  match p with
  | .mem _ => none
  | .case k =>
    let c := k / 2 ^ 22
    let b := k / 2 ^ 16 % 64
    if (s.bank c b).mode == .fifo then some (c, b) else none

/-- The bank of a Case place is switching its mode. -/
def switchingAt (s : State) (p : Place) : Bool :=
  match p with
  | .mem _ => false
  | .case k => (s.bank (k / 2 ^ 22) (k / 2 ^ 16 % 64)).switch.isSome

/-- The addresses of a run translate: their places, or the first that does not. -/
def placesOf (f : Frozen) (s : State) (g : Group) (n : Need) : List DWord → Except (XFault × DWord) (List (DWord × Place))
  | [] => .ok []
  | a :: as =>
    match xlateIn f s g n a with
    | .error x => .error (x, a)
    | .ok x =>
      match placesOf f s g n as with
      | .error e => .error e
      | .ok ps => .ok ((a, x.place) :: ps)

/-- The next byte of a request, or the next word where an address lies in a FIFO bank (R239); each byte of the word at a plain
address has a place of its own. DESIGN CHOICE (log 55): the bytes arrive in ascending (z, y, x), and a source byte that is a
destination byte of the same request is read as it stands when its turn comes. -/
def copyNext (s : State) (r : ImpReq) : CopyAns :=
  let c := copyReq r.req
  let g := s.issuerOf r.gid r.bid r.grp r.prv
  let isFifo := fun (a : DWord) (w : Bool) => match xlateIn r.tr s g (engineNeed w r.prv) a with
    | .ok x => (fifoAt s x.place).isSome
    | .error _ => false
  let (a, d) := c.addrs r.pos
  let n := if isFifo a false || isFifo d true then 4 else 1
  let run := fun (fifo : Bool) (f : DWord × DWord → DWord) =>
    if fifo then [f (a, d)] else (List.range n).map fun k => f (c.addrs (r.pos + k))
  let froms := run (isFifo a false) Prod.fst
  let tos := run (isFifo d true) Prod.snd
  if let some p := (froms ++ tos).findSome? (xlateHeld r.tr s g) then .asked p false
  else
  match placesOf r.tr s g (engineNeed false r.prv) froms, placesOf r.tr s g (engineNeed true r.prv) tos with
  | .error (x, va), _ => .failed (engineRaise x.cls 0 r.pc r.seq va false)
  | _, .error (x, va) => .failed (engineRaise x.cls 0 r.pc r.seq va true)
  | .ok ps, .ok qs =>
    if (ps ++ qs).any fun x => switchingAt s x.2 then .waits
    else match ps.find? (fun x => waitsHome s x.2 1 false), qs.find? (fun x => writeWaits s (s.groupTag g) x.2 1) with
    | some x, _ => .asked x.2 false
    | none, some x => .asked x.2 true
    | none, none =>
      let err := fun (w : Bool) (x : DWord × Place) => (engineError s x.2 1 w).map fun k => (k, x.1)
      match (ps.findSome? (err false)).or (qs.findSome? (err true)) with
      | some (k, va) => .lost k va
      | none =>
        let src : Option (State × List Byte) := match ps.findSome? fun x => fifoAt s x.2 with
          | some (k, b) => match (s.bank k b).fifo with
            | w :: _ => some (s.updBank k b fun x => { x with fifo := x.fifo.drop 1 }, leBytes 4 w.toNat)
            | [] => none
          | none => some (engineTouch s g (ps.map (·.2)), ps.map fun x => imposerByte s g x.2)
        match src with
        | none => .waits
        | some (s, bs) =>
          match qs.findSome? fun x => fifoAt s x.2 with
          | some (k, b) =>
            if (s.bank k b).fifo.length ≥ fifoDepth then .waits
            else .moved (s.updBank k b fun x => { x with fifo := x.fifo ++ [BitVec.ofNat 32 (ofLeBytes bs)] }) n
          | none =>
            let site (va : DWord) : EngineSite := { path := 3, pc := r.pc, seq := r.seq, va := va, bar := r.bar }
            .moved ((qs.zip bs).foldl (fun s (x, b) => engineWrite s g (site x.1) x.2 [b]) s) n

/-- Changes a request of a core. -/
def updImp (s : State) (core : Nat) (r : ImpReq) (f : ImpReq → Option ImpReq) : State :=
  s.updEngine core fun e => { e with imps := e.imps.filterMap fun q => if q.gid == r.gid && q.seq == r.seq then f q else some q }

/-- Bytes of a request have arrived: they are counted, and the last completes it (R239, R240). -/
def impMoved (s : State) (core : Nat) (r : ImpReq) (n : Nat) : State :=
  let s := match r.bar with
    | some b => countDown s r.bid b n
    | none => s
  let s := s.countEvent core 14 n
  if r.pos + n ≥ (copyReq r.req).total then progress (updImp s core r fun _ => none) r.gid
  else updImp s core r fun q => some { q with pos := r.pos + n }

/-- The site of an engine error (R379). -/
def copyLost (s : State) (r : ImpReq) (core : Nat) (code : BitVec 8) (va : DWord) : State :=
  let g := s.issuerOf r.gid r.bid r.grp r.prv
  asyncError s g.lid code r.pc r.seq va (s.blockIdx g) core r.grp

/-- At most `n` bytes of a request move, as far as they can; `none` when none could. -/
def copyBytes (s : State) (core : Nat) (r : ImpReq) : Nat → Nat → Option State
  | 0, _ => none
  | fuel + 1, n =>
    match copyNext s r with
    | .waits => none
    | .asked p w => askOnce s p 1 w
    | .lost c va => some (updImp (copyLost s r core c va) core r fun _ => none)
    | .failed f =>
      if (s.group? r.gid).isNone then none
      else some (raiseStanding (updImp s core r fun q => some { q with failed := some f }) r.gid)
    | .moved t k =>
      let t := impMoved t core r k
      if n ≤ k || r.pos + k ≥ (copyReq r.req).total then some t
      else match copyBytes t core { r with pos := r.pos + k } fuel (n - k) with
        | some u => some u
        | none => some t

/-- IMPOSER_BYTES_ARRIVE (R239): bytes of the k-th request of a core. -/
def execImposerBytesArrive (core k n : Nat) (s : State) : Out State :=
  event "IMPOSER_BYTES_ARRIVE" <| ((s.engine core).imps[k]?).bind fun r =>
    if r.failed.isSome || (copyReq r.req).page || n = 0 then none else copyBytes s core r n n

/-- FETCHC_BYTES_ARRIVE (R237): the bytes of the next lane of the k-th FETCHC of a core. -/
def execFetchcBytesArrive (core k : Nat) (s : State) : Out State :=
  event "FETCHC_BYTES_ARRIVE" <| ((s.engine core).fetchcs[k]?).bind fun r =>
    let upd (s : State) (f : FetchC → Option FetchC) : State := s.updEngine core fun e => { e with
      fetchcs := e.fetchcs.filterMap fun q => if q.gid == r.gid && q.seq == r.seq then f q else some q }
    let g := s.issuerOf r.gid r.bid r.grp r.prv
    match r.failed, r.lanes with
    | none, (_, x, y, off) :: rest =>
      (match fountFetch r.tr s g r.prv r.h.entry 256 x y with
       | (t, .ok v) =>
         let t := match blockPlace t r.bid off with
           | some p => engineWrite t g { path := 2, pc := r.pc, seq := r.seq, va := 0x01FFFFFFFF000000 + BitVec.ofNat 64 off, bar := r.bar } p (leBytes 32 v)
           | none => t
         let t := match r.bar with
           | some b => countDown t r.bid b 32
           | none => t
         some (if rest.isEmpty then progress (upd t fun _ => none) r.gid else upd t fun q => some { q with lanes := rest })
       | (_, .held p) => askOnce s p 32 false
       | (_, .poison va) => some (upd (asyncError s g.lid 1 r.pc r.seq va (s.blockIdx g) core r.grp) fun _ => none)
       | (_, .lost c va) => some (upd (asyncError s g.lid c r.pc r.seq va (s.blockIdx g) core r.grp) fun _ => none)
       | (_, .bad f va) =>
         if (s.group? r.gid).isNone then none
         else
           let x := engineRaise f.cls 0 r.pc r.seq va false
           some (raiseStanding (upd s fun q => some { q with failed := some x }) r.gid))
    | _, _ => none

/-! ## Page migration (R394, R395) -/

/-- The lanes whose sets hold a word of the line fail validation (R395). -/
def markMoved (frame : Nat) (g : Group) : Group :=
  g.mapLanes fun _ x =>
    if x.tx.words.any fun w => w / 256 == frame then { x with tx := { x.tx with moved := true } } else x

/-- An address of the moved line, in its destination frame. -/
def rehome (a b key : Nat) : Nat := if key / 256 = a then b * 256 + key % 256 else key

/-- A queued write to the moved line goes to the destination, so that its group's loads find it there (R286). -/
def SqEntry.rehome (a b : Nat) (e : SqEntry) : SqEntry :=
  match e.place with
  | .mem k => { e with place := .mem (Machine.rehome a b k) }
  | .case _ => e

/-- The galley pages after a line has moved (R355): its page at the destination keeps the floor it was loaded with, though
its leaf entries name the source page until software rewrites them, and the leaf entries that lay in the line are found where they
stand now. -/
def moveFloors (a b : Nat) (ps : List GalleyPage) : List GalleyPage :=
  let ps := ps.map fun p => { p with entries := p.entries.map (rehome a b) }
  match ps.find? fun p => a * 256 / 2 ^ p.bits == p.page / 2 ^ p.bits with
  | none => ps
  | some p =>
    let q := { p with page := b * 256 / 2 ^ p.bits * 2 ^ p.bits, was := p.page / 2 ^ p.bits :: p.was }
    ps.filter (fun r => !(r.page == q.page && r.bits == q.bits)) ++ [q]

/-- The line's bytes, stamp, poison, impressions, galley floor and versions move to the destination frame, and with them the
writes still on their way (R286, R355, R394 step 3). -/
def moveLine (s : State) (a b : Nat) : State :=
  let s : State := { s with mem := bytesPut s.mem (b * 256) (bytesAt s.mem (a * 256) 256) }
  let ver := (s.ver.filter fun v => v.addr / 256 != b).map fun v => { v with addr := rehome a b v.addr }
  let imps := (s.imps.filter fun c => c.sector / 8 != b).map fun c => { c with sector := rehome a b (32 * c.sector) / 32 }
  let bad := (s.poison.filter fun p => p / 8 == a).map fun p => b * 8 + p % 8
  { s with ver := ver, imps := imps, galfloor := moveFloors a b s.galfloor, stamps := listPut s.stamps b (stampOf s a),
           poison := bad.foldl (fun l p => insertNat p l) (s.poison.filter fun p => p / 8 != b),
           sq := s.sq.map (SqEntry.rehome a b), wp := s.wp.map (SqEntry.rehome a b),
           groups := s.groups.map (markMoved a) }

/-- MIGRATION_LINE_COPY (R394): the next line of the k-th page copy, in one atomic step. -/
def execMigrationLineCopy (k : Nat) (s : State) : Out State :=
  event "MIGRATION_LINE_COPY" <| (s.migr[k]?).bind fun m =>
    match m.lines.find? (fun l => !l.2.2), (s.engine m.core).imps.find? fun r => r.gid == m.gid && r.seq == m.seq with
    | some (a, b, _), some r =>
      if tokenHeld s (.mem (a * 256)) 256 then none
      else match [a, b].find? fun f => hostHolds s (.mem (f * 256)) 256 true with
        | some f => askOnce s (.mem (f * 256)) 256 true
        | none =>
          let s := performWhere s fun e => e.inFrame a || e.inFrame b
          let s := moveLine s a b
          let done : Migr → Migr := fun n =>
            if n.gid == m.gid && n.seq == m.seq then
              { n with lines := n.lines.map fun l => if l.1 == a then (l.1, l.2.1, true) else l }
            else n
          some (impMoved { s with migr := s.migr.map done } m.core r 256)
    | _, _ => none

end Sys2Proof.Machine
end

