-- ==== Sys2Proof/Machine/Quoin.lean ====
section
/-!
DEFINITION. Quoin keys and the groups that obstruct a batch (R344, R345).
-/

namespace Sys2Proof.Machine

/-- A batch takes the Quoin: its launch is deterministic, and it is not presented by a handler, whose issues leave the keys
unchanged (R344, R401). -/
def batchDet (s : State) (b : Batch) : Bool :=
  (s.detTag b.lid 0).isSome && (match s.group? b.gid with
    | some g => g.priv == .user
    | none => true)

/-- The Quoin key of a group (R344). -/
def quoinKey (s : State) (g : Group) : List Nat :=
  let b := s.blockIdx g
  let d := match s.launch? g.lid with
    | some l => max 1 l.lr.clusterdim
    | none => 1
  [g.key.ge, b / d, g.key.ce, b, g.key.be, g.grp, g.key.k]

/-- Keys compared component by component. -/
def keyLt : List Nat → List Nat → Bool
  | x :: xs, y :: ys => x < y || (x == y && keyLt xs ys)
  | _, _ => false

/-- The barrier a resident or saved group waits at. -/
def quoinWait (g : Group) : Option BarWait :=
  match g.priv with
  | .user => g.hold.bar
  | .save => tbarwWait g.trap
  | .restore => tbarwWait g.trap
  | .handler _ => none

/-- A group obstructs a key (R345). -/
def obstructs (s : State) (key : List Nat) (g : Group) : Bool :=
  let k := quoinKey s g
  let same (n : Nat) : Bool := k.take n == key.take n
  keyLt k key && !(match quoinWait g with
    | none => false
    | some w => match w.level.toNat with
      | 3 => true
      | 2 => same 2
      | 1 => same 4
      | _ => false)

/-- The groups of a launch that have not ended, saved ones among them; a saved group's wait stands in its trap state. -/
def launchGroups (s : State) (lid : Nat) : List Group :=
  (s.groups.filter fun g => g.lid == lid) ++
  ((s.blocks.filter fun b => b.lid == lid).flatMap fun b => b.saved.map fun g => { g with priv := .save })

end Sys2Proof.Machine
end

