-- ==== Sys2Proof/Machine/Issue.lean ====
section
/-!
DEFINITION. One issue: which lanes issue (R110, R111, R262), the fetch (R385), what comes before the instruction
(replay, deferred faults, breakpoints) and what follows it (ages, step, counters, R397, R428, R431, R434).
-/

namespace Sys2Proof.Machine

/-! ## Before the instruction -/

/-- The lowest breakpoint comparator that matches an address, and the threads it matches (R426, R428). -/
def breakpoint (g : Group) (helper : Bool) (x : Sel) : Option (Nat × List Nat) :=
  if g.dbg.skip && !helper then none
  else
    let ts := x.active.filter fun t => helper || !(g.lane t).tx.isOpen
    if ts.isEmpty then none
    else ((List.range 4).find? fun n =>
      let b := vget 0 g.dbg.ibp n
      b.getLsbD 0 && b.extractLsb' 1 31 == x.addr.extractLsb' 1 31 && !x.addr.getLsbD 0).map fun n => (n, ts)

/-- What happens before an instruction runs: the instruction runs, or, when it would issue, the event of a comparator that matches
is raised in its place (R426); or something else happened instead of it. -/
inductive Prep where
  | run (s : State) (i : Instr) (brk : Option Raise)
  | other (s : State)
  | notReady

/-- The issue of an instruction whose bits have been fetched: a deferred fault of the group comes first (R196), in a handler too,
where it ends the grid (R377). -/
def enter (s : State) (w : Who) (g : Group) (x : Sel) (bits len : Nat) : Prep :=
  let (word, konst) := wordsIn bits len
  let s : State := { s with iss :=
    { Issue.none with gid := w.gid, helper := w.helper, addr := x.addr, len := len, word := word, konst := konst, active := x.active } }
  match (if w.helper then none else g.fl.deferred.head?) with
  | some d =>
    .other (raiseFrom s (s.updGroup w.gid fun g => { g with fl := { g.fl with deferred := g.fl.deferred.drop 1 } }) g
      { d with addr := x.addr, len := len })
  | none =>
    let brk := (breakpoint g w.helper x).map fun (n, ts) => { faultOf s 0x10 ts [] with code := BitVec.ofNat 8 (0x40 + n) }
    match decode bits with
    | .ok (i, _) => .run s i brk
    | .error _ => .run s .illegalEncoding brk

/-- A fetch fails (R385, R392): the group's own operand log is the stop when it holds an entry; a line the host holds is
asked for; a link that loses it is reported (R410). -/
def fetchFails (s : State) (w : Who) (g : Group) (x : Sel) : Fetch → State
  | .ok _ _ => s
  | .asked p => stall (askHost s p 32 false) 13
  | .lost c va => stall (asyncError s g.lid c x.addr 0 va (s.blockIdx g) g.core g.grp) 13
  | .fault cls len va =>
    let s : State := { s with iss := { s.iss with len := len } }
    if cls = 0x06 && !w.helper && g.priv == .user && !g.fl.opLog.isEmpty then logStop s g
    else
      let s := if cls = 0x06 then s.countEvent g.core 8 1 else s
      raiseNow s (faultOf s cls x.active (x.active.map fun t => (t, va)))

/-- The class 0x10 event of a step (R428): it names the next issue address, once the stepped instruction and those before it have
written their registers (R372). -/
def debugStep (s : State) (g : Group) : State :=
  let x := waitSel g
  match fetchAt s g x.addr with
  | .asked p => stall (askHost s p 32 false) 13
  | _ =>
    raiseFrom s (s.updGroup g.gid fun g => { g with dbg := { g.dbg with due := false } }) g
      { faultOf s 0x10 x.active [] with code := 0x60, addr := x.addr, len := lenAt s g x.addr, recPc := x.addr, helper := none }

/-- One issue of an issuer: the event of a step that is due, and an entry of the operand log to be replayed, come first (R390,
R428). -/
def prepare (s : State) (w : Who) : Prep :=
  match s.group? w.gid with
  | none => .notReady
  | some g =>
    let s : State := { s with iss := { Issue.none with gid := w.gid, helper := w.helper } }
    if !w.helper && g.priv == .user && g.dbg.due then .other (debugStep s g)
    else if !w.helper && g.priv == .user && g.fl.replay then
      (match replayOne s w.gid with
       | (t, some r) => .other (stall { t with iss := s.iss } r)
       | (t, none) => .other t)
    else
      match selOf g w.helper with
      | none => if !w.helper && txHalted g then .other (logStop s g) else .notReady
      | some x =>
        match fetchAt s g x.addr with
        | .ok bits len => enter (fetchTouch s g x.addr len) w g x bits len
        | f => .other (fetchFails { s with iss := { s.iss with addr := x.addr, active := x.active } } w g x f)

/-! ## After the instruction -/

/-- The group's batch waits for the Quoin (R345). -/
def quoinWaits (s : State) (g : Group) : Bool :=
  s.batches.any fun b => b.gid == g.gid && !b.quoin && batchDet s b && b.kind != .spend

/-- A group ends (R127): every lane has exited and none is lent, no LDV waits. -/
def groupOver (g : Group) : Bool :=
  (g.lanesWhere fun x => x.st == .exited && !x.lent).length = 32 && g.fl.ldvs.isEmpty && g.priv == .user &&
  g.fl.pend.isNone && !g.hold.stopped

/-- What holds the lanes of a group of which none issues (R431): the Quoin, a point of R175, a ligature, a waiting LDV, and where
every lane that is left is parked or has exited, the rejoin. -/
def laneReason (s : State) (g : Group) : Nat :=
  let lanes := (List.range 32).map g.lane
  if quoinWaits s g then 8
  else if lanes.any fun x => match x.st with
    | .waiting p => p != .liga
    | _ => false then 9
  else if lanes.any fun x => x.st == .suspended || x.st == .waiting .liga then 14
  else if !g.fl.ldvs.isEmpty then 7
  else if lanes.any fun x => x.st == .parked then 6
  else 15

/-- The stall reason of a group that issues nothing (R431): the lowest-numbered that applies, 0 when none does. `why` is what the
instruction of its issue choice would wait for. A parked group, one that YIELD idles and one that waits to enter a handler count
under 15. -/
def reasonOf (s : State) (why : Option Nat) (g : Group) : Nat :=
  if g.hold.park || g.hold.idleTo.isSome || g.fl.pend.isSome then 15
  else (leastBy id (
    (if g.hold.bar.isSome then [5] else []) ++ (if (atomBatch s g.gid).isSome then [8] else []) ++
    (if g.hold.host || g.fl.replay || txHalted g then [12] else []) ++ why.toList ++
    (if (g.lanesWhere Lane.issues).isEmpty then [laneReason s g] else []))).getD 0

/-- A parked group is a member of the barrier another group waits at, or obstructs its batch (R345, R429). -/
def heldByPark (s : State) (g : Group) : Bool :=
  s.groups.any fun h => h.hold.park && h.gid != g.gid && h.lid == g.lid &&
    (g.hold.bar.any (fun w => sameBar s g h w.level.toNat) || (quoinWaits s g && obstructs s (quoinKey s g) h))

/-- The stall reason of an A-clock in a group's bank (R431, R433). -/
def Group.countStall (g : Group) (r : Nat) : Group :=
  { g with counted := r,
           stalls := vset g.stalls r (let n := vget 0 g.stalls r; if n = BitVec.allOnes 32 then n else n + 1) }

/-- One A-clock of a group (R358, R397, R431); `on` is the group that issues in it, `why` what the instruction of a group would
wait for. A group whose last lane has exited has ended (R127), and one that has stopped counts nothing (R247, R370). -/
def clockGroup (s : State) (why : Group → Option Nat) (on : Option Nat) (g : Group) : Group :=
  let user := g.priv == .user && !groupOver g
  let g := if user && !g.hold.host && !g.hold.park && !heldByPark s g then { g with stallCnt := g.stallCnt + 1 } else g
  let g := if on == some g.gid then { g with counted := 0xFF }
    else if user && !g.hold.stopped then g.countStall (reasonOf s (why g) g)
    else g
  if g.hold.park then g else { g with lig := g.lig.map fun l => { l with life := l.life + 1 } }

/-- One A-clock of a core's counters (R434): A-clocks, and free numbers of L1 and L2 misses (log 34). -/
def clockCore (s : State) (core : Nat) : State :=
  let s := s.countEvent core 1 1
  if (List.range 8).any fun k => (vget 0 (s.coreRegs core).evsel k).toNat / 2 == 3 then
    { (s.countEvent core 6 (Config.misses s.fresh)).countEvent core 7 (Config.misses (s.fresh + 1)) with fresh := s.fresh + 2 }
  else s

/-- A rewrite of the flash under way ends (R438). -/
def flashDone (s : State) : State :=
  match s.fw.rewrite with
  | some img => { s with fw := { s.fw with image := img, rewrite := none } }
  | none => s

/-- One A-clock of the device (R43, R434). A rewrite of the flash takes up to the next one (log 44). -/
def clockStep (s : State) (why : Group → Option Nat) (on : Option Nat) : State :=
  let s : State := { s with groups := s.groups.map (clockGroup s why on), clock := s.clock + 1 }
  flashDone (s.cores.foldl (fun s c => clockCore s c.1) s)

/-- Waits for a resource are tried again (R260). -/
def clearWaits (s : State) : State :=
  { s with groups := s.groups.map fun g =>
      if g.hold.waitFor.isNone && g.hold.waitHelp.isNone then g else { g with hold := { g.hold with waitFor := none, waitHelp := none } } }

/-- The ages after an issue of a group (R111): the active lanes' are 0, those of the other lanes that were live grow. -/
def ageLanes (old : Group) (active : List Nat) (g : Group) : Group :=
  g.mapLanes fun i x =>
    if active.contains i then { x with age := 0 }
    else if (old.lane i).issues then { x with age := min 4095 (x.age + 1) } else x

/-- The ages after an issue of a helper set. -/
def ageHelpers (active : List Nat) (g : Group) : Group :=
  { g with lig := g.lig.map fun l => { l with helpers := l.helpers.mapIdx fun i h =>
      { h with lane := { h.lane with age := if active.contains i then 0 else min 4095 (h.lane.age + 1) } } } }

/-- The executing lanes of an issue, for the event counter (R434): by the guard, which SEL and BRU read otherwise. -/
def countExec (s : State) (g : Group) : Nat :=
  let w := s.iss.word.toNat
  let m := w / 2 % 64
  if w % 2 = 0 || m = 0x09 || m = 0x29 then s.iss.active.length
  else (executing s g { gs := bitAt w 12, gp := bitsAt w 7 5 }).length

/-- The port of a slot (R260). -/
def portOf (slot : Nat) : Nat := slot / 2 % 4

/-- The position of an issuer in its port's cyclic order (R261). -/
def position (g : Group) (helper : Bool) : Nat := 2 * g.slot + bit helper

/-- The port's pointer moves past the issuer (R261). -/
def movePtr (s : State) (g : Group) (helper : Bool) : State :=
  s.updCore g.core fun c => { c with ptr := vset c.ptr (portOf g.slot) (position g helper + 1) }

/-- A group has issued one instruction, a handler's too, that the skip hid from the comparators: its bit clears (R428). -/
def Debug.skipped (d : Debug) (hid : Bool) : Debug :=
  { d with skip := d.skip && !hid, dbgctl := if hid then d.dbgctl &&& ~~~2 else d.dbgctl }

/-- The counters and ages after an issue of a group or of its helper set (R111, R112, R129, R262, R428, R434). A group that a
BKPT or TRAP has taken into its handler has the ages of the entry (R374). -/
def countIssue (old s : State) (g : Group) (helper : Bool) : State :=
  let s := (s.countEvent g.core 2 1).countEvent g.core 3 (countExec { old with iss := s.iss } g)
  if helper then s.updGroup g.gid (ageHelpers s.iss.active)
  else if g.priv != .user then s.updGroup g.gid fun h => { h with hold := { h.hold with forcedPriv := false }, dbg := h.dbg.skipped g.dbg.skip }
  else s.updGroup g.gid fun h =>
    let h := if h.priv == .user then ageLanes g s.iss.active h else h
    let goes := h.priv == .user && h.fl.pend.isNone
    { h with hold := { h.hold with forced := false }, dbg := { h.dbg.skipped g.dbg.skip with
        step := h.dbg.step && !goes, due := g.dbg.step && goes } }

/-- The issue was taken: some threads issued, and no fault was raised in place of their instruction. -/
def issueTaken (s : State) : Bool := !s.iss.active.isEmpty && !s.iss.faulted

/-- What follows an issue: `old` is the state before it, `why` what other groups wait for. An instruction that could not issue, or
in whose place a fault was raised, counts as no issue, and so does a replay (R390). -/
def afterIssue (why : State → Group → Option Nat) (old s : State) (w : Who) : State :=
  match old.group? w.gid with
  | none => clockStep s (why s) none
  | some g =>
    if s.iss.waited then s
    else
      let s := if issueTaken s then countIssue old s g w.helper else s
      let s := if s.iss.active.isEmpty then s else movePtr s g w.helper
      let s := s.launches.foldl (fun s l => if l.quoin.isSome then settleQuoin s l.lid else s) s
      clearWaits (clockStep (spillNew old s) (why s) (if w.helper || s.iss.active.isEmpty then none else some w.gid))

end Sys2Proof.Machine
end

