-- ==== Sys2Proof/Machine/Ligature.lean ====
section
/-!
DEFINITION. Meanings of the ligature instructions (R199 to R206).
-/

namespace Sys2Proof.Machine

/-- Helper frames of a core in use (R356). -/
def framesUsed (s : State) (core : Nat) : Nat :=
  s.groups.foldl (fun n g =>
    if g.core = core then n + ((g.lig.map Lig.helpers).getD [] |>.filter fun h => !h.done).length else n) 0

/-- Free helper frames of a core (R39, R356). -/
def framesFree (s : State) (core : Nat) : Nat := Config.frames - framesUsed s core

/-- Lanes a group can lend (R200): exited or parked, those that wait under R175 among them, and in a neighbour at a
barrier the live ones; none that is lent already. -/
def lendable (g : Group) (neighbour : Bool) : List Nat :=
  g.lanesWhere fun x => !x.lent && (match x.st with
    | .exited => true
    | .parked => true
    | .waiting _ => true
    | .live => neighbour && g.hold.bar.isSome
    | .suspended => false)

/-- The neighbour group of R200: in slot s XOR 1 of the core, of the same launch, not in a deterministic launch; a group that
pre-emption has stopped lends nothing more (R266, R357, R363). -/
def neighbourOf (s : State) (g : Group) : Option Group :=
  if (s.groupTag g).isSome then none
  else s.groups.find? fun h => h.core == g.core && h.slot == (g.slot ^^^ 1) && h.lid == g.lid && h.gid != g.gid && !h.hold.stopped

/-- The lanes that could be lent to a group's ligature, own lanes first (R200). -/
def lenders (s : State) (g : Group) : List (Nat × Nat) :=
  ((lendable g false).take 31).map (fun l => (g.gid, l)) ++
  (match neighbourOf s g with
   | some h => ((lendable h true).take 32).map fun l => (h.gid, l)
   | none => [])

/-- The lifetime limit of a launch's ligatures (R358, R416). -/
def ligLimit (s : State) (g : Group) : Nat :=
  let k := match s.launch? g.lid with
    | some l => l.lr.liglim
    | none => 0
  2 ^ (if k = 0 then 16 else k)

/-- A helper at its start (R201). -/
def newHelper (entry : Word) (from_ : Nat × Nat) : Helper :=
  { lane := Lane.reset entry, lender := from_.1, lendLane := from_.2, claims := 0, partials := [], done := false }

/-- The grant of `ls` to recruiter lane `l` (R200, R201, R204): lanes are lent, the recruiter is suspended. DESIGN CHOICE
(log 53): the copy of s0 to s63 that the helpers read holds U[d] as it stood before LIGA's own write of it. -/
def grant (s : State) (g : Group) (l : Nat) (count entry : Word) (ls : List (Nat × Nat)) : State :=
  let s := ls.foldl (fun s (h, k) => s.updLane h k fun x => { x with lent := true }) s
  let lig : Lig :=
    { lane := l, addr := s.iss.addr, count := count, claim := 0, helpers := ls.map (newHelper entry), u := g.u,
      regs := (g.lane l).v, life := 0, limit := ligLimit s g }
  (((s.countEvent g.core 13 ls.length).updLane g.gid l fun x => { x with st := .suspended }).updGroup g.gid fun g =>
    { g with lig := some lig, stallCnt := 0 })

/-- LIGA (R175, R199, R200): the grant and the end status of the last ligature go to U[d]. A guard that is false in every active lane
leaves it without effect (R32). In a deterministic launch it waits for frames as a lane of its own and then issues again, with its
lanes counted anew (log 72). -/
def execLiga (f : LigaForm) (s : State) : Out State :=
  gate s [Use.u f.d.toNat, Use.vp f.a.toNat] false false fun g =>
    if (executing s g f.g).isEmpty then .next s.advance
    else match s.iss.active with
    | [l] =>
      let x := g.lane l
      let entry := s.target f.off
      if entry.getLsbD 0 then .next (raiseNow s (faultOf s 0x08 [l] [(l, entry.setWidth 64)]))
      else
        let r := min (x.reg f.a.toNat).toNat 63
        let pool := lenders s g
        let want := min r pool.length
        let det := (s.groupTag g).isSome
        let none_ := x.inTx || g.lig.isSome || r == 0
        if !none_ && det && framesFree s g.core < want then
          .next (s.updLane g.gid l fun x => { x with st := .waiting .liga, wake := some want })
        else
          let n := if none_ then 0 else min want (framesFree s g.core)
          let s := s.updGroup g.gid fun h =>
            { h.setUreg f.d.toNat (BitVec.ofNat 64 (n + 256 * g.endstat)) with endstat := 0 }
          if n = 0 then .next s.advance
          else .next (grant s g l (x.reg (f.a.toNat + 1)) entry (pool.take n))
    | _ => .next (raiseAll s 0x02)

/-- Executing helpers of LIGNXT and LIGX; outside helper code the ligature fault (R176), once the guard lets the instruction
take effect (R32, log 66). -/
def ligGate (s : State) (uses : List Use) (gd : Guard) (k : Group → Lig → List Nat → State) : Out State :=
  gate s uses false true fun g =>
    if !s.iss.helper then .next (groupGuard s g gd fun _ => raiseAll s 0x0F)
    else match g.lig with
      | none => .next (raiseAll s 0x0F)
      | some l =>
        let ex := executing s g gd
        .next (if ex.isEmpty then s.advance else k g l ex)

/-- Changes the helpers of a group's ligature. -/
def State.updLig (s : State) (gid : Nat) (f : Lig → Lig) : State :=
  s.updGroup gid fun g => { g with lig := g.lig.map f }

/-- Changes one helper. -/
def Lig.updHelper (l : Lig) (k : Nat) (f : Helper → Helper) : Lig :=
  { l with helpers := l.helpers.mapIdx fun i h => if i = k then f h else h }

/-- One helper's claim (R202): the next index, or N and false when none is left. -/
def claim (det : Bool) (d : Nat) (p : BitVec 5) (l : Lig) (k : Nat) : Lig :=
  let c := (l.helpers[k]?.map Helper.claims).getD 0
  let i := if det then k + c * l.helpers.length else l.claim
  let ok := i < l.count.toNat
  { l.updHelper k (fun h => { h with
      claims := h.claims + 1,
      lane := (h.lane.setReg d (if ok then BitVec.ofNat 32 i else l.count)).setPred p ok }) with
    claim := if ok && !det then l.claim + 1 else l.claim }

/-- LIGNXT (R202): helpers of one issue claim in ascending index. -/
def execLignxt (f : LignxtForm) (s : State) : Out State :=
  ligGate s [Use.d f.d.toNat] f.g fun g _ ex =>
    (s.updLig g.gid fun l => ex.foldl (claim (s.groupTag g).isSome f.d.toNat f.p) l).advance

/-- One helper's LIGX (R203): the first value of a register, or the next one combined into the partial. -/
def reduceInto (d a : Nat) (ty : Bool) (op : BitVec 2) (l : Lig) (k : Nat) : Lig :=
  l.updHelper k fun h =>
    let v := h.lane.reg a
    match h.partials.find? fun p => p.d == d with
    | none => { h with partials := h.partials ++ [{ d := d, f32 := ty, op := op, val := v }] }
    | some p =>
      let (w, fl) := foldPartial p.val { p with val := v }
      { h with lane := h.lane.addFlags fl,
               partials := h.partials.map fun q => if q.d = d then { q with val := w } else q }

/-- LIGX (R203): another operation or type for a register raises the ligature fault. -/
def execLigx (f : LigxForm) (s : State) : Out State :=
  ligGate s [Use.v f.d.toNat, Use.v f.a.toNat] f.g fun g l ex =>
    if l.helpers.any fun h => h.partials.any fun p => p.d == f.d.toNat && (p.op != f.op || p.f32 != f.ty) then
      raiseIn s 0x0F ex
    else (s.updLig g.gid fun l => ex.foldl (reduceInto f.d.toNat f.a.toNat f.ty f.op) l).advance

end Sys2Proof.Machine
end

