-- ==== Sys2Proof/Machine/System.lean ====
section
/-!
DEFINITION. Special and system registers (R42 to R44, R133, R134, R364, R375, R396, R425): SREAD, SYSR and the SYSW
forms that write registers.
-/

namespace Sys2Proof.Machine

/-! ## Special registers (R42) -/

/-- The index of a group's block along one axis of the grid (R66). -/
def blkAxis (s : State) (g : Group) (axis : Nat) : Nat :=
  match s.launch? g.lid with
  | none => 0
  | some l =>
    let b := s.blockIdx g
    match axis with
    | 0 => b % max 1 l.lr.gx
    | 1 => b / max 1 l.lr.gx % max 1 l.lr.gy
    | _ => b / (max 1 l.lr.gx * max 1 l.lr.gy)

/-- The value of a special register in a thread: lane number, or helper index in helper code. -/
def specialReg (s : State) (g : Group) (n t : Nat) (x : Lane) : DWord :=
  match n with
  | 0x0 => BitVec.ofNat 64 (if s.iss.helper then (g.lig.map Lig.lane).getD 0 else t)
  | 0x1 => BitVec.ofNat 64 ((if s.iss.helper then (g.lig.map Lig.lane).getD 0 else t) / 4)
  | 0x2 => BitVec.ofNat 64 g.grp
  | 0x3 => BitVec.ofNat 64 (blkAxis s g 0)
  | 0x4 => BitVec.ofNat 64 (blkAxis s g 1)
  | 0x5 => BitVec.ofNat 64 (blkAxis s g 2)
  | 0x6 => BitVec.ofNat 64 (coreClu g.core)
  | 0x7 => BitVec.ofNat 64 g.core
  | 0x8 => BitVec.ofNat 64 (coreDie g.core)
  | 0x9 => BitVec.ofNat 64 (s.host.devnum.toNat % 256)
  | 0xA => if s.iss.helper then BitVec.ofNat 64 t else 0xFFFFFFFF
  | 0xB => BitVec.ofNat 64 s.clock
  | 0xC => x.fsticky.setWidth 64
  | 0xD => g.seq.setWidth 64
  | _ => 0

/-- Writes a 32-bit register, or a pair for a 64-bit value. -/
def Lane.setWide (x : Lane) (wide : Bool) (d : Nat) (w : DWord) : Lane := if wide then x.setPair d w else x.setReg d (loWord w)

/-- SREAD (R42). -/
def execSread (f : SreadForm) (s : State) : Out State :=
  let wide := f.s = 0xB
  gate s [if wide then Use.dp f.d.toNat else Use.d f.d.toNat] false true fun g =>
    .next (s.mapActive fun t x =>
      { (if guardTrue f.g x then x.setWide wide f.d.toNat (specialReg s g f.s.toNat t x) else x) with pc := s.nextPc })

/-! ## System registers (R44) -/

/-- The virtual address of a block's save area inside the save and restore handlers; 0 elsewhere (R364, R412). -/
def saveArea (s : State) (g : Group) : DWord :=
  if g.priv == .save || g.priv == .restore then
    match (s.block? g.bid).bind Block.area with
    | some a => (s.ctx g.ctx).saveBase + BitVec.ofNat 64 (a * 0x600000)
    | none => 0
  else 0

/-- The value SYSR gives a lane; a register marked write-only reads 0 (R364). -/
def sysReg (s : State) (g : Group) (n : Nat) (x : Lane) : DWord :=
  let c := s.ctx g.ctx
  let r := s.coreRegs g.core
  match n with
  | 0x100 => g.codebase
  | 0x101 => c.heapbase
  | 0x102 => c.heaplim
  | 0x103 => c.heapoff
  | 0x104 => c.vector
  | 0x105 => c.ptbase
  | 0x106 => c.galtab
  | 0x107 => c.spill
  | 0x108 => c.spillsz
  | 0x109 => c.fltring
  | 0x110 => x.fsticky.setWidth 64
  | 0x140 => g.trap.tcause.setWidth 64
  | 0x141 => g.trap.taddr.setWidth 64
  | 0x142 => g.trap.tseq.setWidth 64
  | 0x143 => g.trap.tmask.setWidth 64
  | 0x144 => x.tva
  | 0x145 => g.trap.tinfo
  | 0x146 => g.trap.tcbase
  | 0x147 => x.tpc.setWidth 64
  | 0x148 => x.tlstate.setWidth 64
  | 0x149 => g.trap.tdepth.setWidth 64
  | 0x14A => g.trap.trestart.setWidth 64
  | 0x14B => g.trap.tbarw.setWidth 64
  | 0x180 => saveArea s g
  | 0x185 => (x.p ||| 1).setWidth 64
  | 0x1AC => g.dbg.dbgctl
  | _ =>
    if 0x150 ≤ n ∧ n ≤ 0x15F then vget 0 g.trap.tj (n - 0x150)
    else if 0x181 ≤ n ∧ n ≤ 0x184 then (vget 0 x.kscr (n - 0x181)).setWidth 64
    else if 0x1A0 ≤ n ∧ n ≤ 0x1A3 then vget 0 g.dbg.ibp (n - 0x1A0)
    else if 0x1A4 ≤ n ∧ n ≤ 0x1A7 then vget 0 g.dbg.wpa (n - 0x1A4)
    else if 0x1A8 ≤ n ∧ n ≤ 0x1AB then vget 0 g.dbg.wpc (n - 0x1A8)
    else if 0x1B0 ≤ n ∧ n ≤ 0x1B7 then (vget 0 r.evsel (n - 0x1B0)).setWidth 64
    else if 0x1B8 ≤ n ∧ n ≤ 0x1BF then vget 0 r.evcnt (n - 0x1B8)
    else 0

/-- The register is 64 bits wide. -/
def sysWide (n : Nat) : Bool := (sysInfo n).any fun i => i.width == 64

/-- The register is privileged (R44). -/
def sysPriv (n : Nat) : Bool := (sysInfo n).any fun i => i.priv

/-- The operand of SYSR or SYSW: a register, or an even pair for a 64-bit register (R34, R133, R134). -/
def sysUse (n r : Nat) : Use := if sysWide n then Use.vp r else Use.v r

/-- SYSR (R133). -/
def execSysr (f : SysrForm) (s : State) : Out State :=
  let n := f.s.toNat
  gate s [{ sysUse n f.d.toNat with out := true }] false false fun g =>
    let ex := executing s g f.g
    .next (if sysPriv n && g.priv == .user && !ex.isEmpty then raiseIn s 0x07 ex
      else s.mapActive fun _ x =>
        { (if guardTrue f.g x then x.setWide (sysWide n) f.d.toNat (sysReg s g n x) else x) with pc := s.nextPc })

/-- Writes a per-lane register (R44, R364, R375). -/
def Lane.setSys (x : Lane) (n : Nat) (w : DWord) : Lane :=
  match n with
  | 0x110 => { x with fsticky := w.setWidth 5 }
  | 0x147 => { x with tpc := loWord w }
  | 0x148 => { x with tlstate := loWord w }
  | 0x185 => { x with p := loWord w &&& ~~~1 }
  | _ => if 0x181 ≤ n ∧ n ≤ 0x184 then { x with kscr := vset x.kscr (n - 0x181) (loWord w) } else x

/-- The register is held per lane. -/
def sysLane (n : Nat) : Bool := n == 0x110 || n == 0x147 || n == 0x148 || (0x181 ≤ n && n ≤ 0x185)

/-- Writes a group register (R44, R375, R425); bits the tables give as zero stay zero. -/
def Group.setSys (g : Group) (n : Nat) (w : DWord) : Group :=
  let t := g.trap
  let d := g.dbg
  match n with
  | 0x100 => { g with codebase := w }
  | 0x146 => { g with trap := { t with tcbase := w } }
  | 0x149 => { g with trap := { t with tdepth := loWord w } }
  | 0x14A => { g with trap := { t with trestart := loWord w } }
  | 0x14B => { g with trap := { t with tbarw := loWord w } }
  | 0x1AC => { g with dbg := { d with dbgctl := w &&& 3 } }
  | _ =>
    if 0x150 ≤ n ∧ n ≤ 0x15F then { g with trap := { t with tj := vset t.tj (n - 0x150) w } }
    else if 0x1A0 ≤ n ∧ n ≤ 0x1A3 then { g with dbg := { d with ibp := vset d.ibp (n - 0x1A0) (w &&& 0xFFFFFFFF) } }
    else if 0x1A4 ≤ n ∧ n ≤ 0x1A7 then { g with dbg := { d with wpa := vset d.wpa (n - 0x1A4) w } }
    else if 0x1A8 ≤ n ∧ n ≤ 0x1AB then { g with dbg := { d with wpc := vset d.wpc (n - 0x1A8) (w &&& 0x31F) } }
    else g

/-- Writes a context register (R44). -/
def Ctx.setSys (c : Ctx) (n : Nat) (w : DWord) : Ctx :=
  match n with
  | 0x101 => { c with heapbase := w }
  | 0x102 => { c with heaplim := w }
  | 0x103 => { c with heapoff := w }
  | 0x104 => { c with vector := w }
  | 0x105 => { c with ptbase := w }
  | 0x106 => { c with galtab := w }
  | 0x107 => { c with spill := w }
  | 0x108 => { c with spillsz := w }
  | 0x109 => { c with fltring := w }
  | _ => c

/-- Writes a core register (R425): bits 63:48 of a counter stay zero. -/
def CoreRegs.setSys (r : CoreRegs) (n : Nat) (w : DWord) : CoreRegs :=
  if 0x1B0 ≤ n ∧ n ≤ 0x1B7 then { r with evsel := vset r.evsel (n - 0x1B0) (loWord w) }
  else if 0x1B8 ≤ n ∧ n ≤ 0x1BF then { r with evcnt := vset r.evcnt (n - 0x1B8) (w &&& 0xFFFFFFFFFFFF) }
  else r

/-- Writes a register that is not held per lane, once. -/
def setShared (s : State) (g : Group) (n : Nat) (w : DWord) : State :=
  if 0x101 ≤ n ∧ n ≤ 0x109 then s.updCtx g.ctx fun c => c.setSys n w
  else if 0x1B0 ≤ n ∧ n ≤ 0x1BF then s.updCore g.core fun r => r.setSys n w
  else s.updGroup g.gid fun g => g.setSys n w

/-- The value a lane gives SYSW. -/
def sysSource (n r : Nat) (x : Lane) : DWord := if sysWide n then x.pair r else (x.reg r).setWidth 64

/-- A SYSW of a group (R44, R134): `k` has the value of the lowest-numbered executing lane. -/
def sysWrite (s : State) (gd : Guard) (n r : Nat) (k : Group → List Nat → DWord → State) : Out State :=
  gate s [sysUse n r] false false fun g =>
    let ex := executing s g gd
    .next (match ex with
      | [] => s.advance
      | l :: _ => if sysPriv n && g.priv == .user then raiseIn s 0x07 ex else k g ex (sysSource n r (g.lane l)))

/-- The write of a plain register. -/
def sysPlain (s : State) (gd : Guard) (n r : Nat) : Out State :=
  sysWrite s gd n r fun g _ w =>
    if sysLane n then s.mapActive fun _ x =>
      { (if guardTrue gd x then x.setSys n (sysSource n r x) else x) with pc := s.nextPc }
    else (setShared s g n w).advance

/-- SYSW of the registers that have no row of their own (R134). -/
def execSysw (f : SyswForm) (s : State) : Out State := sysPlain s f.g f.s.toNat f.a.toNat

/-- SYSW to sys.codebase (R134): the next fetch uses the new base with the unchanged PC. -/
def execSyswCodebase (f : GAForm) (s : State) : Out State := sysPlain s f.g 0x100 f.a.toNat

/-- SYSW to a heap-window register (R134): accesses issued before keep the old translation, which each of them carries. -/
def execSyswHeapWindow (f : HeapForm) (s : State) : Out State :=
  let n := 0x101 + f.which.toNat
  sysWrite s f.g n f.a.toNat fun g _ w => (setShared s g n w).advance

/-- SYSW to sys.pred (R364). -/
def execSyswPred (f : GAForm) (s : State) : Out State := sysPlain s f.g 0x185 f.a.toNat

/-! ## Release of a migrated frame (R396) -/

/-- A line frame lies in the 8 KiB frame at an address. -/
def inFrame (pa line : Nat) : Bool := line / 32 == pa / 8192

/-- A queued write goes to the 8 KiB frame at an address. -/
def entryIn (pa : Nat) (e : SqEntry) : Bool := e.places.any fun p => match p with
  | .mem k => k / 8192 == pa / 8192
  | .case _ => false

/-- A kept translation maps the 8 KiB frame at an address. -/
def Frozen.maps (pa : Nat) (f : Frozen) : Bool :=
  f.leaves.any fun (_, l) => l.home = 0 && l.base ≤ pa && pa < l.base + 2 ^ l.bits

/-- An access on its way, one of a saved block among them, has been translated to the 8 KiB frame at an address: it keeps a leaf
that maps the frame. -/
def pinnedIn (s : State) (pa : Nat) : Bool :=
  (s.groups ++ s.blocks.flatMap Block.saved).any (fun g => (g.fl.ldvs ++ g.fl.fetches ++ g.fl.opLog).any fun m => m.tr.maps pa) ||
  s.blocks.any (fun b => b.eng.any fun e => e.cmds.any fun c => c.tr.maps pa) ||
  s.engines.any fun (_, e) => e.queue.any (fun c => c.incomplete && c.tr.maps pa) || e.imps.any (fun r => r.tr.maps pa) ||
    e.fetchcs.any fun r => r.tr.maps pa

/-- SYSW to sys.migrel (R396): the accesses already translated to the frame are performed, then its copy bits and
redirects end. -/
def execSyswMigrel (f : GAForm) (s : State) : Out State :=
  sysWrite s f.g 0x190 f.a.toNat fun _ _ w =>
    let pa := w.toNat % 2 ^ 52 / 8192 * 8192
    if s.migr.any fun m => m.lines.any fun (a, _, c) => inFrame pa a && !c then stall s 11
    else if pinnedIn s pa then stall s 11
    else match (s.sq ++ s.wp).find? fun e => entryIn pa e && (e.waitPlace s).isSome with
      | some e => stall (askHost s e.place 32 true) (flushReason s e)
      | none =>
        let s := (s.sq.filter (entryIn pa)).foldl (fun s e => drainQueue s e.gid) s
        let s := performWhere s (entryIn pa)
        let keep : Migr → Migr := fun m => { m with lines := m.lines.filter fun (a, _, _) => !inFrame pa a }
        ({ s with migr := (s.migr.map keep).filter fun m => !m.lines.isEmpty }).advance

end Sys2Proof.Machine
end

