-- ==== Sys2Proof/Machine/Image.lean ====
section
/-!
DEFINITION. The image registers of the save and restore handlers (R363 to R367): the group image, the block image with
the Case banks, and the engine image with its command records (R233, R318).
-/

namespace Sys2Proof.Machine

/-! ## Accesses of an image -/

/-- An image: runs of bytes at offsets from the address written. -/
abbrev Runs := List (Nat × List Byte)

/-- What an image access needs: a privileged read or write (R365). -/
def imageNeed (write : Bool) : Need := { r := !write, w := write, x := false, galley := false, priv := true }

/-- The 32-byte pieces of a run, by offset. -/
def pieces (o : Nat) (bs : List Byte) : List (Nat × List Byte) :=
  (List.range ((bs.length + 31) / 32)).map fun i => (o + 32 * i, (bs.drop (32 * i)).take 32)

/-- The place of an offset of an image. -/
def imagePlace (s : State) (g : Group) (write : Bool) (base : DWord) (o : Nat) : Option Place :=
  match xlate s g (imageNeed write) (base + BitVec.ofNat 64 o) with
  | .ok x => some x.place
  | .error _ => none

/-- The addresses of an image's 32-byte pieces. -/
def imageAddrs (base : DWord) (spans : List (Nat × Nat)) : List DWord :=
  spans.flatMap fun (o, n) => (List.range ((n + 31) / 32)).map fun i => base + BitVec.ofNat 64 (o + 32 * i)

/-- The fault of an image's accesses, with its address (R365): the class of an address and the mode of its bank come before the
translation (R141, R173). -/
def imageFault (s : State) (g : Group) (write : Bool) (as : List DWord) : Option (XFault × DWord) :=
  let cls := as.find? fun a => match classify s g a with
    | .bad => true
    | .caseAt c k _ _ => (s.bank c k).mode != .scratch
    | _ => false
  match cls with
  | some a => some (.protection, a)
  | none => as.findSome? fun a => match xlate s g (imageNeed write) a with
    | .error e => some (e, a)
    | .ok _ => none

/-- A bank that an image's address names is switching its mode (R160). -/
def imageSwitching (s : State) (g : Group) (as : List DWord) : Bool :=
  as.any fun a => match classify s g a with
    | .caseAt c k _ _ => (s.bank c k).switch.isSome
    | _ => false

/-- The places of an image's 32-byte pieces, with their addresses. -/
def imagePlaces (s : State) (g : Group) (write : Bool) (as : List DWord) : List (Place × DWord) :=
  as.filterMap fun a => match xlate s g (imageNeed write) a with
    | .ok x => some (x.place, a)
    | .error _ => none

/-- Bytes of an image are written at their home, after the queued writes that share a byte with them (R365: every access has
been performed at .dev). -/
def imageWrite (s : State) (g : Group) (va : DWord) (p : Place) (bs : List Byte) : State :=
  let s := performWhere s fun e => (List.range bs.length).any fun o => e.covers (p.plus o)
  writeRun s (s.groupTag g) (coreDie g.core) (some (s.writerOf g s.iss.addr g.seq va)) p bs

/-- A link loses an access of an image (R410). -/
def imageLost (s : State) (g : Group) (va : DWord) (c : BitVec 8) : State :=
  asyncError s g.lid c s.iss.addr g.seq va (s.blockIdx g) g.core g.grp

/-- Writes one run. -/
def imagePut (s : State) (g : Group) (base : DWord) (r : Nat × List Byte) : State :=
  (pieces r.1 r.2).foldl (fun s (o, bs) =>
    match imagePlace s g true base o with
    | none => s
    | some p =>
      let va := base + BitVec.ofNat 64 o
      match linkCode s p with
      | some c => imageLost s g va c
      | none => imageWrite s g va p bs) s

/-- Reads one byte of an image. -/
def imageByte (s : State) (g : Group) (base : DWord) (o : Nat) : Byte :=
  match imagePlace s g false base (o / 32 * 32) with
  | some p => loadByte s g (s.groupTag g) (p.plus (o % 32))
  | none => 0

/-- Reads a number of an image. -/
def imageNum (s : State) (g : Group) (base : DWord) (o n : Nat) : Nat :=
  ofLeBytes ((List.range n).map fun i => imageByte s g base (o + i))

/-- Reads a run of an image. -/
def imageBytes (s : State) (g : Group) (base : DWord) (o n : Nat) : List Byte :=
  (List.range n).map fun i => imageByte s g base (o + i)

/-- The writes of groups on their lanes' paths are performed at .dev. -/
def flushAll (s : State) (core : Nat) (gids : List Nat) : State :=
  gids.foldl (fun s i => flush (flush s i core 3 false) i core 3 true) s

/-- A place of an image's access that has to be waited for (R343, R400, R405). -/
def imageWaits (s : State) (g : Group) (write : Bool) (p : Place) : Bool :=
  if write then writeWaits s (s.groupTag g) p 32 else waitsHome s p 32 false

/-- A SYSW to an image register (R365): the handler, the alignment, the engine's wait, the class and the translation of its
addresses; the earlier writes of the groups `first` names are performed first, and a place that has to be waited for is asked for
(R343, R405). A load that a link loses is reported and loads nothing (R410). -/
def imageGate (s : State) (f : GAForm) (n : Nat) (p : Priv) (write : Bool) (wait : Group → Option Nat)
    (first : Group → List Nat) (spans : Group → List (Nat × Nat)) (k : State → Group → DWord → State) : Out State :=
  sysWrite s f.g n f.a.toNat fun g ex base =>
    if g.priv != p then raiseIn s 0x07 ex
    else if base.toNat % 4096 != 0 then raiseIn s 0x08 ex
    else match wait g with
      | some r => stall s r
      | none =>
        let as := imageAddrs base (spans g)
        match as.findSome? (xlateHeld (s.now g) s g), imageFault s g write as with
        | some p, _ => stall (askHost s p 8 false) 12
        | none, some (x, va) => raiseNow s { faultOf s x.cls ex [] with recVa := va, write := write }
        | none, none =>
          if imageSwitching s g as then stall s 3
          else
            let ps := imagePlaces s g write as
            match (first g).findSome? (fun i => flushBlocked s i g.core (onBoth 3)), ps.find? fun p => imageWaits s g write p.1 with
            | some e, _ => stall (askHost s e.place 32 true) (flushReason s e)
            | none, some p => stall (askHost s p.1 32 write) (if waitsHome s p.1 32 write then 4 else 12)
            | none, none =>
              let lost := if write then [] else ps.filterMap fun p => (linkCode s p.1).bind fun c => if c = 2 then some (p.2, c) else none
              if !write && ps.any fun p => poisonedAt s p.1 32 then raiseIn s 0x09 ex
              else if lost.isEmpty then
                (k (flushAll (if write then s else engineTouch s g (ps.map (·.1))) g.core (first g)) g base).advance
              else (lost.foldl (fun s p => imageLost s g p.1 p.2) s).advance

/-- No wait. -/
def noWait (_ : Group) : Option Nat := none

/-- The group itself. -/
def ownQueue (g : Group) : List Nat := [g.gid]

/-! ## The group image (R367) -/

/-- The lanes that have arrived at a group barrier. -/
def barMask (b : Bar) : Nat := (maskOf (b.arrived.map Arrival.member)).toNat

/-- The bytes of the group image before its device-private part. -/
def groupImage (g : Group) : Runs :=
  let t := g.trap
  [(0, (List.range 64).flatMap fun k => leBytes 8 (g.ureg k).toNat),
   (0x200, (List.range 16).flatMap fun k => leBytes 8 (vget 0 t.tj k).toNat),
   (0x280, leBytes 4 t.tdepth.toNat ++ leBytes 4 t.trestart.toNat ++ leBytes 4 g.seq.toNat ++ leBytes 4 t.stat),
   (0x290, (List.range 2).flatMap fun k =>
      let b := vget Bar.reset g.gbar k
      leBytes 4 b.phase ++ leBytes 4 (barMask b)),
   (0x2A0, leBytes 4 t.tbarw.toNat ++ leBytes 4 (if t.tbarw.getLsbD 31 then t.phase else 0))]

/-- Writes the group image; lane states, transactions and the operand log go in a device-private layout, and the device
keeps them (log 7). -/
def saveGroup (s : State) (g : Group) (base : DWord) : State :=
  let (s, bs) := privateBytes s 3416
  (groupImage g ++ [(0x2A8, bs)]).foldl (fun s r => imagePut s g base r) s

/-- A barrier as an image gives it: phase and arrivals; where they are those of the barrier as kept, the order of its
arrivals stands. -/
def Bar.load (b : Bar) (phase mask : Nat) : Bar :=
  { b with phase := if b.phase % 2 ^ 32 = phase then b.phase else phase,
           arrived := if barMask b = mask then b.arrived
             else (lanesOf (BitVec.ofNat 32 mask)).map fun m => { member := m, bars := false, at_ := 0 } }

/-- The group with what the group image gives (R365): uniform registers at once, the rest of the trap state at ERET. -/
def loadGroup (s : State) (base : DWord) (g : Group) : Group :=
  let w := imageNum s g base 0x2A0 4
  let t := { g.trap with
    tdepth := BitVec.ofNat 32 (imageNum s g base 0x280 4), trestart := BitVec.ofNat 32 (imageNum s g base 0x284 4),
    tbarw := BitVec.ofNat 32 w, phase := imageNum s g base 0x2A4 4, stat := imageNum s g base 0x28C 4,
    tj := Vector.ofFn fun (k : Fin 16) => BitVec.ofNat 64 (imageNum s g base (0x200 + 8 * k.val) 8) }
  { g with
    u := Vector.ofFn fun (k : Fin 64) => BitVec.ofNat 64 (imageNum s g base (8 * k.val) 8),
    seq := BitVec.ofNat 32 (imageNum s g base 0x288 4), trap := t,
    gbar := Vector.ofFn fun (k : Fin 2) =>
      (vget Bar.reset g.gbar k.val).load (imageNum s g base (0x290 + 8 * k.val) 4) (imageNum s g base (0x294 + 8 * k.val) 4) }

/-- SYSW to sys.gsave. -/
def execSyswGsave (f : GAForm) (s : State) : Out State :=
  imageGate s f 0x186 .save true noWait ownQueue (fun _ => [(0, 4096)]) saveGroup

/-- SYSW to sys.gload. -/
def execSyswGload (f : GAForm) (s : State) : Out State :=
  imageGate s f 0x187 .restore false noWait ownQueue (fun _ => [(0, 4096)]) fun s g base => s.updGroup g.gid (loadGroup s base)

/-! ## The block image and the Case banks (R367) -/

/-- The code of a bank's mode in the block image. -/
def modeCode : BankMode → Nat
  | .cache => 0
  | .scratch => 1
  | .fifo => 2

/-- The owned banks of a block, with their place in the block's order. -/
def Block.owned (b : Block) : List (Nat × Nat) := b.banks.mapIdx fun k n => (k, n)

/-- The offset of the k-th owned bank's contents. -/
def bankOffset (k : Nat) : Nat := 0x200000 + 0x10000 * k

/-- The contents of a bank as saved: a scratchpad's bytes, a FIFO's words oldest first; a cache bank holds copies only. -/
def bankImage (s : State) (clu n : Nat) : List Byte :=
  let b := s.bank clu n
  match b.mode with
  | .cache => []
  | .scratch => bytesAt s.caseMem (caseKey clu n 0) 65536
  | .fifo => b.fifo.flatMap fun w => leBytes 4 w.toNat

/-- The bytes of the block image and of the block's banks. -/
def blockImage (s : State) (b : Block) : Runs :=
  let clu := coreClu b.core
  [(0, (List.range 16).flatMap fun k =>
      let x := vget Bar.reset b.bars k
      leBytes 4 x.phase ++ leBytes 4 (barMask x) ++ leBytes 8 (BitVec.ofInt 64 x.count).toNat),
   (0x100, (List.range 64).map fun k => match b.banks[k]? with
      | some n => BitVec.ofNat 8 (modeCode (s.bank clu n).mode)
      | none => 0xFF),
   (0x140, (List.range 64).flatMap fun k => match b.banks[k]? with
      | some n => leBytes 2 (s.bank clu n).fifo.length
      | none => [0, 0]),
   (0x1C0, leBytes 8 (b.handles.foldl (fun m h => m ||| 2 ^ h.1) 0))] ++
  b.handles.map (fun h => (0x800 + 32 * h.1, leBytes 32 h.2.entry)) ++
  b.owned.map fun (k, n) => (bankOffset k, bankImage s clu n)

/-- The spans the block image touches. -/
def blockSpans (s : State) (g : Group) : List (Nat × Nat) :=
  match s.block? g.bid with
  | some b => (0, 4096) :: b.owned.map fun (k, _) => (bankOffset k, 65536)
  | none => []

/-- The handle slots as the block image gives them; the counted barrier of a binding is kept by the device. -/
def loadHandles (s : State) (g : Group) (base : DWord) (b : Block) : List (Nat × Handle) :=
  let bound := imageNum s g base 0x1C0 8
  (List.range 64).filterMap fun k =>
    if bound.testBit k then
      let old := ((b.handles.find? fun h => h.1 == k).map (·.2)).getD { entry := 0, cnt := false, bar := 0 }
      some (k, { old with entry := imageNum s g base (0x800 + 32 * k) 32 })
    else none

/-- One owned bank loaded: mode, then scratchpad bytes or FIFO words. -/
def loadBank (g : Group) (base : DWord) (b : Block) (s : State) (kn : Nat × Nat) : State :=
  let (k, n) := kn
  let clu := coreClu b.core
  match (imageByte s g base (0x100 + k)).toNat with
  | 0 => s.updBank clu n fun x => { x with mode := .cache, fifo := [] }
  | 1 =>
    let bs := imageBytes s g base (bankOffset k) 65536
    let s := s.updBank clu n fun x => { x with mode := .scratch, fifo := [] }
    { s with caseMem := bytesPut s.caseMem (caseKey clu n 0) bs }
  | 2 =>
    let c := imageNum s g base (0x140 + 2 * k) 2
    let ws := (List.range c).map fun i => BitVec.ofNat 32 (imageNum s g base (bankOffset k + 4 * i) 4)
    s.updBank clu n fun x => { x with mode := .fifo, fifo := ws }
  | _ => s

/-- A signed 64-bit number. -/
def int64 (x : Nat) : Int := (BitVec.ofNat 64 x).toInt

/-- Loads the block image: barriers, handle slots and banks at once (R365). -/
def loadBlock (s : State) (g : Group) (base : DWord) : State :=
  match s.block? g.bid with
  | none => s
  | some b =>
    let bars := Vector.ofFn fun (k : Fin 16) =>
      { (vget Bar.reset b.bars k.val).load (imageNum s g base (16 * k.val) 4) (imageNum s g base (16 * k.val + 4) 4) with
        count := int64 (imageNum s g base (16 * k.val + 8) 8) }
    let hs := loadHandles s g base b
    (b.owned.foldl (loadBank g base b) s).updBlock g.bid fun b => { b with bars := bars, handles := hs }

/-- A queued write goes to a bank of a block. -/
def toBank (b : Block) (e : SqEntry) : Bool :=
  match e.place with
  | .mem _ => false
  | .case k => k / 2 ^ 22 == coreClu b.core && b.banks.contains (k / 2 ^ 16 % 64)

/-- The groups whose writes a block image holds (R370): those of the block, and those with a write to one of its banks. -/
def bankWriters (s : State) (g : Group) : List Nat :=
  match s.block? g.bid with
  | some b => g.gid :: ((s.groups.filter fun h => h.bid == g.bid && h.gid != g.gid).map Group.gid ++
      ((s.sq.filter (toBank b)).map SqEntry.gid).eraseDups)
  | none => [g.gid]

/-- SYSW to sys.bsave: the writes on their way to the block's banks have arrived there. -/
def execSyswBsave (f : GAForm) (s : State) : Out State :=
  imageGate s f 0x188 .save true noWait (bankWriters s) (blockSpans s) fun s g base =>
    match s.block? g.bid with
    | some b =>
      let s := performWhere s (toBank b)
      (blockImage s b).foldl (fun s r => imagePut s g base r) s
    | none => s

/-- SYSW to sys.bload. -/
def execSyswBload (f : GAForm) (s : State) : Out State :=
  imageGate s f 0x189 .restore false noWait ownQueue (blockSpans s) loadBlock

/-! ## The engine image (R233, R318, R367) -/

/-- The context of an engine is held by a group of the block, or is still held for one that has ended. -/
def ownsCtx (s : State) (e : Engine) (x bid : Nat) : Bool := ctxBlock s e x == some bid

/-- The engine as a block's image shows it: nothing of it when another block holds its contexts (R215). -/
def blockEngine (s : State) (g : Group) : Engine :=
  let e := s.engine g.core
  if ownsCtx s e 0 g.bid || ownsCtx s e 1 g.bid then e else Engine.reset

/-- A command record (R233) as 64 bytes. -/
def MCmd.record (c : MCmd) : List Byte :=
  leBytes 4 c.word.toNat ++ leBytes 4 c.konst.toNat ++ leBytes 4 c.seq.toNat ++ leBytes 4 c.pc.toNat ++
  leBytes 8 c.u1.toNat ++ leBytes 8 c.u2.toNat ++ leBytes 8 c.u3.toNat ++ leBytes 8 c.u3a.toNat ++ leBytes 8 c.u3b.toNat ++
  leBytes 8 0

/-- A tile row by row, column by column. -/
def tileImage (m : MCtx) (t : Nat) : List Byte :=
  (List.range 16384).flatMap fun k => leBytes 4 (tileWord m t (k / 256) (k % 256)).toNat

/-- The first drain of a context that is not complete. -/
def Engine.drain? (e : Engine) (x : Nat) : Option MCmd := e.queue.find? fun c => c.x == x && c.isDrain && c.incomplete

/-- The step register as a number (R232). -/
def StepReg.num (r : StepReg) : Nat :=
  2 ^ 22 * bit r.dv + 2 ^ 16 * (r.drow % 64) + 2 ^ 8 * bit r.sv + 2 ^ 6 * (r.plane % 4) + r.row % 64

/-- A context's 64-byte entry in the image of a block (R367). The groups of a block have consecutive identifiers after its own,
in the order of %grp, so that of a group that has ended, and for which the context is still held, is known. -/
def ctxImage (e : Engine) (bid x : Nat) : List Byte :=
  let m := e.ctx x
  let holder := match m.holder with
    | none => 0
    | some gid => gid - bid
  let u := match e.drain? x with
    | some c => (c.u62.toNat, c.u63.toNat)
    | none => (0, 0)
  leBytes 4 holder ++ leBytes 4 m.flags.toNat ++ leBytes 8 m.step.num ++ leBytes 8 u.1 ++ leBytes 8 u.2 ++ leBytes 32 0

/-- Writes the engine image: a record for every command that is not complete (R233); the plane sets go in a device-private layout, and the device keeps them (log 7). -/
def saveEngine (s : State) (g : Group) (base : DWord) : State :=
  let e := blockEngine s g
  let (s, bs) := privateBytes s 458752
  let runs : Runs :=
    (List.range 8).map (fun k => (0x10000 * k, tileImage (e.ctx (k / 4)) (k % 4))) ++
    [(0x80000, bs),
     (0xF0000, (List.range 16).flatMap fun r => match (e.queue.filter MCmd.incomplete)[r]? with
        | some c => c.record
        | none => leBytes 64 0),
     (0xF0400, ctxImage e g.bid 0 ++ ctxImage e g.bid 1)]
  let s := runs.foldl (fun s r => imagePut s g base r) s
  s.updBlock g.bid fun b => { b with eng := some { live := e.live, shadow := e.shadow, cmds := e.queue } }

/-- A command rebuilt from its record at an offset and what the device kept of it (R318): a stream or drain that had begun goes
on from the step register when its valid bit is set, a load is done again in full, and a fault that is still to be raised
stands. -/
def loadRecord (s : State) (g : Group) (base : DWord) (o : Nat) (sv : EngineSave) (old : MCmd) : Option MCmd :=
  let word := BitVec.ofNat 32 (imageNum s g base o 4)
  let konst := BitVec.ofNat 32 (imageNum s g base (o + 4) 4)
  match decode (word.toNat + 2 ^ 32 * konst.toNat) with
  | .error _ => none
  | .ok (i, _) =>
    let q (k : Nat) : DWord := BitVec.ofNat 64 (imageNum s g base (o + k) 8)
    let c := { old with
      ins := i, word := word, konst := konst, seq := BitVec.ofNat 32 (imageNum s g base (o + 8) 4),
      pc := BitVec.ofNat 32 (imageNum s g base (o + 12) 4), u1 := q 16, u2 := q 24, u3 := q 32, u3a := q 40, u3b := q 48,
      set := none, raised := false }
    let step := imageNum s g base (0xF0400 + 64 * c.x + 8) 8
    some (match old.phase with
      | .failed r => { c with phase := .failed r }
      | .running =>
        if c.stream?.isSome && step.testBit 8 then { c with set := some sv.live, phase := .running }
        else if c.isDrain && step.testBit 22 then { c with phase := .running }
        else { c with phase := .queued }
      | _ => { c with phase := .queued })

/-- The saved commands in arrival order, each with the number of its record; a failed command that performs nothing more has no
record, and the device keeps its fault, which is still to be raised (R318). -/
def recordNums : Nat → List MCmd → List (Option Nat × MCmd)
  | _, [] => []
  | r, c :: cs => if c.incomplete then (some r, c) :: recordNums (r + 1) cs else (none, c) :: recordNums r cs

/-- U[62] and U[63] of the first pending drain of each context come from its entry; the device keeps those of later ones
(R233, R318). -/
def loadSeeds (s : State) (g : Group) (base : DWord) (cs : List MCmd) : List MCmd :=
  cs.mapIdx fun i c =>
    let u := 0xF0400 + 64 * c.x
    if c.isDrain && !(cs.take i).any (fun b => b.isDrain && b.x == c.x) then
      { c with u62 := BitVec.ofNat 64 (imageNum s g base (u + 16) 8), u63 := BitVec.ofNat 64 (imageNum s g base (u + 24) 8) }
    else c

/-- The commands of the image, in arrival order; a record of zeros is unused. Its reserved bits are ignored (R5). -/
def loadRecords (s : State) (g : Group) (base : DWord) (sv : EngineSave) : List MCmd :=
  loadSeeds s g base <| (recordNums 0 sv.cmds).filterMap fun (r, c) =>
    match r with
    | none => some c
    | some r =>
      let o := 0xF0000 + 64 * r
      if imageNum s g base o 56 = 0 then none else loadRecord s g base o sv c

/-- The step register from its number (R232). -/
def StepReg.ofNum (n : Nat) : StepReg :=
  { sv := n.testBit 8, row := n % 64, plane := n / 64 % 4, dv := n.testBit 22, drow := n / 2 ^ 16 % 64 }

/-- The group a context's entry names as its holder: one of the block, or one of the block's that has ended (R127, R367). -/
def loadHolder (s : State) (g : Group) (h : Nat) : Option Nat :=
  match s.groups.find? fun k => k.bid == g.bid && k.grp + 1 == h with
  | some k => some k.gid
  | none => if h = 0 then none else some (g.bid + h)

/-- A context as the image gives it. -/
def loadCtx (s : State) (g : Group) (base : DWord) (x : Nat) : MCtx :=
  let o := 0xF0400 + 64 * x
  let h := imageNum s g base o 4
  { holder := loadHolder s g h,
    tiles := Vector.ofFn fun (t : Fin 4) => (List.range 16384).foldl (fun l k =>
      cellPut l k (BitVec.ofNat 32 (imageNum s g base (0x40000 * x + 0x10000 * t.val + 4 * k) 4))) [],
    flags := BitVec.ofNat 5 (imageNum s g base (o + 4) 4), step := StepReg.ofNum (imageNum s g base (o + 8) 8) }

/-- Loads the engine image for replay (R318, R365). -/
def loadEngine (s : State) (g : Group) (base : DWord) : State :=
  let sv := ((s.block? g.bid).bind Block.eng).getD { live := PlaneSet.reset, shadow := PlaneSet.reset, cmds := [] }
  let cx := Vector.ofFn fun (x : Fin 2) => loadCtx s g base x.val
  let q := loadRecords s g base sv
  let s := s.updEngine g.core fun e => { e with cx := cx, queue := q, live := sv.live, shadow := sv.shadow }
  let mine (k : Group) : Group :=
    if k.bid == g.bid then
      { k with mctx := [0, 1].find? fun x => (vget MCtx.reset cx x).holder == some k.gid }
    else k
  { s with groups := s.groups.map mine }

/-- A group of another block holds a context of the engine (R365). -/
def engineTaken (s : State) (g : Group) : Option Nat :=
  let e := s.engine g.core
  if [0, 1].any fun x => (e.ctx x).holder.isSome && !ownsCtx s e x g.bid then some 10 else none

/-- The engine has not stopped yet: a running stream stands at the end of a plane's last row (R316, R365). -/
def engineStopping (s : State) (g : Group) : Option Nat :=
  let e := blockEngine s g
  if e.queue.any (fun c => MCmd.overRow e c) then some 2 else none

/-- SYSW to sys.esave: it waits until the engine has stopped under R233. -/
def execSyswEsave (f : GAForm) (s : State) : Out State :=
  imageGate s f 0x18A .save true (engineStopping s) ownQueue (fun _ => [(0, 0x100000)]) saveEngine

/-- SYSW to sys.eload. -/
def execSyswEload (f : GAForm) (s : State) : Out State :=
  imageGate s f 0x18B .restore false (engineTaken s) ownQueue (fun _ => [(0, 0x100000)]) loadEngine

end Sys2Proof.Machine
end

