-- ==== Sys2Proof/Machine/Return.lean ====
section
/-!
DEFINITION. ERET (R132, R376): the return from a fault's handler with what its commands and its operand log do next
(R212, R390, R391), the end of the save handler and of the restore handler (R366).
-/

namespace Sys2Proof.Machine

/-! ## Engine commands after a deferred fault (R212, R391) -/

/-- The matrix commands of a group whose fault has been raised: after a translation fault they go on, a drain after a
protection fault ends with its remaining rows unstored, any other failed command leaves the queue. -/
def resumeMatrix (s : State) (g : Group) : State :=
  (s.engine g.core).queue.foldl (fun s c =>
    if c.gid == g.gid && c.raised then
      match c.fault with
      | none => s
      | some r =>
        if r.cls = 0x06 then s.updCmd g.core c fun c => { c with phase := .running, raised := false }
        else
          let s := if c.isDrain then s.updMctx g.core c.x fun m => { m with step := { m.step with dv := false } } else s
          completeCmd s g.core c
    else s) s

/-- What a copy still had to count is subtracted from its barrier (R391). -/
def forgetBytes (s : State) (bid : Nat) (bar : Option Nat) (n : Nat) : State :=
  match bar with
  | some b => countDown s bid b n
  | none => s

/-- The copies and FETCHC commands of a group whose fault has been raised. -/
def resumeCopies (s : State) (g : Group) : State :=
  let e := s.engine g.core
  let mine : Nat → Bool → Bool := fun gid raised => gid == g.gid && raised
  let s := e.imps.foldl (fun s r => match r.failed with
    | some f => if mine r.gid r.raised && f.cls != 0x06 then forgetBytes s r.bid r.bar ((copyReq r.req).total - r.pos) else s
    | none => s) s
  let s := e.fetchcs.foldl (fun s r => match r.failed with
    | some f => if mine r.gid r.raised && f.cls != 0x06 then forgetBytes s r.bid r.bar (32 * r.lanes.length) else s
    | none => s) s
  let dead : Option Raise → Bool := fun f => f.any fun f => f.cls != 0x06
  s.updEngine g.core fun e => { e with
    imps := (e.imps.filter fun r => !(mine r.gid r.raised && dead r.failed)).map fun r =>
      if mine r.gid r.raised then { r with failed := none, raised := false } else r,
    fetchcs := (e.fetchcs.filter fun r => !(mine r.gid r.raised && dead r.failed)).map fun r =>
      if mine r.gid r.raised then { r with failed := none, raised := false } else r }

/-- The operand log is replayed (R376 step 5). -/
def startReplay (g : Group) : Group := { g with fl := { g.fl with replay := !g.fl.opLog.isEmpty, hostPath := false } }

/-! ## The save handler (R266, R366) -/

/-- The contexts and commands of a block leave its core's engine. -/
def clearEngine (s : State) (b : Block) : State :=
  [0, 1].foldl (fun s x => if ownsCtx s (s.engine b.core) x b.bid then freeContext s b.core x else s) s

/-- Writes on their way to the banks of a block end with the banks' contents (R159, R266). -/
def dropBankWrites (s : State) (b : Block) : State :=
  { s with sq := s.sq.filter (fun e => !toBank b e), wp := s.wp.filter fun e => !toBank b e }

/-- The banks of a block are freed (R159, R266). -/
def freeBanks (s : State) (b : Block) : State := b.banks.foldl (fun s n => s.updBank (coreClu b.core) n fun _ => Bank.reset) s

/-- The block is saved once every one of its groups has ended its handler (R266 steps 5 and 6): its groups, banks and
contexts are freed, and it joins the restore list, which is in the order of the list of blocks. -/
def finishSave (s : State) (bid : Nat) : State :=
  match s.block? bid with
  | none => s
  | some b =>
    let gs := s.groups.filter fun g => g.bid == bid
    if gs.any fun g => g.priv == .save then s
    else
      let s := freeBanks (dropBankWrites (clearEngine s b) b) b
      let b := { b with phase := .saved, saved := gs, banks := [] }
      { s with groups := s.groups.filter (fun g => g.bid != bid), blocks := s.blocks.filter (fun c => c.bid != bid) ++ [b] }

/-- Copies and FETCHC commands of a group, or waiting LDVs of its handler, are on their way. -/
def handlerBusy (s : State) (g : Group) : Bool :=
  let e := s.engine g.core
  e.imps.any (fun r => r.gid == g.gid) || e.fetchcs.any (fun r => r.gid == g.gid) || !g.fl.ldvs.isEmpty

/-- ERET of the save handler (R366): every access of the handler, its copies among them, is performed at .dev, then the group is
saved. A copy that fails
ends the grid, as any fault in the handler does. -/
def saveReturn (s : State) (g : Group) : State :=
  match flushBlocked s g.gid g.core (onBoth 3), copyFault s g fun _ => true with
  | some e, _ => stall (askHost s e.place 32 true) (flushReason s e)
  | none, some f => raiseDeferred s g f
  | none, none =>
    if handlerBusy s g then stall s 11
    else if g.fl.walks.isEmpty && g.fl.loads.isEmpty && g.fl.fetches.isEmpty then
      let s := performWhere (flush (flush s g.gid g.core 3 false) g.gid g.core 3 true) fun e => e.gid == g.gid
      finishSave (s.updGroup g.gid fun g => { g with priv := .user, hold := { g.hold with stopped := true } }) g.bid
    else stall s 12

/-! ## The restore handler (R366, R268) -/

/-- The blocks that must be back before a block's groups issue: itself, or in a co-resident launch all of them. -/
def peersOf (s : State) (b : Block) : List Block :=
  match s.launch? b.lid with
  | some l => if l.lr.coresident then s.blocks.filter fun c => c.lid == b.lid else [b]
  | none => [b]

/-- Every group of a block has executed its restoring ERET. -/
def allBack (s : State) (b : Block) : Bool :=
  b.phase == .resident || (b.phase == .restoring && s.groups.all fun g => g.bid != b.bid || g.priv == .user)

/-- The groups of restored blocks issue again, and their save areas are free. -/
def finishRestore (s : State) (bid : Nat) : State :=
  match s.block? bid with
  | none => s
  | some b =>
    let ps := peersOf s b
    if ps.all (allBack s) then
      let ids := ps.map Block.bid
      let s : State := freeAreas s ps
      let free : Block → Block := fun c =>
        if ids.contains c.bid then { c with phase := .resident, preempt := false, area := none, entry := none, saved := [], eng := none } else c
      let go : Group → Group := fun g => if ids.contains g.bid then { g with hold := { g.hold with stopped := false } } else g
      { s with blocks := s.blocks.map free, groups := s.groups.map go }
    else s

/-- The group waits for its block after a restoring ERET. -/
def awaitBlock (g : Group) : Group := startReplay { g with hold := { g.hold with stopped := true } }

/-! ## ERET -/

/-- What a return sets going: R121 is applied to the stack as the handler left it (R132; log 70), group barriers see the lanes that
have exited, and a barrier wait goes on: it meets the fault of a copy it waits for (R212), or ends when its phase has completed
meanwhile (R137, R376). -/
def afterReturn (s : State) (gid : Nat) : State :=
  let s := s.updGroup gid releaseTop
  match s.group? gid with
  | none => s
  | some g =>
    let s := settleBars s g 0 2
    match s.group? gid with
    | none => s
    | some g =>
      let s := raiseStanding s gid
      match g.hold.bar, (s.group? gid).map Group.priv with
      | some w, some .user => if waitOver s g w then endWait s g w else s
      | _, _ => s

/-- ERET (R132, R376). The replay comes after every access of the handler: those that are not translated, and FETCHes, are waited
for (R388). -/
def execEret (f : GForm) (s : State) : Out State :=
  perGroup s [] false false f.g fun g ex =>
    match g.priv, openOps g with
    | .user, _ => raiseIn s 0x07 ex
    | .save, _ => saveReturn s g
    | _, some k => stall s k
    | .restore, none =>
      if eretOk s g then
        finishRestore (afterReturn ((returnTrap s g).updGroup g.gid awaitBlock) g.gid) g.bid
      else returnTrap s g
    | .handler _, none =>
      if eretOk s g then
        afterReturn (resumeCopies (resumeMatrix ((returnTrap s g).updGroup g.gid startReplay) g) g) g.gid
      else returnTrap s g

end Sys2Proof.Machine
end

