-- ==== Sys2Proof/Machine/Transaction.lean ====
section
/-!
DEFINITION. Meanings of the transaction and speculation instructions (R179 to R193).
-/

namespace Sys2Proof.Machine

/-- A rule of majors 0x37 and 0x38 (R174, R176): not in helper code, nothing when no lane executes. It waits while an earlier
access of the group is not translated, and so not in its lane's sets; the wait counts under `reason`. -/
def txGate (reason : Nat) (s : State) (uses : List Use) (gd : Guard) (k : Group → List Nat → State) : Out State :=
  gateAs reason s uses false false fun g =>
    let ex := executing s g gd
    .next (if ex.isEmpty then s.advance else k g ex)

/-- Active threads: the executing ones change by `f`, the others advance. -/
def State.splitActive (s : State) (gd : Guard) (f : Nat → Lane → Lane) : State :=
  s.mapActive fun l x => if guardTrue gd x then f l x else { x with pc := s.nextPc }

/-! ## Transactions -/

/-- TBEGIN in one executing lane (R181). -/
def beginLane (s : State) (g : Group) (ts : Bool) (path : Word) (l : Nat) (x : Lane) : Lane :=
  let t := x.tx
  if t.isOpen then
    if t.depth = 7 then abortLane s g l 7 x
    else { x with tx := { t with depth := t.depth + 1 }, pc := s.nextPc }
  else if t.att = 8 && (s.groupTag g).isNone then abortLane s g l 6 { x with tx := { t with path := path } }
  else { x with pc := s.nextPc, tx := { t with
    isOpen := true, depth := 1, ts := ts, path := path, start := s.iss.addr, reads := [], writes := [], pend := [],
    stamps := [], moved := false, held := 0 } }

/-- The lane's transaction ends at this TBEGIN, for the depth or the retry limit. -/
def beginAborts (s : State) (g : Group) (x : Lane) : Bool :=
  if x.tx.isOpen then x.tx.depth == 7 else x.tx.att == 8 && (s.groupTag g).isNone

/-- TBEGIN (R181): lanes that open a transaction first have the earlier stores of the group performed at .dev. -/
def tbegin (f : TbeginForm) (ts : Bool) (s : State) : Out State :=
  txGate 4 s [] f.g fun g ex =>
    let bad := ex.filter fun l => (g.lane l).tx.spec
    let opens := ex.any fun l => !(g.lane l).tx.isOpen && !beginAborts s g (g.lane l)
    if !bad.isEmpty then raiseIn s 0x0C bad
    else if opens && !g.fl.walks.isEmpty then stall s 4
    else match (if opens then flushBlocked s g.gid g.core (onBoth 3) else none) with
      | some e => stall (askHost s e.place 32 true) 4
      | none =>
        let s := if opens then flush (flush s g.gid g.core 3 false) g.gid g.core 3 true else s
        let s := s.countEvent g.core 10 (ex.filter fun l => beginAborts s g (g.lane l)).length
        s.splitActive f.g (beginLane s g ts (s.target f.off))

def execTbeginVal (f : TbeginForm) (s : State) : Out State := tbegin f false s
def execTbeginTs (f : TbeginForm) (s : State) : Out State := tbegin f true s

/-- Two sets of words meet. -/
def meets (a b : List Nat) : Bool := a.any b.contains

/-- The lanes of a batch that survive the conflict unit (R183 step 4), the lowest first. -/
def survivors (g : Group) (ls : List Nat) : List Nat :=
  let rd (l : Nat) := (g.lane l).tx.reads.map LogWord.word
  let wr (l : Nat) := (g.lane l).tx.writes.map LogWord.word
  ls.foldl (fun acc l =>
    if acc.any fun k => meets (wr l) (rd k) || meets (wr l) (wr k) || meets (rd l) (wr k) then acc else acc ++ [l]) []

/-- A commit batch is presented (R183 step 5, R342). -/
def present (s : State) (g : Group) (kind : BatchKind) (ls need : List Nat) : State :=
  { s with nextId := s.nextId + 1,
           batches := s.batches ++ [{ id := s.nextId, kind := kind, gid := g.gid, lid := g.lid, lanes := ls, need := need,
                                      held := [], quoin := false, ask := s.nextId, op := none, iss := s.iss }] }

/-- TEND (R183): the commit of a batch releases at .dev, so that what the group has seen goes home before the writes of the batch
do (R289). -/
def execTend (f : GForm) (s : State) : Out State :=
  txGate 12 s [] f.g fun g ex =>
    let bad := ex.filter fun l => !(g.lane l).tx.isOpen
    let batch := ex.filter fun l => (g.lane l).tx.depth ≤ 1
    if !bad.isEmpty then raiseIn s 0x0C bad
    else if !batch.isEmpty && !g.fl.walks.isEmpty then stall s 12
    else match (if batch.isEmpty then none else flushBlocked s g.gid g.core (onL 3)) with
    | some e => stall (askHost s e.place 32 true) (flushReason s e)
    | none =>
      let ok := survivors g batch
      let s := if batch.isEmpty then s else flush s g.gid g.core 3 false
      let s := (s.countEvent g.core 10 (batch.length - ok.length)).splitActive f.g fun l x =>
        if !batch.contains l then { x with tx := { x.tx with depth := x.tx.depth - 1 }, pc := s.nextPc }
        else if ok.contains l then { x with st := .waiting .tend }
        else abortLane s g l 1 x
      if batch.isEmpty then s
      else present s g .tend ok (slicesOf s (ok.flatMap fun l => (g.lane l).tx.words))

/-- TABORT (R185). -/
def execTabort (f : GAForm) (s : State) : Out State :=
  txGate 12 s [Use.v f.a.toNat] f.g fun g ex =>
    let bad := ex.filter fun l => (g.lane l).tx.spec
    let hit := ex.filter fun l => (g.lane l).tx.isOpen
    if !bad.isEmpty then raiseIn s 0x0C bad
    else (s.countEvent g.core 10 hit.length).splitActive f.g fun l x =>
      if x.tx.isOpen then abortLane s g l 5 { x with tx := { x.tx with code := (x.reg f.a.toNat).setWidth 8 } }
      else { x with pc := s.nextPc }

/-- The transaction status word (R179). -/
def Tx.status (t : Tx) : Word :=
  BitVec.ofNat 32 (2 ^ 16 * t.code.toNat + 2 ^ 13 * bit t.ordered + 2 ^ 12 * bit t.spec + 2 ^ 11 * bit t.isOpen +
    2 ^ 8 * t.depth + 2 ^ 4 * t.statAtt + t.reason.toNat)

def execTstat (f : GDForm) (s : State) : Out State :=
  txGate 12 s [Use.d f.d.toNat] f.g fun _ _ => s.splitActive f.g fun _ x =>
    { x.setReg f.d.toNat x.tx.status with pc := s.nextPc }

/-! ## Ordered speculation -/

/-- What a lane's record address answers (R189): its fault class, or the record's physical address. -/
def recordAt (s : State) (g : Group) (ea : DWord) : Except Nat Nat :=
  let need : Need := { r := true, w := true, x := false, galley := false, priv := g.priv != .user }
  if ea.toNat % 32 != 0 then .error 0x08
  else if isCaseAddr s g ea then .error 0x07
  else match xlate s g need ea with
    | .error f => .error f.cls
    | .ok x =>
      match x.place with
      | .case _ => .error 0x07
      | .mem k => if x.home != 0 || !inHbm k then .error 0x07
        else if poisonedAt s x.place 8 then .error 0x09 else .ok k

/-- The lanes whose record address answers a fault class. -/
def recordFails (s : State) (g : Group) (ex : List Nat) (ea : Nat → DWord) (cls : Nat) : List (Nat × DWord) :=
  ex.filterMap fun l => match recordAt s g (ea l) with
    | .error c => if c == cls then some (l, ea l) else none
    | .ok _ => none

/-- The iteration opens in a lane (R189); after a squash its attempts count up (R190, R192). -/
def openIteration (s : State) (n : Word) (domain : Nat) (x : Lane) : Lane :=
  let a := if x.tx.squashed then x.tx.att else 0
  { x with pc := s.nextPc, tx := { x.tx with
      spec := true, ordered := false, start := s.iss.addr, att := a, statAtt := min 15 a, iter := n, domain := domain,
      reads := [], writes := [], pend := [], stamps := [], moved := false, held := 0, squashed := false, ts := false } }

/-- SPBEGIN (R189): the faults in their order, then the iteration opens. The token is read at .dev (R188), past a store to it
that still stands in the group's own store queue (log 67). -/
def execSpbegin (f : SpbeginForm) (s : State) : Out State :=
  txGate 12 s [Use.v f.n.toNat, Use.vp f.b.toNat] f.g fun g ex =>
    let ea := fun l => (g.lane l).pair f.b.toNat
    let tx := ex.filter fun l => (g.lane l).inTx
    let fails := recordFails s g ex ea
    let raiseVas := fun (c : Nat) => raiseNow s (faultOf s c ((fails c).map (·.1)) (fails c))
    if !tx.isEmpty then raiseIn s 0x0C tx
    else if let some p := ex.findSome? fun l => xlateHeld (s.now g) s g (ea l) then stall (askHost s p 8 false) 12
    else match [0x08, 0x06, 0x07, 0x09].find? fun c => !(fails c).isEmpty with
      | some c => raiseVas c
      | none =>
        let recs := ex.filterMap fun l => match recordAt s g (ea l) with
          | .ok k => some (l, k)
          | .error _ => none
        match recs.find? fun (_, k) => waitsHome s (.mem k) 4 false, recallBlocked s (recs.map (·.2)) with
        | some (_, k), _ => stall (askHost s (.mem k) 4 false) 3
        | none, some p => stall (askHost s p 4 true) 3
        | none, none =>
        let s := recallWords s (recs.map (·.2))
        let old := (recs.filter fun (l, k) =>
          (((g.lane l).reg f.n.toNat) - BitVec.ofNat 32 (domainNext s k)).toNat ≥ 2 ^ 31).map (·.1)
        if !old.isEmpty then raiseIn s 0x0C old
        else s.splitActive f.g fun l x => openIteration s (x.reg f.n.toNat) (listGet 0 recs l) x

/-- SPEND (R191): every executing lane waits for the token; the group's earlier accesses are released at .dev. -/
def execSpend (f : GForm) (s : State) : Out State :=
  txGate 12 s [] f.g fun g ex =>
    let bad := ex.filter fun l => !(g.lane l).tx.spec
    if !bad.isEmpty then raiseIn s 0x0C bad
    else if !g.fl.walks.isEmpty then stall s 12
    else match flushBlocked s g.gid g.core (onL 3) with
      | some e => stall (askHost s e.place 32 true) (flushReason s e)
      | none => (flush s g.gid g.core 3 false).splitActive f.g fun _ x => { x with st := .waiting .spend }

end Sys2Proof.Machine
end

