-- ==== Sys2Proof/Machine/EventGroup.lean ====
section
/-!
DEFINITION. Events of groups and blocks: slice tokens and the Quoin (R342 to R345), speculation tokens (R191, R347),
waits that end (R184, R200), limits (R358, R397), handler entry (R374), ends (R127, R159, R270), samples (R433), and
the illegal encoding (R46).
-/

namespace Sys2Proof.Machine

/-! ## Slice tokens (R342) -/

/-- The next slice a batch asks for: the lowest it needs and does not hold. -/
def Batch.wants (b : Batch) : Option Nat := b.need.find? fun k => !b.held.contains k

/-- A batch asks for slice tokens: a TEND batch of a deterministic launch once it holds the Quoin (R342 step 1). -/
def Batch.asks (s : State) (b : Batch) : Bool :=
  match b.kind with
  | .atom => false
  | .spend => true
  | .tend => !batchDet s b || b.quoin

/-- A slice's token is free for a batch: no other holds it, and none that asked for it before waits for it. -/
def tokenFree (s : State) (b : Batch) (k : Nat) : Bool :=
  !s.batches.any fun c => c.id != b.id && (c.held.contains k || (c.asks s && c.wants == some k && c.ask < b.ask))

/-- A batch with every token commits, its tokens and then the Quoin are released (R342 steps 3 to 6). -/
def commitBatch (s : State) (b : Batch) : State :=
  let s := match b.kind with
    | .tend => commitTend s b
    | .spend => b.lanes.foldl (fun s l => commitSpend s b.gid l) s
    | .atom => s
  settleQuoin { s with batches := s.batches.filter fun c => c.id != b.id } b.lid

/-- The words the lanes of a batch write, with the tag of their group. -/
def batchWrites (s : State) (b : Batch) : List (Option (Nat × Nat) × Nat) :=
  match s.group? b.gid with
  | some g => b.lanes.flatMap fun l => (g.lane l).tx.writes.map fun w => (s.groupTag g, w.word)
  | none => []

/-- A batch about to commit first asks for a line the host holds (R405), and waits for room its writes need in the spill area
(R400). -/
def tryCommit (s : State) (b : Batch) : Option State :=
  match (batchWords s b).find? fun w => hostHolds s (.mem w) 4 true with
  | none => if (batchWrites s b).any fun w => spillFull s w.1 (.mem w.2) 4 then none else some (commitBatch s b)
  | some w => askOnce s (.mem w) 4 true

/-- Changes a batch. -/
def State.updBatch (s : State) (id : Nat) (f : Batch → Batch) : State :=
  { s with batches := s.batches.map fun c => if c.id == id then f c else c }

/-- A token is granted: the batch asks for its next one behind all others that ask (R342 step 2). -/
def grantToken (s : State) (b : Batch) (k : Nat) : State :=
  { s.updBatch b.id (fun c => { c with held := c.held ++ [k], ask := s.nextId }) with nextId := s.nextId + 1 }

/-- COMMIT_TOKEN_GRANT (R342): the batch with this number takes its next slice token; with the last one it commits. -/
def execCommitTokenGrant (batch : Nat) (s : State) : Out State :=
  event "COMMIT_TOKEN_GRANT" <| (s.batches.find? fun b => b.id == batch).bind fun b =>
    if !b.asks s then none
    else match b.wants with
      | none => tryCommit s b
      | some k =>
        if !tokenFree s b k then none
        else if (({ b with held := b.held ++ [k] } : Batch).wants).isNone then tryCommit s b
        else some (grantToken s b k)

/-! ## The Quoin (R344, R345) -/

/-- The batch holds a lane that retries: it goes on with the Quoin its group keeps (R187, R345). -/
def retries (g : Group) (b : Batch) : Bool := b.kind == .tend && b.lanes.any fun l => (g.lane l).tx.retry

/-- The turn of a batch in its group: the number of the batch whose validation a lane of it has failed, else its own. -/
def batchTurn (g : Group) (b : Batch) : Nat :=
  b.lanes.foldl (fun n l => if (g.lane l).tx.turn = 0 then n else min n (g.lane l).tx.turn) b.id

/-- No lane of the group that retries goes before a batch: the lanes of a batch that failed its validation commit before the
batches presented after it, as they would have, so that the order of the commits is that of the Quoin (R187). -/
def inTurn (s : State) (g : Group) (b : Batch) : Bool :=
  !((g.lanesWhere fun x => x.st != .exited && x.tx.retry && x.tx.turn != 0 && x.tx.turn < batchTurn g b).any
    fun l => !b.lanes.contains l) &&
  !s.batches.any fun c => c.gid == b.gid && c.kind == .tend && batchTurn g c < batchTurn g b

/-- A batch takes the Quoin (R345): a group's retry goes on under the Quoin the group keeps; any other batch takes a free Quoin,
when no presented batch has a lower key, of one group's the one presented first, and no group obstructs it. -/
def mayTake (s : State) (g : Group) (l : Launch) (b : Batch) : Bool :=
  let key := quoinKey s g
  let lower := s.batches.any fun c => c.lid == b.lid && c.kind != .spend && batchDet s c && (match s.group? c.gid with
    | some h => keyLt (quoinKey s h) key || (c.gid == b.gid && c.id < b.id)
    | none => false)
  !b.quoin && b.kind != .spend && batchDet s b &&
  (if l.quoin == some b.gid then retries g b && inTurn s g b && !s.batches.any (fun c => c.gid == b.gid && c.quoin)
   else l.quoin.isNone && !lower && !(launchGroups s b.lid).any (obstructs s key))

/-- The batch holds the Quoin, and a TEND batch asks for its first token. -/
def holdQuoin (s : State) (b : Batch) : State :=
  let s := s.updBatch b.id fun c => { c with quoin := true, ask := s.nextId }
  ({ s with nextId := s.nextId + 1 }).updLaunch b.lid fun l => { l with quoin := some b.gid }

/-- The batch is gone. -/
def dropBatch (s : State) (b : Batch) : State := { s with batches := s.batches.filter fun c => c.id != b.id }

/-- The issue of the ATOM or RED goes on under the Quoin: in its turn of a replay, or as the group's issue. It answers whether
it still waits. -/
def runAtom (s : State) (g : Group) (b : Batch) (m : MemOp) : State × Bool :=
  let s : State := { s with iss := b.iss }
  if g.fl.replay && g.priv == .user then
    let (t, w) := replayOne s g.gid
    ({ t with iss := s.iss }, w.isSome)
  else
    let t := performIssue s g m []
    (t, t.iss.waited)

/-- The ATOM or RED of a batch is performed as the batch takes the Quoin, which then passes on (R153, R345): no event can fall
between (R361, R362). It waits while a bank it names is switching (R160). Where it would fault by now, the batch is abandoned and
the instruction issues again; a place that has to be waited for is asked for first. The issue it leaves is counted as any other. -/
def takeAtom (s : State) (g : Group) (b : Batch) (m : MemOp) : Option State :=
  if switching s g m then none
  else if !(rowClass s g m).isEmpty || !(m.failing s g .translation).isEmpty || !(m.denied s g).isEmpty ||
    !(rowHome s g m).isEmpty then some (dropBatch s b)
  else match m.held s g with
  | some p => askOnce s p 8 false
  | none =>
    let (t, waits) := runAtom (holdQuoin s b) g b m
    if waits then
      (if t.host.snoops.length = s.host.snoops.length then none else some { s with host := t.host })
    else some (settleQuoin (dropBatch t b) b.lid)

/-- QUOIN_TAKE (R345). -/
def execQuoinTake (batch : Nat) (s : State) : Out State :=
  event "QUOIN_TAKE" <| (s.batches.find? fun b => b.id == batch).bind fun b =>
    match s.group? b.gid, s.launch? b.lid with
    | some g, some l =>
      if !mayTake s g l b then none
      else match b.op with
        | some m => takeAtom s g b m
        | none => some (holdQuoin s b)
    | _, _ => none

/-! ## Waits of lanes that end -/

/-- A SPEND batch of a lane is presented already. -/
def spendPresented (s : State) (gid l : Nat) : Bool :=
  s.batches.any fun b => b.gid == gid && b.kind == .spend && b.lanes.contains l

/-- The token of a domain has reached a lane's iteration (R191, R192, R347): an ordered rerun starts, an ordered SPEND
commits, a SPEND in speculative mode asks for its slices and that of the record. -/
def tokenReached (s : State) (g : Group) (l : Nat) (p : WaitPoint) : Option State :=
  let t := (g.lane l).tx
  match p with
  | .rerun => some (s.updLane g.gid l fun x =>
      { (x.wakeAt (t.start + 4)) with tx := { x.tx with spec := true, ordered := true, squashed := false } })
  | .spend =>
    if t.ordered then some (commitSpend s g.gid l)
    else some (present s g .spend [l] (slicesOf s (t.domain :: t.words)))
  | _ => none

/-- SPEND_TOKEN_REACHED (R191, R192). -/
def execSpendTokenReached (g l : Nat) (s : State) : Out State :=
  event "SPEND_TOKEN_REACHED" <| (s.group? g).bind fun x =>
    match (x.lane l).st with
    | .waiting p =>
      let t := (x.lane l).tx
      if (p != .spend && p != .rerun) || (p == .spend && !t.ordered && spendPresented s g l) then none
      else if waitsHome s (.mem t.domain) 4 (p == .spend && t.ordered) then askOnce s (.mem t.domain) 4 (p == .spend && t.ordered)
      else if let some q := recallBlocked s [t.domain] then askOnce s q 4 true
      else
        let s := recallWords s [t.domain]
        if domainNext s t.domain = t.iter.toNat then tokenReached s x l p else none
    | _ => none

/-- BACKOFF_EXPIRE (R184): TBEGIN executes again. -/
def execBackoffExpire (g l : Nat) (s : State) : Out State :=
  event "BACKOFF_EXPIRE" <| (s.group? g).bind fun x =>
    let y := x.lane l
    if y.st == .waiting .backoff && (match y.wake with
      | some t => t ≤ s.clock
      | none => true) then some (s.updLane g l fun y => y.wakeAt y.pc) else none

/-- LIGA_FRAMES_AVAILABLE (R200): the frames a LIGA of a deterministic launch waits for are free; it issues again. -/
def execLigaFramesAvailable (g : Nat) (s : State) : Out State :=
  event "LIGA_FRAMES_AVAILABLE" <| (s.group? g).bind fun x =>
    ((x.lanesWhere fun y => y.st == .waiting .liga).find? fun l =>
      ((x.lane l).wake.getD 0) ≤ framesFree s x.core).map fun l => s.updLane g l fun y => y.wakeAt y.pc

/-! ## Limits -/

/-- LIGATURE_LIFETIME_LIMIT (R358). -/
def execLigatureLifetimeLimit (g : Nat) (s : State) : Out State :=
  event "LIGATURE_LIFETIME_LIMIT" <| (s.group? g).bind fun x =>
    match x.lig with
    | some l => if l.limit ≤ l.life && !x.hold.park then some (forceLig s g 1) else none
    | none => none

/-- The stall limit of a launch (R397). -/
def stallLimit (l : Launch) : Option Nat :=
  if l.lr.stall = 0 then (if l.lr.det then some (2 ^ 36) else none) else some (2 ^ min 47 (max 16 l.lr.stall))

/-- The address a stalled group waits at, and the lanes (R397): a barrier wait, an LDV, or the next issue. -/
def stallSite (g : Group) : Sel :=
  match g.hold.bar, g.fl.ldvs with
  | some _, _ => { addr := stopAddr g, active := g.lanesWhere fun x => x.st == .live }
  | none, m :: _ =>
    if !m.helper && ((groupSel g).isNone || g.hold.waitFor == some 7) then
      { addr := m.pc, active := m.threads.map MemThread.t }
    else waitSel g
  | none, [] => waitSel g

/-- The group waits for its block: it has ended its save handler or its restore handler (log 35). -/
def awaitsBlock (s : State) (x : Group) : Bool :=
  x.hold.stopped && !(s.block? x.bid).any fun b => b.phase == .draining

/-- STALL_TIME_LIMIT (R397): the fault is raised where the group waits, once its earlier instructions have written their registers
(R372), and its waiting LDVs end with it (R361); the counter starts again. While the group waits to enter a handler it ends the
grid (R377). -/
def execStallTimeLimit (g : Nat) (s : State) : Out State :=
  event "STALL_TIME_LIMIT" <| (s.group? g).bind fun x =>
    match (s.launch? x.lid).bind stallLimit with
    | none => none
    | some n =>
      if x.stallCnt < n || x.priv != .user || x.hold.park || x.hold.host || awaitsBlock s x ||
        (openOps x).isSome then none
      else
        let w := stallSite x
        let r : Raise := { faultOf s 0x0E w.active [] with
          addr := w.addr, len := lenAt s x w.addr, recPc := w.addr, helper := none }
        let drop : Group → Group := fun x => { x with fl := { x.fl with ldvs := x.fl.ldvs.filter MemOp.helper } }
        some (raise ((progress s g).updGroup g drop) g r)

/-- A transaction, an iteration or a ligature of the group is still to be closed before the handler of a fault is entered. -/
def unclosed (x : Group) : Bool :=
  !(x.lanesWhere fun y => y.tx.isOpen || y.tx.speculative).isEmpty || x.lig.isSome

/-- HANDLER_ENTRY (R361, R373, R374 steps 2 and 3): the vector entry can be read, no batch of the group holds a token or the Quoin
any more, or the lent lanes are back. -/
def execHandlerEntry (g : Nat) (s : State) : Out State :=
  event "HANDLER_ENTRY" <| (s.group? g).bind fun x =>
    match x.fl.pend, x.fl.vec with
    | none, _ => none
    | some r, none => (match vectorEntry s x r.cls with
      | .asked p => askOnce s p 16 false
      | _ => some (enterWhenClear s g))
    | some _, some _ => if holdsBatch s g || (lentAway s g && !unclosed x) then none else some (enterWhenClear s g)

/-- ILLEGAL_ENCODING (R46): the word at the issue address is no instruction. -/
def execIllegalEncoding (s : State) : Out State := gate s [] false true fun _ => .next (raiseAll s 0x01)

/-! ## Ends -/

/-- The group's slot and what it holds are free; its counters go to the block's record (R127). -/
def dropGroup (s : State) (g : Group) : State :=
  let s := s.updBlock g.bid fun b =>
    { b with left := b.left.filter (· != g.grp), stalls := listPut b.stalls g.grp (g.restart, g.stalls) }
  { s with groups := s.groups.filter (fun h => h.gid != g.gid), marks := s.marks.filter fun m => m.gid != g.gid,
           batches := s.batches.filter fun b => b.gid != g.gid }

/-- GROUP_END (R127, R163): the group's writes are performed as those of a barrier's arrival are (R167, R289), barriers no longer
wait for it, and the Quoin passes on. -/
def execGroupEnd (g : Nat) (s : State) : Out State :=
  event "GROUP_END" <| (s.group? g).bind fun x =>
    if !groupOver x then none
    else match flushBlocked s g x.core (onBoth 3) with
    | some e => (e.places.find? fun p => waitsHome s p 1 true).bind fun p => askOnce s p 1 true
    | none =>
      let s := flush (flush s g x.core 3 false) g x.core 3 true
      let s := dropGroup s x
      let s := releaseEnded (releaseEnded s x.core 0) x.core 1
      let s := settleBars (settleBars (settleBars s x 1 16) x 2 8) x 3 4
      let s := s.updLaunch x.lid fun l => if l.quoin == some g then { l with quoin := none } else l
      some s

/-- An engine still has a command of the block (R159). -/
def blockBusy (s : State) (b : Block) : Bool :=
  let e := s.engine b.core
  e.queue.any (fun c => c.bid == b.bid && c.incomplete) || e.imps.any (fun r => r.bid == b.bid) ||
  e.fetchcs.any fun r => r.bid == b.bid

/-- The banks of a block return to cache mode with their contents discarded (R159). -/
def discardBanks (s : State) (b : Block) : State :=
  freeBanks (b.banks.foldl (fun s n => zeroBank s (coreClu b.core) n) (dropBankWrites s b)) b

/-- Bytes padded with zeros to a slot of 64. -/
def slot64 (bs : List Byte) : List Byte := (bs ++ List.replicate 64 0).take 64

/-- The block record of R433 (log 31 for the places of its fields in the first slot). -/
def blockRecord (s : State) (b : Block) : List (List Byte) :=
  let q := ((s.launch? b.lid).map Launch.q).getD 0
  let n := ((s.launch? b.lid).map fun l => l.lr.groups).getD 0
  slot64 ([1] ++ leBytes 4 b.idx ++ leBytes 2 b.core ++ leBytes 1 q ++ leBytes 1 b.ctx ++ leBytes 1 n ++ leBytes 8 s.clock) ::
  (List.range n).map fun k =>
    let c := (listGet (0, Vector.replicate 16 0) b.stalls k).2
    (List.range 16).flatMap fun r => leBytes 4 (vget (0 : Word) c r).toNat

/-- BLOCK_END (R159): the entries that no block of the launch can read any more are dropped (R400). -/
def execBlockEnd (b : Nat) (s : State) : Out State :=
  event "BLOCK_END" <| (s.block? b).bind fun x =>
    if !x.left.isEmpty || blockBusy s x || !(x.phase == .resident || x.phase == .draining || x.phase == .gang) then none
    else
      let s := if (s.ctx x.ctx).brec then traceWrite s x.ctx (blockRecord s x) else s
      let s := discardBanks s x
      let s : State := freeAreas { s with blocks := s.blocks.filter fun c => c.bid != b } [x]
      some (dropVersions (s.updLaunch x.lid fun l => { l with done := l.done + 1 }) x.lid)

/-! ## Samples (R433) -/

/-- The next group of a context in its rotation on a core. -/
def nextSample (s : State) (core ctx : Nat) : Option Group :=
  let rot := listGet 0 (s.coreRegs core).rot ctx
  let gs := s.groups.filter fun g => g.core == core && g.ctx == ctx
  (leastBy (fun k => (k + 192 - rot % 192) % 192) (gs.map Group.slot)).bind fun k => gs.find? fun g => g.slot == k

/-- A sample record (log 31 for the places of its fields), with what the group was counted under in the A-clock that has ended. -/
def sampleRecord (s : State) (g : Group) : List Byte :=
  let r := s.coreRegs g.core
  slot64 ([2] ++ leBytes 2 g.core ++ leBytes 1 g.slot ++ leBytes 1 g.grp ++ leBytes 4 (s.blockIdx g) ++
    leBytes 4 (waitSel g).addr.toNat ++ leBytes 4 g.seq.toNat ++ leBytes 1 g.counted ++ leBytes 8 s.clock ++
    (List.range 4).flatMap fun n => leBytes 8 (vget (0 : DWord) r.evcnt n).toNat)

/-- TRACE_SAMPLE (R433): one sample of a context on a core in an A-clock its period names. -/
def execTraceSample (core ctx : Nat) (s : State) : Out State :=
  event "TRACE_SAMPLE" <|
    let c := s.ctx ctx
    let r := s.coreRegs core
    if !c.sample || c.trSize = 0 || s.clock % 2 ^ c.sper != 0 || r.sampled.contains (ctx, s.clock) then none
    else (nextSample s core ctx).map fun g =>
      let s := s.updCore core fun r =>
        { r with rot := listPut r.rot ctx ((g.slot + 1) % 192), sampled := r.sampled.filter (fun p => p.1 != ctx) ++ [(ctx, s.clock)] }
      if g.priv == .user then traceWrite s ctx [sampleRecord s g] else s

/-! ## The end of a grid by an asynchronous error (R270, R379) -/

/-- GRID_END (R270, R379): an asynchronous error that has been met ends its grid. -/
def execGridEnd (l : Nat) (site : AsyncSite) (s : State) : Out State :=
  event "GRID_END" <|
    (s.async.find? fun w => w.lid == l && w.site == site).map fun w => endBySite { s with async := s.async.erase w } w

end Sys2Proof.Machine
end

