-- ==== Sys2Proof/Machine/EventDispatch.lean ====
section
/-!
DEFINITION. Events of the dispatchers (R248 to R259) and of pre-emption (R265 to R268, R363, R412): reports, batches,
gang dispatch, placement of blocks, victims, saving, discarding and restoring.
-/

namespace Sys2Proof.Machine

/-! ## Reports (R252, R256) -/

/-- Free group slots of a core. -/
def slotsFree (s : State) (c : Nat) : Nat := Config.slots - (s.groups.filter fun g => g.core == c).length

/-- The blocks that hold room on cores that satisfy a condition. -/
def holders (s : State) (on : Nat → Bool) : List Block := s.blocks.filter fun b => on b.core && b.phase != .saved

/-- Free register bytes of a core. -/
def bytesFree (s : State) (c : Nat) : Nat :=
  Config.vrfBytes - (holders s (· == c)).foldl (fun n b => n + ((s.launch? b.lid).map fun l => l.lr.bytes).getD 0) 0

/-- Free Case banks of a cluster. -/
def banksFree (s : State) (k : Nat) : Nat := 64 - (holders s fun c => coreClu c == k).foldl (fun n b => n + b.banks.length) 0

/-- The launch cluster of a block, when it has a cluster barrier set. -/
def setOf (l : Launch) (idx : Nat) : Option (Nat × Nat) :=
  if l.lr.cbar = 0 then none else some (l.lid, idx / max 1 l.lr.clusterdim)

/-- Free cluster barrier sets of a cluster: saved blocks keep theirs. -/
def setsFree (s : State) (k : Nat) : Nat :=
  let sets := (s.blocks.filter fun b => coreClu b.core == k).filterMap fun b => (s.launch? b.lid).bind fun l => setOf l b.idx
  4 - sets.eraseDups.length

/-- The report of a die (R256). -/
def dieReport (s : State) (d : Nat) : Report :=
  { cores := (dieCores s d).map fun c => (c, slotsFree s c, bytesFree s c),
    clus := (List.range 20).map fun k => (20 * d + k, banksFree s (20 * d + k), setsFree s (20 * d + k)) }

/-- DIE_REPORT (R256): a fresh report reaches the global dispatcher. -/
def execDieReport (die : BitVec 3) (s : State) : Out State :=
  event "DIE_REPORT" <|
    let r := dieReport s die.toNat
    if s.disp.reports.any (fun p => p.1 == die.toNat && p.2 == r) then none
    else some { s with disp := { s.disp with reports := listPut s.disp.reports die.toNat r } }

/-- A report less the room reserved for blocks that are not placed (R253, R258), but for those of a list. -/
def lessReserved (s : State) (r : Report) (but : Nat → Nat → Bool) : Report :=
  s.launches.foldl (fun r l =>
    let rs := l.reserve.filter fun x => !but l.lid x.idx
    let r := rs.foldl (fun (r : Report) x => match x.core with
      | some c => r.take c l.lr.groups l.lr.bytes l.lr.banks
      | none => r) r
    let sets := (rs.filterMap fun x => (setOf l x.idx).map fun k => (k, x.clu)).eraseDups.filter fun p =>
      !s.blocks.any fun b => b.lid == l.lid && setOf l b.idx == some p.1
    sets.foldl (fun (r : Report) p => { r with clus := r.clus.map fun (j, n, m) => if j = p.2 then (j, n, m - 1) else (j, n, m) }) r) r

/-! ## Which launch is served (R248, R249, R258, R268) -/

/-- Every block of a launch has been dispatched, or its grid has ended (R248). DESIGN CHOICE (log 57): the condition of an
overlapped launch is met at once when the launch before it ends with blocks unplaced, and is no longer met while a block of that
launch is discarded for restart and not placed again. -/
def allSent (s : State) (l : Launch) : Bool :=
  l.how.isSome || (l.next == l.lr.blocks && l.again.isEmpty && !s.disp.sends.any fun d => d.lid == l.lid)

/-- A launch is dispatchable (R248) and its queue is not held. -/
def dispatchable (s : State) (l : Launch) : Bool :=
  let q := s.queue l.q
  l.how.isNone && !q.hold && (match q.lids with
    | a :: b :: _ => l.lid == a || (l.lid == b && l.lr.overlap && (match s.launch? a with
      | some p => allSent s p
      | none => true))
    | [a] => l.lid == a
    | [] => false)

/-- A saved block that may be restored takes precedence over a new block of a launch on a core (R268). -/
def savedAhead (s : State) (l : Launch) (core : Nat) : Bool :=
  s.blocks.any fun b => b.phase == .saved && (match s.launch? b.lid with
    | some m => m.cls ≤ l.cls && !(s.queue m.q).hold &&
        (b.core == core || (coreClu b.core == coreClu core && m.lr.banks != 0))
    | none => false)

/-- A co-resident launch that waits for its placement. -/
def gangWaits (s : State) (l : Launch) : Bool := dispatchable s l && l.lr.coresident && !l.ganged

/-- The next blocks of a launch, at most `n`: those that restart come first (R266, R259). -/
def Launch.pending (l : Launch) (n : Nat) : List Restart :=
  (l.again ++ (List.range (min n (l.lr.blocks - l.next))).map fun i => ({ idx := l.next + i, groups := [] } : Restart)).take n

/-- The launch after its first `n` pending blocks were sent. -/
def Launch.sent (l : Launch) (n : Nat) : Launch :=
  { l with again := l.again.drop n, next := l.next + (n - l.again.length) }

/-- The most blocks of one batch (R256, R259). -/
def batchMost (l : Launch) : Nat := if l.lr.det then 1 else max 1 (64 / l.lr.groups)

/-- The room of a die by its last report, less what is reserved (R253, R256). -/
def dieRoom (s : State) (d : Nat) : Option Report :=
  (s.disp.reports.find? fun p => p.1 == d).map fun p => lessReserved s p.2 fun _ _ => false

/-- No saved block takes precedence over a launch on a core (R268). -/
def openCore (s : State) (l : Launch) (core : Nat) : Bool := !savedAhead s l core

/-- Sends the first `n` pending blocks of a launch to a die. -/
def sendBatch (s : State) (l : Launch) (d n : Nat) : State :=
  let x : Send := { die := d, lid := l.lid, blocks := l.pending n }
  let disp := { s.disp with sends := s.disp.sends ++ [x], rr := vset s.disp.rr l.cls l.q }
  ({ s with disp := disp }).updLaunch l.lid fun l => l.sent n

/-- A batch of blocks that are placed freely (R256): the largest that some die can place, to the die with the most free
slots. A launch with a cluster barrier sends one block in a batch, since each block of it needs a barrier set of its own: the
model's choice (log 37). -/
def freeSend (s : State) (l : Launch) : Option State :=
  let most := if l.lr.cbar = 0 then batchMost l else 1
  let k := (l.pending most).length
  (List.range k).findSome? fun i =>
    let n := k - i
    let can (d : Nat) : Bool := (dieRoom s d).any fun r => (r.placeMany l.lr (fun c => openCore s l c && setOk r l.lr c) n).isSome
    let free (d : Nat) : Nat := match dieRoom s d with
      | some r => r.cores.foldl (fun a x => a + x.2.1) 0
      | none => 0
    (greatestBy free ((List.range 8).filter can)).map fun d => sendBatch s l d n

/-- The reservation of a block. -/
def Launch.reserved (l : Launch) (idx : Nat) : Option Reserve := l.reserve.find? fun r => r.idx == idx

/-- The launch cluster of a block (R253). -/
def Launch.cluOf (l : Launch) (idx : Nat) : Nat := idx / max 1 l.lr.clusterdim

/-- The pending blocks that go to one die together: reserved there, and of one launch cluster unless the launch is ganged. -/
def reservedRun (l : Launch) (d lc : Nat) : List Restart → List Restart
  | [] => []
  | b :: bs =>
    match l.reserved b.idx with
    | some r => if r.clu / 20 = d && (l.ganged || l.cluOf b.idx = lc) then b :: reservedRun l d lc bs else []
    | none => []

/-- The cores for the blocks of a batch from a report of the die (R254, R257): a reserved block goes to its core, or to a core of
its cluster, and none where a saved block goes first (R268). -/
def acceptCores (s : State) (l : Launch) : Report → List Restart → Option (List Nat)
  | _, [] => some []
  | r, b :: bs =>
    let ok (c : Nat) : Bool := openCore s l c && (match l.reserved b.idx with
      | some x => if l.ganged then x.core == some c else coreClu c == x.clu
      | none => l.lr.clusterdim ≤ 1 && !l.lr.coresident && setOk r l.lr c)
    (r.place l.lr ok).bind fun (c, r) => (acceptCores s l r bs).map fun cs => c :: cs

/-- The cores a die's report gives the blocks of a batch, less the room reserved for others. -/
def batchCores (s : State) (l : Launch) (r : Report) (bs : List Restart) : Option (List Nat) :=
  acceptCores s l (lessReserved s r fun lid i => lid == l.lid && bs.any fun b => b.idx == i) bs

/-- A batch of reserved blocks (R253, R256, R258): the largest that the die of their reservation can place by its last report; a
launch of which it can place none is skipped (R249). -/
def reservedSend (s : State) (l : Launch) : Option State :=
  match l.pending 1 with
  | [] => none
  | b :: _ => (l.reserved b.idx).bind fun r =>
    let d := r.clu / 20
    let run := reservedRun l d (l.cluOf b.idx) (l.pending (batchMost l))
    (s.disp.reports.find? fun p => p.1 == d).bind fun p =>
      (List.range run.length).findSome? fun i =>
        let n := run.length - i
        (batchCores s l p.2 (run.take n)).map fun _ => sendBatch s l d n

/-- The pending blocks of the launch cluster that comes next. -/
def Launch.nextCluster (l : Launch) : List Restart :=
  match l.pending 16 with
  | [] => []
  | b :: bs => (b :: bs).filter fun x => l.cluOf x.idx == l.cluOf b.idx

/-- Room for a launch cluster is reserved (R253): on the cluster with the most free slots that can hold all its blocks, on cores
where no saved block goes first. While a block of it stands somewhere or is on its way to a die, it waits, so that all of it goes
to one cluster. -/
def reserveCluster (s : State) (l : Launch) : Option State :=
  match l.nextCluster with
  | [] => none
  | b :: bs =>
    let lc := l.cluOf b.idx
    let mine := b :: bs
    let rooms := joinReports ((List.range 8).filterMap (dieRoom s))
    if s.blocks.any (fun c => c.lid == l.lid && l.cluOf c.idx == lc) ||
      s.disp.sends.any (fun d => d.lid == l.lid && d.blocks.any fun c => l.cluOf c.idx == lc) then none
    else (clusterFor rooms l.lr (openCore s l) mine.length).map fun (k, cs) =>
      let new := (mine.zip cs).map fun (x, c) => ({ idx := x.idx, clu := k, core := some c } : Reserve)
      s.updLaunch l.lid fun l => { l with reserve := l.reserve ++ new }

/-- The next batch of a launch, if a block of it can be placed. -/
def serve (s : State) (l : Launch) : Option State :=
  if (l.pending 1).isEmpty || (l.lr.det && s.disp.sends.any fun d => d.lid == l.lid) then none
  else if l.lr.coresident then (if l.ganged then reservedSend s l else none)
  else if l.lr.clusterdim ≤ 1 then freeSend s l
  else
    match l.pending 1 with
    | b :: _ =>
      if (l.reserved b.idx).isSome then reservedSend s l
      else (reserveCluster s l).bind fun s => (s.launch? l.lid).bind fun l => reservedSend s l
    | [] => none

/-- The launches in the order the global dispatcher tries them (R249). -/
def serveOrder (s : State) : List Launch :=
  (List.range 4).flatMap fun c =>
    let from_ := vget 63 s.disp.rr c + 1
    (List.range 64).flatMap fun i => (s.queue ((from_ + i) % 64)).lids.filterMap fun lid =>
      match s.launch? lid with
      | some l => if l.cls == c && dispatchable s l then some l else none
      | none => none

/-- The blocks of a launch that are not placed, by index. -/
def Launch.unplaced (l : Launch) : List Nat := (l.pending l.lr.blocks).map Restart.idx

/-- The placement of a whole grid by the dies' last reports, with a free grid barrier set where one is needed (R258 step 1). A
launch discarded for restart is placed again once no block of it is left on a core: the blocks of it that have not ended
(R268). -/
def gangPlace (s : State) (x : Launch) : Option (List Nat) :=
  let sets := (s.launches.filter Launch.gridSet).length
  if (x.lr.dbar != 0 && sets ≥ 16) || s.disp.reports.length < 8 || s.blocks.any (fun b => b.lid == x.lid) then none
  else gangFits x.lr (openCore s x) (lessReserved s (joinReports (s.disp.reports.map (·.2))) fun _ _ => false) x.unplaced

/-- Whether a launch may receive a new block: not while another co-resident launch of its class or a lower number waits because
it has no placement (R258 step 2). -/
def gangAllows (s : State) (l : Launch) : Bool :=
  l.ganged || !s.launches.any fun g => g.lid != l.lid && g.cls ≤ l.cls && gangWaits s g && (gangPlace s g).isNone

/-- The launch can place a block at this moment: for a co-resident one that waits, its whole grid (R249, R258). -/
def canServe (s : State) (l : Launch) : Bool :=
  gangAllows s l && (if gangWaits s l then (gangPlace s l).isSome else (serve s l).isSome)

/-- The launch whose turn it is (R249). -/
def nextServed (s : State) : Option Launch := (serveOrder s).find? (canServe s)

/-- DISPATCH_BATCH (R249, R256). -/
def execDispatchBatch (s : State) : Out State :=
  event "DISPATCH_BATCH" <|
    if !deviceRuns s then none else (nextServed s).bind fun l => if gangWaits s l then none else serve s l

/-- GANG_DISPATCH (R258): in the launch's turn (R249), a placement of the whole grid is reserved, with a grid barrier set. -/
def execGangDispatch (l : Nat) (s : State) : Out State :=
  event "GANG_DISPATCH" <| (s.launch? l).bind fun x =>
    if !deviceRuns s || !gangWaits s x || (nextServed s).map Launch.lid != some l then none
    else (gangPlace s x).map fun cs =>
      let new := (cs.zip x.unplaced).map fun (c, i) => ({ idx := i, clu := coreClu c, core := some c } : Reserve)
      s.updLaunch l fun y => { y with ganged := true, gridSet := y.lr.dbar != 0, reserve := new }

/-! ## Placement (R40, R159, R254, R412, R424) -/

/-- The registers of a context as its entry gives them (R412). -/
def contextEntry (s : State) (c : Nat) (x : Ctx) : Ctx :=
  let a := s.host.ctxbase.toNat / 4096 * 4096 + 128 * c
  let w (k : Nat) : DWord := BitVec.ofNat 64 (physNum s (a + k) 8)
  { x with heapbase := w 0x00, heaplim := w 0x08, heapoff := w 0x10, vector := w 0x18, ptbase := w 0x20, fltring := w 0x28,
           spill := w 0x30, spillsz := w 0x38, galtab := w 0x40, saveBase := w 0x48, saveCnt := (w 0x50).toNat,
           dbgAddr := w 0x58 }

/-- The debug block of a context; none reads as zero (R424). -/
def debugBlock (s : State) (c : Nat) : Nat :=
  let a := (s.ctx c).dbgAddr.toNat
  if a = 0 then 0 else physNum s a 128

/-- The trace fields read at a placement (R424). -/
def traceFields (s : State) (c : Nat) : State :=
  let n := debugBlock s c
  s.updCtx c fun x => { x with trBase := BitVec.ofNat 64 (recField n 832 64), trSize := recField n 896 32, brec := n.testBit 769,
                               sample := n.testBit 770, sper := min 24 (max 10 (recField n 771 5)) }

/-- The comparators of a group from the debug block (R424), in the bits their registers have (R425). -/
def comparators (n : Nat) (d : Debug) : Debug :=
  { d with ibp := Vector.ofFn fun (k : Fin 4) => BitVec.ofNat 64 (recField n (64 * k.val) 32),
           wpa := Vector.ofFn fun (k : Fin 4) => BitVec.ofNat 64 (recField n (128 * k.val + 320) 64),
           wpc := Vector.ofFn fun (k : Fin 4) => BitVec.ofNat 64 (recField n (128 * k.val + 256) 64) &&& 0x31F }

/-- The context's entry, or its debug block, that a placement reads and that has to be waited for (R343, R405). -/
def contextHeld (s : State) (c : Nat) : Option Place :=
  let entered := s.blocks.any fun b => b.ctx == c
  let entry := Place.mem (s.host.ctxbase.toNat / 4096 * 4096 + 128 * c)
  let block := (if entered then s.ctx c else contextEntry s c (s.ctx c)).dbgAddr.toNat
  if !entered && waitsHome s entry 128 false then some entry
  else if block != 0 && waitsHome s (.mem block) 128 false then some (.mem block)
  else none

/-- The context's registers are loaded while no block of it is resident or saved (R412); the debug block is read. -/
def enterContext (s : State) (c : Nat) : State :=
  let s := if s.blocks.any fun b => b.ctx == c then s else s.updCtx c (contextEntry s c)
  traceFields s c

/-- The lowest free banks of a cluster, granted to a block as zeroed scratchpads (R159). -/
def grantBanks (s : State) (clu bid n : Nat) : State × List Nat :=
  let ks := (numbers 64 fun k => (s.bank clu k).owner.isNone).take n
  (ks.foldl (fun s k => (zeroBank s clu k).updBank clu k fun _ =>
    { mode := .scratch, owner := some bid, switch := none, fifo := [] }) s, ks)

/-- The lowest free slots of a core (R254). -/
def freeSlots (s : State) (core n : Nat) : List Nat :=
  (numbers Config.slots fun k => !s.groups.any fun g => g.core == core && g.slot == k).take n

/-- One group of a placed block (R40); one that restarts starts at its restart point with its counters (R130), and keeps that
point until it sets another: the model's choice (log 38). -/
def placedGroup (l : Launch) (b : Block) (dbg : Debug) (r : Restart) (gid grp slot : Nat) : Group :=
  let g := Group.start gid b.core slot b grp l.lr.regs l.lr.cbase l.lr.entry l.lr.args dbg
  match r.groups.find? fun x => x.1 == grp with
  | some (_, pc, st) => { g with lanes := Vector.replicate 32 (Lane.reset pc), restart := pc, stalls := st }
  | none => g

/-- The Fount cache of a core's cluster is emptied when another block is placed on it (R322). -/
def clearFount (s : State) (core : Nat) : State := s.updCluster (coreClu core) fun c => { c with fcache := [] }

/-- A block becomes resident on a core (R252, R254, R258 step 4). -/
def placeBlock (s : State) (l : Launch) (r : Restart) (core : Nat) : State :=
  let s := clearFount (enterContext s l.ctx) core
  let bid := s.nextId
  let slots := freeSlots s core l.lr.groups
  let (s, banks) := grantBanks s (coreClu core) bid l.lr.banks
  let b : Block := { Block.none with
    bid := bid, lid := l.lid, idx := r.idx, core := core, ctx := l.ctx, banks := banks,
    phase := if l.lr.coresident then .gang else .resident, left := List.range l.lr.groups }
  let dbg := comparators (debugBlock s l.ctx) Debug.reset
  let gs := slots.mapIdx fun k slot => placedGroup l b dbg r (bid + 1 + k) k slot
  let s : State := { s with blocks := s.blocks ++ [b], groups := s.groups ++ gs, nextId := bid + 1 + l.lr.groups }
  s.updLaunch l.lid fun l => { l with reserve := l.reserve.filter fun x => x.idx != r.idx }

/-- A co-resident launch starts once every block is resident (R258 step 4). -/
def startGang (s : State) (lid : Nat) : State :=
  match s.launch? lid with
  | some l =>
    if l.lr.coresident && allSent s l then
      { s with blocks := s.blocks.map fun b => if b.lid == lid && b.phase == .gang then { b with phase := .resident } else b }
    else s
  | none => s

/-- Puts a block back among the undispatched, in index order. -/
def insertRestart (r : Restart) : List Restart → List Restart
  | [] => [r]
  | x :: xs => if r.idx < x.idx then r :: x :: xs else x :: insertRestart r xs

/-- A die's report is refreshed (R256, R257). -/
def refresh (s : State) (d : Nat) : State :=
  { s with disp := { s.disp with reports := listPut s.disp.reports d (dieReport s d) } }

/-- BATCH_RECEIVE (R257): the batch is placed whole, or returned whole with a fresh report. What a placement reads and the host
or a commit batch holds is asked for first. -/
def execBatchReceive (die : BitVec 3) (s : State) : Out State :=
  event "BATCH_RECEIVE" <| (s.disp.sends.find? fun d => d.die == die.toNat).bind fun d =>
    let t : State := { s with disp := { s.disp with sends := s.disp.sends.erase d } }
    match s.launch? d.lid with
    | none => some t
    | some l =>
      if l.how.isSome then some t
      else
        match batchCores t l (dieReport t die.toNat) d.blocks, contextHeld s l.ctx with
        | some _, some p => askOnce s p 128 false
        | some cs, none =>
          some (refresh (startGang ((d.blocks.zip cs).foldl (fun s (b, c) => placeBlock s l b c) t) d.lid) die.toNat)
        | none, _ =>
          some (refresh (t.updLaunch d.lid fun l => { l with again := d.blocks.foldr insertRestart l.again }) die.toNat)

/-! ## Victims (R265) -/

/-- A block is pre-empted by discard (R266). -/
def discardable (s : State) (b : Block) : Bool :=
  match s.launch? b.lid with
  | some l => l.lr.restartable && l.lr.cbar == 0 && l.lr.dbar == 0
  | none => false

/-- The blocks pre-empted together with a block: of its co-resident launch, or of its launch cluster (R265, R266). -/
def together (s : State) (b : Block) : List Block :=
  match s.launch? b.lid with
  | some l =>
    if l.lr.coresident then s.blocks.filter fun c => c.lid == b.lid
    else s.blocks.filter fun c => c.lid == b.lid && l.cluOf c.idx == l.cluOf b.idx
  | none => [b]

/-- The lowest free save areas of a context (R412). -/
def openAreas (s : State) (c n : Nat) : List Nat :=
  let x := s.ctx c
  (numbers (min x.saveCnt (x.areas.length + n)) fun k => !x.areas.contains k).take n

/-- The group a block's own vector reads are made for. -/
def blockReader (s : State) (b : Block) : Group := s.issuerOf 0 b.bid 0 true

/-- The entry of a block's save or restore handler (R363). -/
def handlerOf (s : State) (b : Block) (k : Nat) : Option (DWord × Word) :=
  match vectorEntry s (blockReader s b) k with
  | .ok c e => some (c, e)
  | _ => none

/-- What the read of a handler's entry has to wait for (R343, R405). -/
def handlerHeld (s : State) (b : Block) (k : Nat) : Option Place :=
  match vectorEntry s (blockReader s b) k with
  | .asked p => some p
  | _ => none

/-- The resident blocks that are pre-empted together with a block: those of its launch cluster that are saved, or on their way
out, have been pre-empted already. -/
def stopsWith (s : State) (b : Block) : List Block := (together s b).filter fun c => c.phase == .resident

/-- A block has been pre-empted, or is on its way out. -/
def Block.isOut (b : Block) : Bool := b.phase == .saved || b.phase == .draining || b.phase == .saving

/-- A block may be pre-empted now, with those it goes together with (R265, R363, R412), as far as its vector entry can be read. It
waits while another block of its launch cluster is being restored; and a co-resident launch waits until every block of it is
resident: the model's choice (log 37). -/
def canPreempt (s : State) (b : Block) : Bool :=
  let whole := (s.launch? b.lid).any fun l => l.lr.coresident
  let n := (stopsWith s b).length
  (together s b).all (fun c => c.phase == .resident || (!whole && c.isOut)) &&
  (discardable s b || (((handlerOf s b 0x18).isSome || (handlerHeld s b 0x18).isSome) && (openAreas s b.ctx n).length == n))

/-- The class of a block's launch. -/
def blockClass (s : State) (b : Block) : Nat := ((s.launch? b.lid).map Launch.cls).getD 0

/-- The device once some blocks are gone: a discarded block leaves nothing, a saved one keeps its cluster barrier set and goes
ahead of new blocks of its class (R266, R268). -/
def withoutBlocks (s : State) (gone : Nat → Bool) : State :=
  { s with groups := s.groups.filter (fun g => !gone g.bid),
           blocks := (s.blocks.filter fun b => !(gone b.bid && discardable s b)).map fun b =>
             if gone b.bid then { b with phase := .saved } else b }

/-- The room of the whole device as it stands. -/
def roomNow (s : State) : Report := lessReserved s (joinReports ((List.range 8).map (dieReport s))) fun _ _ => false

/-- The next block of a launch fits the room of a device, on cores that satisfy a condition and where no saved block goes first;
where the launch is co-resident, every block of it that is not placed, with a grid barrier set where it needs one (R258). -/
def nextFits (s : State) (l : Launch) (on : Nat → Bool) : Bool :=
  let r := roomNow s
  let ok (c : Nat) : Bool := on c && openCore s l c
  if l.lr.coresident then
    (l.lr.dbar == 0 || (s.launches.filter Launch.gridSet).length < 16) && !s.blocks.any (fun b => b.lid == l.lid) &&
    (gangFits l.lr ok r l.unplaced).isSome
  else if l.lr.clusterdim ≤ 1 then (r.place l.lr fun c => ok c && setOk r l.lr c).isSome
  else (clusterFor r l.lr ok l.nextCluster.length).isSome

/-- A block on its way out, which gives up its room (R265). -/
def leaving (s : State) (bid : Nat) : Bool := s.blocks.any fun b => b.bid == bid && (b.phase == .draining || b.phase == .saving)

/-- A launch has a block to place for which no room is reserved. -/
def seeksRoom (s : State) (l : Launch) : Bool :=
  dispatchable s l && !l.ganged && match l.pending 1 with
    | b :: _ => (l.reserved b.idx).isNone
    | [] => false

/-- A launch waits for room: it has a block to place, and none fits, those on their way out counted as gone. -/
def wantsRoom (s : State) (l : Launch) : Bool :=
  seeksRoom s l && !nextFits (withoutBlocks s (leaving s)) l fun _ => true

/-- No co-resident launch that would still wait for room keeps a launch from new blocks (R258 step 2). -/
def gangClear (s : State) (l : Launch) : Bool :=
  !s.launches.any fun g => g.lid != l.lid && g.cls ≤ l.cls && gangWaits s g && !nextFits s g fun _ => true

/-- Victims in the order of R265: the lowest class first, restartable before saved, the latest dispatched first. -/
def victimKey (s : State) (b : Block) : Nat :=
  (blockClass s b * 2 + bit (discardable s b)) * 2 ^ 64 + b.bid

/-- The release of a victim makes room where the next block can be placed, those on their way out counted as gone. -/
def helpful (s : State) (l : Launch) (vs : List Block) (b : Block) : Bool :=
  nextFits (withoutBlocks s fun i => leaving s i || vs.any fun v => v.bid == i) l fun c =>
    l.lr.coresident || c == b.core || (coreClu c == coreClu b.core && (l.lr.banks != 0 || 1 < l.lr.clusterdim))

/-- The victim the global dispatcher chooses for a launch: none where the launch could not be placed with all victims gone. -/
def victimFor (s : State) (l : Launch) : Option Nat :=
  let vs := s.blocks.filter fun b => l.cls < blockClass s b && canPreempt s b
  let useful := if gangClear (withoutBlocks s fun i => leaving s i || vs.any fun v => v.bid == i) l then vs.filter (helpful s l vs)
    else []
  (greatestBy id (useful.map (victimKey s))).bind fun k => (useful.find? fun b => victimKey s b == k).map Block.bid

/-- The victim the global dispatcher chooses now, for the first launch in its order that waits for room. -/
def victim (s : State) : Option Nat :=
  (serveOrder s).findSome? fun l => if wantsRoom s l then victimFor s l else none

/-! ## Pre-emption (R266, R267) -/

/-- A logged instruction is translated anew when it is replayed: it keeps no leaf that a migration could release meanwhile
(R390, R396). -/
def MemOp.unpinned (m : MemOp) : MemOp := { m with tr := { m.tr with leaves := [] } }

/-- Waiting LDVs are cancelled: they are replayed from the operand log after the restore (R196). -/
def cancelLdvs (g : Group) : Group :=
  { g with fl := { g.fl with
      opLog := g.fl.opLog ++ (g.fl.ldvs.filter fun m => !m.helper).map MemOp.unpinned, ldvs := [] } }

/-- Step 1 of R266 for a group: it stops issuing, and batches of it that hold nothing are abandoned (R362). -/
def haltGroup (s : State) (gid : Nat) : State :=
  settleBatches (s.updGroup gid fun g => { g with hold := { g.hold with stopped := true } }) gid

/-- Step 2 of R266 for a group, once no batch of it holds a token or the Quoin (R361). A group in a handler has closed its own
transactions and ligature at its entry. -/
def closeGroup (s : State) (gid : Nat) : State :=
  match s.group? gid with
  | none => s
  | some g =>
    if holdsBatch s gid then s
    else if g.priv == .user then (forceLenders (forceLig (closeTx s gid 0) gid 1) (· == gid)).updGroup gid cancelLdvs
    else forceLenders s (· == gid)

/-- The groups of a block. -/
def blockGroups (s : State) (bid : Nat) : List Nat := (s.groups.filter fun g => g.bid == bid).map Group.gid

/-- The decision for one block: its save area and handler are taken, and its groups stop. -/
def haltBlock (s : State) (b : Block) : State :=
  let area := if discardable s b then none else (openAreas s b.ctx 1).head?
  let entry := handlerOf s b 0x18
  let s := if discardable s b then s else vectorTouch s (blockReader s b) 0x18
  let s := s.updBlock b.bid fun b => { b with phase := .draining, area := area, entry := entry }
  let s := match area with
    | some k => s.updCtx b.ctx fun c => { c with areas := insertNat k c.areas }
    | none => s
  (blockGroups s b.bid).foldl haltGroup s

/-- Step 2 of R266 for the groups of a block. -/
def closeBlock (s : State) (bid : Nat) : State := (blockGroups s bid).foldl closeGroup s

/-- The faults of a block's copies are raised in place of the save handler (R241). -/
def raiseBlock (s : State) (bid : Nat) : State := (blockGroups s bid).foldl raiseStanding s

/-- Blocks that are pre-empted together stop: step 1 in all of them before step 2 begins in any (R266). -/
def stopBlocks (s : State) (bs : List Block) : State :=
  let ids := bs.map Block.bid
  ids.foldl raiseBlock (ids.foldl closeBlock (bs.foldl haltBlock s))

/-- Pre-emption of a block is masked (R267, R430), or something it issued is still on its way (R374 step 1). -/
def masked (s : State) (b : Block) : Bool :=
  let e := s.engine b.core
  (s.groups.any fun g => g.bid == b.bid && (g.priv != .user || g.hold.park || g.fl.pend.isSome || !g.fl.walks.isEmpty ||
    !g.fl.fetches.isEmpty || holdsBatch s g.gid)) ||
  e.imps.any (fun r => r.bid == b.bid) || e.fetchcs.any (fun r => r.bid == b.bid) ||
  b.banks.any fun k => (s.bank (coreClu b.core) k).switch.isSome

/-- The restart points of a block's groups, ended ones among them (R130). -/
def restartOf (s : State) (b : Block) : Restart :=
  let live := (s.groups.filter fun g => g.bid == b.bid).map fun g => (g.grp, g.restart, g.stalls)
  { idx := b.idx, groups := live ++ b.stalls.map fun (k, pc, st) => (k, pc, st) }

/-- Steps 4 to 6 of R266 by discard: the block rejoins its launch's undispatched blocks, and is placed anew: what is still
reserved for its launch cluster is not, and a co-resident launch is gang-dispatched again (R268). -/
def discardBlock (s : State) (b : Block) : State :=
  let s := closeBlock s b.bid
  let r := restartOf s b
  let gids := blockGroups s b.bid
  let s := discardBanks (dropEngineWork (clearEngine s b) [b.bid]) b
  let s : State := { s with
    groups := s.groups.filter (fun g => g.bid != b.bid), blocks := s.blocks.filter (fun c => c.bid != b.bid),
    marks := s.marks.filter (fun m => !gids.contains m.gid), batches := s.batches.filter fun t => !gids.contains t.gid }
  s.updLaunch b.lid fun l =>
    { l with again := insertRestart r l.again, quoin := if l.quoin.any gids.contains then none else l.quoin,
             ganged := false, reserve := l.reserve.filter fun x => l.cluOf x.idx != l.cluOf b.idx }

/-- PREEMPT_DECIDE (R265, R266): victims are stopped; a block pre-empted by discard goes once it is not masked. A vector entry
that the host or a commit batch holds is asked for before its block is chosen. -/
def execPreemptDecide (b : Nat) (s : State) : Out State :=
  event "PREEMPT_DECIDE" <| (s.block? b).bind fun x =>
    if !deviceRuns s then none
    else if x.phase == .draining then (if discardable s x && !masked s x then some (discardBlock s x) else none)
    else if x.phase == .resident && canPreempt s x && (x.preempt || victim s == some b) then
      (match (if discardable s x then none else handlerHeld s x 0x18) with
       | some p => askOnce s p 16 false
       | none => some (stopBlocks s (stopsWith s x)))
    else none

/-- The raise values of the save and restore handlers (R363). -/
def handlerRaise (cls : Nat) : Raise :=
  { cls := cls, code := 0, addr := 0, len := 2, deferred := false, write := false, mask := 0, vas := [], seq := 0,
    recPc := 0, recVa := 0, helper := none, helperPc := 0, info := 0 }

/-- A group enters the save handler (R363). -/
def enterSave (cbase : DWord) (entry : Word) (g : Group) : Group :=
  startHandler (captureTrap (cancelLdvs (finishLoads { g with hold := { g.hold with host := false } })) 0x18 (handlerRaise 0x18))
    .save cbase entry

/-- The engine stops for a block that is saved (R266 step 4): an MLOAD under way leaves the shadow set empty (R318). One is under way
from the moment it may run: the model's choice (log 76). -/
def stopLoad (s : State) (b : Block) : State :=
  let e := s.engine b.core
  match loadable e with
  | some c => match c.ins with
    | .mload _ => if ctxBlock s e c.x == some b.bid then s.updEngine b.core fun e => { e with shadow := PlaneSet.reset } else s
    | _ => s
  | none => s

/-- SAVE_HANDLER_ENTRY (R266 step 4, R363). -/
def execSaveHandlerEntry (b : Nat) (s : State) : Out State :=
  event "SAVE_HANDLER_ENTRY" <| (s.block? b).bind fun x =>
    match x.entry with
    | some (c, e) =>
      if x.phase != .draining || discardable s x || masked s x then none
      else
        let s := (stopLoad (closeBlock s b) x).updBlock b fun y => { y with phase := .saving }
        let go : Group → Group := fun g => if g.bid == b then enterSave c e g else g
        some (finishSave { s with groups := s.groups.map go } b)
    | none => none

/-! ## Restore (R268, R363) -/

/-- A group as the restore handler finds it (R363). The A-clocks a YIELD has left to idle, and the issue it forces, do not outlive
the save: the model's choice (log 69). -/
def restoredGroup (dbg : Nat) (cbase : DWord) (entry : Word) (slot : Nat) (g : Group) : Group :=
  let g := g.mapLanes fun _ x => { x with
    v := Vector.replicate 64 0, p := 0, fsticky := 0, st := .live, pc := entry, age := 0, lent := false, tva := 0 }
  { g with
    slot := slot, u := Vector.replicate 64 0, codebase := if cbase = 0 then g.trap.tcbase else cbase, priv := .restore,
    stack := [], trap := { g.trap with tcause := 0x19, taddr := 0, tseq := 0, tmask := 0, tinfo := 0 },
    hold := { Hold.reset with stopped := true }, dbg := comparators dbg g.dbg, mctx := none }

/-- One block is placed back on its core (R255, R268). Until its handler writes sys.bload its handle slots hold the bindings they
were saved with: the model's choice (log 68). -/
def restoreBlock (s : State) (b : Block) : State :=
  let entry := handlerOf s b 0x19
  let s := vectorTouch (clearFount (traceFields s b.ctx) b.core) (blockReader s b) 0x19
  match entry, b.saved with
  | some (c, e), gs =>
    let n := ((s.launch? b.lid).map fun l => l.lr.banks).getD 0
    let slots := freeSlots s b.core gs.length
    let (s, banks) := grantBanks s (coreClu b.core) b.bid n
    let dbg := debugBlock s b.ctx
    let gs := (gs.zip slots).map fun (g, k) => restoredGroup dbg c e k g
    let s := s.updBlock b.bid fun b => { b with phase := .restoring, banks := banks, saved := [] }
    finishRestore { s with groups := s.groups ++ gs } b.bid
  | none, g :: _ => raiseGrid s g { handlerRaise 0x07 with recPc := 0 }
  | none, [] => s

/-- The saved blocks restored with a block: of a co-resident launch all of them (R268). -/
def restoreSet (s : State) (b : Block) : List Block :=
  match s.launch? b.lid with
  | some l => if l.lr.coresident then s.blocks.filter fun c => c.lid == b.lid else [b]
  | none => [b]

/-- Every block of a list fits its own core. -/
def restoreFits (l : LaunchRec) : Report → List Block → Bool
  | _, [] => true
  | r, b :: bs =>
    let n := b.saved.length
    let fits := (r.cores.any fun (c, m, k) => c == b.core && n ≤ m && l.bytes ≤ k) &&
      (r.clus.any fun (j, m, _) => j == coreClu b.core && l.banks ≤ m)
    fits && restoreFits l (r.take b.core n l.bytes l.banks) bs

/-- A launch of a lower class number seeks room on the cluster of a saved block and will find it: only over new blocks of its own
class or a lower one does the block take precedence (R265, R268, log 73). -/
def newAhead (s : State) (b : Block) : Bool :=
  let u := withoutBlocks s (leaving s)
  s.launches.any fun l => l.cls < blockClass s b && seeksRoom s l && gangClear u l &&
    nextFits u l fun c => l.lr.coresident || coreClu c == coreClu b.core

/-- BLOCK_RESTORE (R268): in the order of saving on its core, a co-resident launch whole. -/
def execBlockRestore (b : Nat) (s : State) : Out State :=
  event "BLOCK_RESTORE" <| (s.block? b).bind fun x =>
    match s.launch? x.lid with
    | none => none
    | some l =>
      let bs := restoreSet s x
      let earlier (c : Block) : Bool := (s.blocks.takeWhile fun d => d.bid != c.bid).any fun d =>
        d.phase == .saved && d.core == c.core && !bs.any fun e => e.bid == d.bid
      if !deviceRuns s || (s.queue l.q).hold || !bs.all (fun c => c.phase == .saved) || bs.any earlier || bs.any (newAhead s) ||
        !restoreFits l.lr (roomNow s) bs then none
      else if let some p := bs.findSome? fun c => handlerHeld s c 0x19 then askOnce s p 16 false
      else if let some p := contextHeld s x.ctx then askOnce s p 128 false
      else some (bs.foldl (fun s c => match s.block? c.bid with
        | some c => if c.phase == .saved then restoreBlock s c else s
        | none => s) s)

end Sys2Proof.Machine
end

