-- ==== Sys2Proof/Machine/EventHost.lean ====
section
/-!
DEFINITION. Events of the links (R402 to R411): host accesses and back-invalidation, snoops of the device cache, failures
of pool ranges, requests of peers and losses of peer links.
-/

namespace Sys2Proof.Machine

/-! ## Host accesses to device HBM (R404, R405) -/

/-- A snoop of a line in a span, after every redirect (R394), is not answered yet. -/
def lineWaits (s : State) (pa n : Nat) : Bool := s.host.snoops.any (lineIn s pa n)

/-- Every write past a write point to one of `n` bytes is performed at home, those to where a migration has copied them too (R394). -/
def recallBytes (s : State) (pa n : Nat) : State := performWhere s fun e => e.reaches s pa n

/-- A write that such a recall would perform and that has to wait: for the host, whose copy of the line it would change, or for a
commit batch (R343, R405). -/
def bytesBlocked (s : State) (pa n : Nat) : Option Place := performBlocked s fun e => e.reaches s pa n

/-- What a .sys observer reads of a sector: of a galley page the newest sealed impression (R404). -/
def sectorBytes (s : State) (sector : Nat) : List Byte :=
  match s.imps.find? fun c => c.sector == redirect s (sector * 32) / 32 with
  | some c => match c.list.reverse.find? (·.isSealed) with
    | some i => i.bytes
    | none => (List.range 32).map fun o => homeByte s none (sector * 32 + o)
  | none => (List.range 32).map fun o => homeByte s none (sector * 32 + o)

/-- The host keeps, or gives up, a copy of a line. -/
def keepLine (s : State) (line : Nat) (keep : HostKeep) : State :=
  s.updHost fun h => { h with
    hostHeld := h.hostHeld.filter (fun p => p.1 != line) ++ (if keep == .nothing then [] else [(line, keep)]) }

/-- HOST_READ (R404): a 64-byte line of device HBM. -/
def execHostRead (pa : Nat) (keep : HostKeep) (s : State) : Out State :=
  event "HOST_READ" <|
    if !deviceRuns s || pa % 64 != 0 || !inHbm pa || lineWaits s pa 64 || tokenHeld s (.mem pa) 64 then none
    else if let some p := bytesBlocked s pa 64 then askOnce s p 1 true
    else
      let s := recallBytes s pa 64
      let m : Msg := if poisonedAt s (.mem pa) 64 then .hostPoison pa
        else .hostData pa (sectorBytes s (pa / 32) ++ sectorBytes s (pa / 32 + 1))
      some (keepLine (s.updHost fun h => { h with outbox := h.outbox ++ [m] }) (pa / 64) keep)

/-- The entries of a level's tables, as an observer outside every launch reads them (R380). -/
def levelEntries (s : State) (level : Nat) (tables : List Nat) : List Nat :=
  tables.flatMap fun t => (List.range (if level = 4 then 16 else 1024)).map fun k => physNum s (t + 8 * k) 8

/-- The galley leaves that tables at a level lead to, with the page each names (R380 to R382): its base and address bits. -/
def galleyLeaves (s : State) : Nat → List Nat → List (Nat × Nat)
  | level, tables =>
    let es := (levelEntries s level tables).filter fun e => e.testBit 0
    let pages (n : Nat) (es : List Nat) : List (Nat × Nat) := es.filterMap fun e => match leafOf e n with
      | .ok l => if l.galley.isSome then some (l.base, l.bits) else none
      | .error _ => none
    match level with
    | 0 => pages 0 es
    | l + 1 =>
      (if l + 1 ≤ 2 then pages (l + 1) (es.filter fun e => e.testBit 1) else []) ++
      galleyLeaves s l ((es.filterMap fun e =>
        let frame := e % 2 ^ 52 / 2 ^ 13 * 2 ^ 13
        if e = frame + 1 && inHbm frame then some frame else none).eraseDups)

/-- The page tables of the contexts that have them. -/
def rootTables (s : State) : List Nat :=
  ((s.ctxs.toList.map fun c => c.ptbase.toNat % 2 ^ 52 / 2 ^ 13 * 2 ^ 13).filter (· != 0)).eraseDups

/-- A span of device HBM lies in part in a galley page (R382, R404): one that impression instructions have accessed, or that a
leaf of a context's page tables makes one (log 40). -/
def onGalleyPage (s : State) (pa n : Nat) : Bool :=
  (s.galfloor.any fun p => p.page < pa + n && pa < p.page + 2 ^ p.bits) ||
  (galleyLeaves s 4 (rootTables s)).any fun (base, bits) => base < pa + n && pa < base + 2 ^ bits

/-- A line of host or pool memory is not in the device cache: its home may change it (R406, R407). -/
def lineOut (s : State) (line : Nat) : Bool := !s.host.l3.any fun x => x.line == line && x.st != .i

/-- HOST_WRITE (R404): to device HBM, performed at its home slices; the same event writes host or pool memory in lines
the device cache does not hold. -/
def execHostWrite (pa : Nat) (bytes : List Byte) (s : State) : Out State :=
  event "HOST_WRITE" <|
    let n := bytes.length
    if !deviceRuns s || n = 0 then none
    else if inHbm pa && inHbm (pa + n - 1) then
      (if lineWaits s pa n || tokenHeld s (.mem pa) n then none
       else if onGalleyPage s pa n then some (mgmtEvent s 3)
       else if let some p := bytesBlocked s pa n then askOnce s p 1 true
       else some (writeRun (recallBytes s pa n) none 0 none (.mem pa) bytes))
    else if (inHost pa && inHost (pa + n - 1)) || (inPool pa && inPool (pa + n - 1)) then
      (if (List.range n).all fun o => lineOut s ((pa + o) / 64) then some { s with mem := bytesPut s.mem pa bytes } else none)
    else none

/-- The last snoop of a line asked for its data only. -/
def askedData (s : State) (line : Nat) : Bool :=
  match s.host.outbox.reverse.find? fun m => m == .bisnpInv line || m == .bisnpData line with
  | some m => m == .bisnpData line
  | none => false

/-- BIRSP (R405): data the host returns takes its place in coherence, and the waiting accesses go on. -/
def execBirsp (line : Nat) (data : Option (List Byte)) (s : State) : Out State :=
  event "BIRSP" <|
    if !s.host.snoops.contains line then none
    else
      let keep : HostKeep := if askedData s line then .shared else .nothing
      let s := match data with
        | some bs => writeRun s none 0 none (.mem (line * 64)) (bs.take 64)
        | none => s
      some (clearHostWait (keepLine s line keep) line)
where
  /-- The snoop of a line is answered. -/
  clearHostWait (s : State) (line : Nat) : State := s.updHost fun h => { h with snoops := h.snoops.filter (· != line) }

/-! ## Snoops of the device cache (R406) -/

/-- The state a snoop leaves: of SnpData, SnpCur and SnpInv. -/
def snooped (kind : Nat) (st : L3St) : L3St :=
  match kind, st with
  | _, .i => .i
  | 2, _ => .i
  | 1, .e => .e
  | _, _ => .s

/-- A snoop of a line (R406): dirty data is written to its home, and copies the new state forbids are recalled first. -/
def snoop (s : State) (kind line : Nat) : State :=
  match s.host.l3.find? fun x => x.line == line with
  | none => s.updHost fun h => { h with outbox := h.outbox ++ [.snoopReply line .i] }
  | some x =>
    let s := if x.st == .m || x.st == .o || kind == 2 then recallBytes s (line * 64) 64 else s
    let st := snooped kind x.st
    s.updHost fun h => { h with
      l3 := h.l3.map (fun y => if y.line == line then { y with st := st, by_ := none, home := [] } else y),
      outbox := h.outbox ++ [.snoopReply line st] }

/-- A snoop from the host, for a line of host memory. -/
def hostSnoop (name : String) (kind line : Nat) (s : State) : Out State :=
  event name <| if deviceRuns s && inHost (line * 64) then some (snoop s kind line) else none

/-- A snoop from a pool device, for a line of pool memory. -/
def poolSnoop (name : String) (kind line : Nat) (s : State) : Out State :=
  event name <| if deviceRuns s && inPool (line * 64) then some (snoop s kind line) else none

def execSnpData (line : Nat) (s : State) : Out State := hostSnoop "SNP_DATA" 0 line s
def execSnpCur (line : Nat) (s : State) : Out State := hostSnoop "SNP_CUR" 1 line s
def execSnpInv (line : Nat) (s : State) : Out State := hostSnoop "SNP_INV" 2 line s
def execBisnpData (line : Nat) (s : State) : Out State := poolSnoop "BISNP_DATA" 0 line s
def execBisnpCur (line : Nat) (s : State) : Out State := poolSnoop "BISNP_CUR" 1 line s
def execBisnpInv (line : Nat) (s : State) : Out State := poolSnoop "BISNP_INV" 2 line s

/-- DEVICE_CACHE_EVICTION (R406): the copies inside the device are recalled first, and the message is that of the line's state
then. -/
def execDeviceCacheEviction (line : Nat) (s : State) : Out State :=
  let s := recallBytes s (line * 64) 64
  event "DEVICE_CACHE_EVICTION" <| (s.host.l3.find? fun x => x.line == line).bind fun x =>
    let m : Option Msg := match x.st with
      | .i => none
      | .s => some (.cleanEvictNoData line)
      | .e => some (.cleanEvict line)
      | .o => some (.dirtyEvict line)
      | .m => some (.dirtyEvict line)
    m.map fun m => s.updHost fun h => { h with
      l3 := h.l3.filter (fun y => y.line != line), outbox := h.outbox ++ [m] }

/-! ## Failures of pool ranges (R408, R409) -/

/-- A dropped line of a failed range: dirty data is lost, and reported against the launch site that wrote it last, whose grid ends
(R379). -/
def dropLine (s : State) (x : L3Line) : State :=
  if x.st == .m || x.st == .o then x.by_.toList.foldl endBySite { s with mem := bytesPut s.mem (x.line * 64) x.home } else s

/-- A pool range fails (R409), in this order: it is fenced with its cause, its lines are dropped and their lost data reported, the
host is told. The cause is that of the failure, also
where dirty data is discarded: R407 lists cause 4 and no rule writes it, and that the model never does is its choice (log 39). -/
def failRange (s : State) (i : Nat) (cause : Nat) : State :=
  let mine (x : L3Line) : Bool := inPool (x.line * 64) && poolRange s (x.line * 64) == some i
  let gone := s.host.l3.filter mine
  let e := (vget 0 s.host.poolrng i &&& ~~~0x7F00000000000000) ||| (BitVec.ofNat 64 (2 ^ 62 + 2 ^ 56 * cause))
  let s := s.updHost fun h => { h with l3 := h.l3.filter (fun x => !mine x), poolrng := vset h.poolrng i e }
  mgmtEvent (gone.foldl dropLine s) 1

/-- The launch, the context and the site of a lost access, also of a launch that has retired (R379). -/
def siteWriter (s : State) (l : Nat) (site : AsyncSite) : Writer :=
  { lid := l, ctx := ((s.launch? l).map Launch.ctx).getD (s.queue site.queue.toNat).ctx, site := site }

/-- A queued write is the access of a launch site, to places that satisfy a condition. -/
def SqEntry.isSite (s : State) (l : Nat) (site : AsyncSite) (on : Nat → Bool) (e : SqEntry) : Bool :=
  e.lid == l && siteOf s l site.code e.pc e.seq e.va e.bidx e.core e.grp == site && (match e.place with
    | .mem k => on k
    | .case _ => false)

/-- An access of a launch site is lost: a write of it never arrives. -/
def loseAccess (s : State) (l : Nat) (site : AsyncSite) (on : Nat → Bool) : State :=
  { s with sq := s.sq.filter (fun e => !e.isSite s l site on), wp := s.wp.filter (fun e => !e.isSite s l site on) }

/-- POOL_REQUEST_TIMEOUT (R408): the request is abandoned and reported against its site, whose grid ends, and then the range fails
(R409). -/
def execPoolRequestTimeout (i : BitVec 4) (l : Nat) (site : AsyncSite) (s : State) : Out State :=
  event "POOL_REQUEST_TIMEOUT" <|
    if !deviceRuns s || site.code != 3 || !(vget 0 s.host.poolrng i.toNat).getLsbD 63 then none
    else
      let u := loseAccess s l site fun k => poolRange s k == some i.toNat
      some (failRange (endBySite u (siteWriter s l site)) i.toNat 2)

/-- POOL_POISON (R409): the read that met it finds its range fenced, and so poisoned. The event names no access: that the fault of
the read follows the fence is the model's choice (log 39). -/
def execPoolPoison (i : BitVec 4) (s : State) : Out State :=
  event "POOL_POISON" <|
    if !deviceRuns s || !(vget 0 s.host.poolrng i.toNat).getLsbD 63 then none else some (failRange s i.toNat 1)

/-- The pool port of a range (R402). -/
def rangePort (e : DWord) : Nat := ((e.extractLsb' 0 24).toNat * 2 ^ 28) / 2 ^ 48 - 2

/-- POOL_PORT_DOWN (R409). -/
def execPoolPortDown (port : BitVec 1) (s : State) : Out State :=
  event "POOL_PORT_DOWN" <|
    if !deviceRuns s || !s.host.poolUp.getLsbD port.toNat then none
    else
      let s := s.updHost fun h => { h with poolUp := h.poolUp &&& ~~~((1 : BitVec 2) <<< port.toNat) }
      let hit := (List.range 16).filter fun i =>
        let e := vget 0 s.host.poolrng i
        e.getLsbD 63 && rangePort e == port.toNat
      some (hit.foldl (fun s i => failRange s i 3) s)

/-! ## Peers (R410, R411) -/

/-- A peer's access performed at its home slices as a .sys observer's; what it answers. -/
def servePeer (s : State) (dev : Nat) : PeerReq → State
  | .read pa len =>
    let s := recallBytes s pa len
    s.updHost fun h => { h with outbox := h.outbox ++ [.peerData dev ((List.range len).map fun o => homeByte s none (pa + o))] }
  | .write pa bytes => writeRun (recallBytes s pa bytes.length) none 0 none (.mem pa) bytes
  | .atomic pa size op u x c =>
    let n := 2 ^ size.toNat
    let s := recallBytes s pa n
    let m := placeNum s none (.mem pa) n
    let (v, w) := atomOp op.toNat u n m (x.toNat % 2 ^ (8 * n)) (c.toNat % 2 ^ (8 * n))
    let s := if w then writeHome s none 0 none (.mem pa) (numBytes n v) else s
    s.updHost fun h => { h with outbox := h.outbox ++ [.peerData dev (leBytes n m)] }

/-- The bytes a peer's access names. -/
def peerSpan : PeerReq → Nat × Nat × Bool
  | .read pa len => (pa, len, false)
  | .write pa bytes => (pa, bytes.length, true)
  | .atomic pa size _ _ _ _ => (pa, 2 ^ size.toNat, true)

/-- PEER_REQUEST (R411): served when PEERACC allows it, refused otherwise; a line the host holds is asked for. -/
def execPeerRequest (dev : BitVec 8) (r : PeerReq) (s : State) : Out State :=
  event "PEER_REQUEST" <|
    let (pa, n, w) := peerSpan r
    if !deviceRuns s || n = 0 || !inHbm pa || !inHbm (pa + n - 1) then none
    else if !s.host.peeracc.getLsbD dev.toNat then
      some (s.updHost fun h => { h with outbox := h.outbox ++ [.peerRefused dev.toNat] })
    else if waitsHome s (.mem pa) n w then askOnce s (.mem pa) n w
    else if let some p := bytesBlocked s pa n then askOnce s p 1 true
    else some (servePeer s dev.toNat r)

/-- A loss on a peer link is reported against its site; a request that was refused or not answered is not sent again, and its
write does not arrive. -/
def peerLoss (name : String) (l : Nat) (site : AsyncSite) (s : State) : Out State :=
  event name <|
    if !deviceRuns s || site.code != 2 then none
    else
      let u := loseAccess s l site inPeer
      some { u with async := u.async ++ [siteWriter s l site] }

/-- PEER_REQUEST_TIMEOUT (R411). -/
def execPeerRequestTimeout (l : Nat) (site : AsyncSite) (s : State) : Out State := peerLoss "PEER_REQUEST_TIMEOUT" l site s

/-- PEER_REFUSAL_RECEIVED (R411). -/
def execPeerRefusalReceived (l : Nat) (site : AsyncSite) (s : State) : Out State := peerLoss "PEER_REFUSAL_RECEIVED" l site s

/-- The port a request to a peer takes: bits 15:8 of its address choose among the ports set (R410). -/
def peerPort (s : State) (key : Nat) : Option Nat :=
  let m := vget 0 s.host.routes (key / 2 ^ 52 - 1)
  let ps := numbers 16 fun k => m.getLsbD k
  ps[key / 256 % 256 % max 1 ps.length]?

/-- A queued write is on its way through a port. -/
def onPort (s : State) (port : Nat) (e : SqEntry) : Bool :=
  match e.place with
  | .mem k => inPeer k && peerPort s k == some port
  | .case _ => false

/-- PEER_PORT_DOWN (R411): the queued writes named, in flight on the port, are lost and reported; the port leaves every
route. -/
def execPeerPortDown (port : BitVec 4) (hit : List Nat) (s : State) : Out State :=
  event "PEER_PORT_DOWN" <|
    if !deviceRuns s || !s.host.peerUp.getLsbD port.toNat then none
    else
      let lost := (s.sq ++ s.wp).filter fun e => hit.contains e.id && onPort s port.toNat e
      let keep (e : SqEntry) : Bool := !lost.any fun f => f.id == e.id
      let s : State := { s with sq := s.sq.filter keep, wp := s.wp.filter keep }
      let s := lost.foldl (fun s e =>
        asyncError s e.lid 2 e.pc e.seq e.va e.bidx e.core e.grp) s
      some (s.updHost fun h => { h with
        peerUp := h.peerUp &&& ~~~((1 : BitVec 16) <<< port.toNat), routes := h.routes.map fun m => m &&& ~~~((1 : BitVec 16) <<< port.toNat) })

end Sys2Proof.Machine
end

