-- ==== Sys2Proof/Machine/EventPower.lean ====
section
/-!
DEFINITION. Events of repair, boot, firmware and power (R14, R435 to R441).
-/

namespace Sys2Proof.Machine

/-! ## Core failure (R14, R436) -/

/-- The bit of a column's repair word that a failing logical core sets: its own physical core's, or the spare's when the
spare stands in for it. -/
def failBit (w : Word) (i : Nat) : Nat :=
  if !w.getLsbD 20 && (numbers 20 fun k => w.getLsbD k).head? == some i then 20 else i

/-- The engine fault of a failed core (R14, R379 code 4). The manual names neither its launches nor its site: one fault for each
launch with a group on the core, at the issue address of its first group there, is the model's choice (log 74). -/
def coreFault (s : State) (g : Group) : State :=
  if s.async.any fun a => a.lid == g.lid && a.site.code == 4 && a.site.core == BitVec.ofNat 16 g.core then s
  else asyncError s g.lid 4 (waitSel g).addr 0 0 (s.blockIdx g) g.core g.grp

/-- CORE_FAILURE (R14): the engine fault against every launch on the core, the repair table, the host told; no new group is
placed there. -/
def execCoreFailure (core : Nat) (s : State) : Out State :=
  event "CORE_FAILURE" <|
    if !deviceRuns s || !corePresent s core || (s.coreRegs core).failed then none
    else
      let col := 4 * (core / 80) + core % 80 / 20
      let i := failBit (vget 0 s.fw.applied col) (core % 20)
      let s := (s.groups.filter fun g => g.core == core).foldl coreFault s
      let s := s.updCore core fun c => { c with failed := true }
      let fw := { s.fw with repair := vset s.fw.repair col (vget 0 s.fw.repair col ||| (1 <<< i)) }
      some (mgmtEvent { s with fw := fw } 2)

/-! ## Verification and boot (R435, R437, R438) -/

/-- Bytes `lo` to `lo + n - 1` of an image. -/
def imageField (img : List Byte) (lo n : Nat) : List Byte := (img.drop lo).take n

/-- ASCII "KWL8FWIM" (R437). -/
def imageMagic : List Byte := [0x4B, 0x57, 0x4C, 0x38, 0x46, 0x57, 0x49, 0x4D]

/-- The body of an image (R437). -/
def imageBody (img : List Byte) : List Byte := imageField img 8192 (ofLeBytes (imageField img 12 4))

/-- The checks of R437. -/
def imageOk (fw : Firmware) (img : List Byte) : Bool :=
  8192 + ofLeBytes (imageField img 12 4) ≤ img.length &&
  imageField img 0 8 == imageMagic && (imageField img 5341 2851).all (· == 0) &&
  Config.shake256 (imageField img 80 1952) == fw.keyDigest && fw.minSvn ≤ ofLeBytes (imageField img 8 4) &&
  Config.shake256 (imageBody img) == imageField img 16 64 &&
  Config.mldsaVerify (imageField img 80 1952) (imageField img 0 80) (imageField img 2032 3309)

/-- Memory without the device cache: data that it held dirty is lost, and the home keeps its own bytes (R406). -/
def homesMem (s : State) : List Host.Cell :=
  s.host.l3.foldl (fun m x => if x.st == .m || x.st == .o then bytesPut m (x.line * 64) x.home else m) s.mem

/-- Memory outside the device keeps the bytes of its homes when the device loses its own (R406, log 48). -/
def outsideMem (s : State) : List Host.Cell := (homesMem s).filter fun c => !inHbm c.1

/-- Everything of the device but flash and fuses is lost (R440). What the outside has put on the agenda, the counter of free values and
the deferral flags are no state of the device (log 2). -/
def lost (s : State) (fw : Firmware) : State :=
  { State.reset with fw := fw, mem := outsideMem s, agenda := s.agenda, fresh := s.fresh, defer := s.defer }

/-- Flash and fuses as they stand. -/
def flash (fw : Firmware) (power : Power) (boot : Boot) : Firmware :=
  { Firmware.reset with image := fw.image, repair := fw.repair, cause := fw.cause, keyDigest := fw.keyDigest,
                        minSvn := fw.minSvn, secret := fw.secret, power := power, boot := boot }

/-- The seed of the alias key (R439). -/
def aliasSeed (secret digest : List Byte) : List Byte := Config.shake256 (secret ++ digest)

/-- The alias key's certificate, which the device key signs over that key, the image digest and svn (R439). -/
def certificate (secret digest : List Byte) (svn : Nat) : List Byte :=
  let body := Config.mldsaPublic (aliasSeed secret digest) ++ digest ++ leBytes 4 svn
  body ++ Config.mldsaSign (Config.shake256 secret) body

/-- Steps 3 to 7 of R435 with a verified image. -/
def bootWith (s : State) (img : List Byte) : State :=
  let fw := flash s.fw .d0 .running
  let t : State := { s with fresh := s.fresh + 1 }
  if Config.linksTrain s.fresh then
    lost t { fw with applied := fw.repair, digest := imageField img 16 64, svn := ofLeBytes (imageField img 8 4),
                     bootCause := fw.cause, cert := certificate fw.secret (imageField img 16 64) (ofLeBytes (imageField img 8 4)) }
  else lost t { fw with boot := .unusable, cause := 3 }

/-- RESET (R435): the boot sequence. -/
def execReset (s : State) : Out State :=
  .next (if imageOk s.fw s.fw.image then bootWith s s.fw.image else lost s (flash s.fw .d0 .recovery))

/-- The flash is being rewritten: it holds one image, and until the rewrite ends none that verifies (R438, log 44). -/
def rewriteFlash (s : State) (img : List Byte) : State := { s with fw := { s.fw with image := [], rewrite := some img } }

/-- The image of `len` bytes that the host has staged at an address in device HBM, as a .sys observer reads it. -/
def stagedBytes (s : State) (pa len : Nat) : List Byte := (List.range len).map fun o => homeByte s none (pa + o)

/-- FIRMWARE_UPDATE (R438): the staged image that the host names is verified, and one that verifies is written to flash; running
launches are not affected. -/
def execFirmwareUpdate (img : StagedImage) (s : State) : Out State :=
  let pa := img.pa
  let len := img.len
  event "FIRMWARE_UPDATE" <|
    if !deviceRuns s || s.fw.rewrite.isSome || len = 0 || !inHbm (pa + len - 1) then none
    else if waitsHome s (.mem pa) len false then askOnce s (.mem pa) len false
    else
      let s := performWhere s fun e => (List.range len).any fun o => e.covers (.mem (pa + o))
      let bytes := stagedBytes s pa len
      some (if !poisonedAt s (.mem pa) len && imageOk s.fw bytes then rewriteFlash s bytes else s)

/-- Bytes of the staging window of recovery mode (R438). -/
def stagingBytes : Nat := 2 ^ 24

/-- RECOVERY_IMAGE_STAGED (R438): the first image in the staging window that verifies is booted and written to flash. -/
def execRecoveryImageStaged (img : List Byte) (s : State) : Out State :=
  event "RECOVERY_IMAGE_STAGED" <|
    if s.fw.boot != .recovery || s.fw.power == .off || stagingBytes < img.length then none
    else some (if imageOk s.fw img then rewriteFlash (bootWith s img) img else s)

/-! ## Attestation (R439) -/

/-- The body of capability entry 0x0002 (R422): present cores, absent clusters. -/
def presentBody (s : State) : List Byte :=
  let here := (List.range Config.cores).map (corePresent s)
  let bits := (List.range 80).map fun i => BitVec.ofNat 8
    ((List.range 8).foldl (fun n k => if here.getD (8 * i + k) false then n + 2 ^ k else n) 0)
  bits ++ leBytes 1 ((List.range 160).filter fun k => !corePresent s (4 * k)).length

/-- What an attestation reply signs. -/
def attestBody (s : State) (nonce : List Byte) : List Byte :=
  nonce ++ s.fw.digest ++ leBytes 4 s.fw.svn ++ presentBody s ++
    Config.shake256 (s.fw.repair.toList.flatMap fun w => leBytes 4 w.toNat)

/-- ATTESTATION_REQUEST (R439): the reply is signed with the alias key. -/
def execAttestationRequest (nonce : List Byte) (s : State) : Out State :=
  event "ATTESTATION_REQUEST" <|
    if s.fw.boot != .running || s.fw.power == .off || nonce.length != 32 then none
    else
      let body := attestBody s nonce
      some (s.updHost fun h => { h with outbox := h.outbox ++ [.attestation (body ++ Config.mldsaSign (aliasSeed s.fw.secret s.fw.digest) body)] })

/-! ## Power (R440, R441) -/

/-- A launch that begins anew: none of its blocks has been dispatched. -/
def Launch.anew (l : Launch) : Launch :=
  { l with next := 0, again := [], done := 0, reserve := [], ganged := false, gridSet := false,
           gridBars := Vector.replicate 4 Bar.reset, cluBars := [], quoin := none }

/-- Nothing of a launch is left to do, or its grid has ended. -/
def settled (s : State) (l : Launch) : Bool := l.how.isSome || (launchDone s l && launchQuiet s l)

/-- What D3hot keeps (R440): the contents of HBM with their poison, the management registers, and in its queues the records that
have been fetched. The groups, the caches with their dirty lines, the Case and the engines keep nothing. A launch whose work is
lost so begins anew when its queue goes on, without the versions it has written. %clock keeps its value; the lines the host holds
and the snoops sent are forgotten, a resync under way ends with no event, waiting device writes and interrupts are dropped, and so
are the impressions, counts and floors of galley pages, those in a spill area with them. All of this is the model's choice
(log 44). -/
def d3State (s : State) : State :=
  let keep (lid : Nat) : Bool := (s.launch? lid).any (settled s)
  let ctx (c : Ctx) : Ctx := { Ctx.reset with head := c.head, tail := c.tail, lost := c.lost }
  { State.reset with
    clock := s.clock, queues := s.queues, ctxs := s.ctxs.map ctx,
    launches := s.launches.map fun l => if settled s l then l else l.anew,
    cores := (s.cores.filter fun c => c.2.failed).map fun c => (c.1, { CoreRegs.reset with failed := true }),
    mem := homesMem s, ver := s.ver.filter fun v => keep v.lid,
    poison := s.poison.filter fun n => inHbm (32 * n),
    host := { s.host with resync := false, l3 := [], hostHeld := [], snoops := [] },
    fw := { s.fw with power := .d3hot }, agenda := s.agenda, defer := s.defer, nextId := s.nextId, fresh := s.fresh }

/-- D3HOT_ENTRY (R440). -/
def execD3hotEntry (s : State) : Out State :=
  event "D3HOT_ENTRY" <| if deviceRuns s then some (d3State s) else none

/-- RETURN_TO_D0 (R440). -/
def execReturnToD0 (s : State) : Out State :=
  event "RETURN_TO_D0" <| if s.fw.power == .d3hot then some { s with fw := { s.fw with power := .d0 } } else none

/-- THROTTLE (R440): the A-clock in steps of 50 MHz, from 450 to 900. -/
def execThrottle (mhz : Nat) (s : State) : Out State :=
  event "THROTTLE" <|
    if deviceRuns s && 450 ≤ mhz && mhz ≤ 900 && mhz % 50 = 0 then some { s with fw := { s.fw with mhz := mhz } } else none

/-- Power goes: only flash and fuses stay. -/
def powerOff (s : State) (cause : BitVec 8) : State := lost s (flash { s.fw with cause := cause } .off s.fw.boot)

/-- DIE_OVER_TEMPERATURE (R441). -/
def execDieOverTemperature (s : State) : Out State :=
  event "DIE_OVER_TEMPERATURE" <| if s.fw.power == .off then none else some (powerOff s 1)

/-- COOLANT_FLOW_LOST (R441). -/
def execCoolantFlowLost (s : State) : Out State :=
  event "COOLANT_FLOW_LOST" <| if s.fw.power == .off then none else some (powerOff s 2)

/-- ORDERLY_POWER_OFF (R441). -/
def execOrderlyPowerOff (s : State) : Out State :=
  event "ORDERLY_POWER_OFF" <| if s.fw.power == .off then none else some (powerOff s 0)

/-- MAIN_POWER_LOSS (R440): the shutdown cause stays as it was. -/
def execMainPowerLoss (s : State) : Out State :=
  event "MAIN_POWER_LOSS" <| if s.fw.power == .off then none else some (powerOff s s.fw.cause)

end Sys2Proof.Machine
end

