-- ==== Sys2Proof/Machine/Float.lean ====
section
/-!
DEFINITION. Meanings of the float instructions (R91 to R94) and the conversions (R95 to R97).
-/

namespace Sys2Proof.Machine

def execFadd (f : AForm) (s : State) : Out State := float3 f addOp s
def execFsub (f : AForm) (s : State) : Out State := float3 f subOp s
def execFmul (f : AForm) (s : State) : Out State := float3 f mulOp s
def execFfma (f : AForm) (s : State) : Out State := float3Acc f fmaOp s
def execFmin (f : AForm) (s : State) : Out State := float3 f minOp s
def execFmax (f : AForm) (s : State) : Out State := float3 f maxOp s

/-- The comparison of R92: false for a NaN except ne. -/
def fcmpVal (c : BitVec 2) (a b : FVal) : Bool :=
  let nan := a.isNan || b.isNan
  match c.toNat with
  | 0 => eqVal a b
  | 1 => !eqVal a b
  | 2 => ltVal a b
  | _ => !nan && !ltVal a b

/-- FCMP: a signalling NaN sets invalid (R92). -/
def execFcmp (f : CmpForm) (s : State) : Out State :=
  perLane s (modUse f.m ++ [Use.w f.a.toNat (winA f.m), Use.w f.b.toNat (winB f.m)]) f.g fun g _ x =>
    let a := srcA f.m (f32 (regA g f.m x f.a))
    let b := srcB f.m (f32 (regB g f.m x f.b))
    (x.setPred f.p (fcmpVal f.c a b)).addFlags (sigFlag (a.isSig || b.isSig))

def execHadd2 (f : AForm) (s : State) : Out State := packed2 (usesA f) f addOp s
def execHmul2 (f : AForm) (s : State) : Out State := packed2 (usesA f) f mulOp s
def execHfma2 (f : AForm) (s : State) : Out State := packed2 (usesAcc f) f fmaOp s

def execFrcp (f : DAForm) (s : State) : Out State := float1 f .rcp s
def execFrsq (f : DAForm) (s : State) : Out State := float1 f .rsq s
def execFsqrt (f : DAForm) (s : State) : Out State := float1 f .sqrt s
def execFexp2 (f : DAForm) (s : State) : Out State := float1 f .exp2 s
def execFlog2 (f : DAForm) (s : State) : Out State := float1 f .log2 s

/-! ## Conversions -/

/-- The formats of a conversion; the codes of a well-formed one name formats (R51). -/
def cvtFmts (f : CvtForm) : Fmt × Fmt := ((fmtOfCode f.dst).getD .f32, (fmtOfCode f.src).getD .f32)

/-- The default mode of a conversion (R63): toward zero into an integer, else to nearest. -/
def cvtMode (dst : Fmt) : RMode := if fmtIsInt dst then .rz else .rn

/-- A conversion gives its source back bit for bit: identical formats and a quiet NaN, no clamp (R96); the codes of .x8
follow R62. The sign fields of the modifier do not act on such a NaN (log 20). -/
def keepsNan (f : CvtForm) (x : FVal) : Bool :=
  f.dst == f.src && x.isNan && !x.isSig && (cvtFmts f).1 != .x8 && (match f.m with
    | some m => m.clmp == 0
    | none => true)

/-- The converted element of a source element (R96). A zero from an integer format is negated like any other zero, so
nega gives -0 from it: the manual does not say (log 20). -/
def convert (f : CvtForm) (draw code : Nat) : Nat × Flags :=
  let (dst, src) := cvtFmts f
  let x := srcA f.m (decodeElem src code)
  let sig := sigFlag x.isSig
  if keepsNan f x then (code % 2 ^ fmtWidth src, 0)
  else finish dst f.m (modeOf f.m (cvtMode dst) draw) (if x.isNan then (.nan false, sig) else (x, 0))

/-- A converted element as a register value: zero-extended, or with copies of the sign for .i4, .i8, .i16 (R96). -/
def extendElem (dst : Fmt) (y : Nat) : Nat :=
  match dst with
  | .int w true => if w < 32 && y.testBit (w - 1) then y + (2 ^ 32 - 2 ^ w) else y
  | _ => y

/-- A converted element written to a register or a pair (R96). -/
def putElem (x : Lane) (d : Nat) (dst : Fmt) (r : Nat × Flags) : Lane :=
  let x := if fmtWidth dst = 64 then x.setPair d (BitVec.ofNat 64 r.1)
    else x.setReg d (BitVec.ofNat 32 (extendElem dst r.1))
  x.addFlags r.2

/-- The operand of a conversion: a pair for a 64-bit format (R95). -/
def cvtUse (n : Nat) (w : Nat) (win : Bool) : Use := if w = 64 then Use.wp n win else Use.w n win

/-- The destination of a conversion. -/
def cvtDst (n : Nat) (w : Nat) : Use := { cvtUse n w false with out := true }

/-- The source of a conversion. -/
def cvtSrc (f : CvtForm) (g : Group) (x : Lane) : Nat :=
  if fmtWidth (cvtFmts f).2 = 64 then (pairA g f.m x f.a).toNat else (regA g f.m x f.a).toNat

def execCvt (f : CvtForm) (s : State) : Out State :=
  let (dst, src) := cvtFmts f
  perLane s (modUse f.m ++ [cvtDst f.d.toNat (fmtWidth dst), cvtUse f.a.toNat (fmtWidth src) (winA f.m)]) f.g
    fun g t x => putElem x f.d.toNat dst (convert f (stochDraw s g t 0) (cvtSrc f g x))

/-- CVTPK: the element goes to its position, the other bits stay (R97). -/
def execCvtpk (f : CvtForm) (s : State) : Out State :=
  let (dst, src) := cvtFmts f
  perLane s (modUse f.m ++ [Use.v f.d.toNat, cvtUse f.a.toNat (fmtWidth src) (winA f.m)]) f.g fun g t x =>
    let w := fmtWidth dst
    let k := f.pos.toNat
    let (y, fl) := convert f (stochDraw s g t k) (cvtSrc f g x)
    let old := x.reg f.d.toNat
    let mask : Word := BitVec.ofNat 32 ((2 ^ w - 1) <<< (k * w))
    (x.setReg f.d.toNat ((old &&& ~~~mask) ||| (BitVec.ofNat 32 (y <<< (k * w)) &&& mask))).addFlags fl

/-- CVTUNPK: the element comes from its position (R97). -/
def execCvtunpk (f : CvtForm) (s : State) : Out State :=
  let (dst, src) := cvtFmts f
  perLane s (modUse f.m ++ [cvtDst f.d.toNat (fmtWidth dst), Use.w f.a.toNat (winA f.m)]) f.g fun g t x =>
    putElem x f.d.toNat dst (convert f (stochDraw s g t 0) ((regA g f.m x f.a).toNat >>> (f.pos.toNat * fmtWidth src)))

end Sys2Proof.Machine
end

