-- ==== Sys2Proof/Machine/Fount.lean ====
section
/-!
DEFINITION. Meanings of FETCH, FETCHC and HBIND (R207 to R213, R234 to R237, R322).
-/

namespace Sys2Proof.Machine

/-- A Fount instruction per lane (R208, R209): the executing lanes, and the binding of its slot. A Fount command of
another launch than the cluster's last one invalidates the cache first (R322). `open_` is the gate of the instruction. -/
def fountGate (f : FetchForm) (s : State) (open_ : (Group → Out State) → Out State) (bad : Group → List Nat → List Nat)
    (k : State → Group → Handle → List Nat → State) : Out State :=
  open_ fun g =>
    let ex := executing s g f.g
    let tx := ex.filter fun l => (g.lane l).inTx
    let odd := bad g ex
    if ex.isEmpty then .next s.advance
    else if !tx.isEmpty then .next (raiseIn s 0x0C tx)
    else if !odd.isEmpty then .next (raiseIn s 0x08 odd)
    else match ((s.block? g.bid).map Block.handles).bind fun hs => hs.find? fun h => h.1 == f.h.toNat with
      | none => .next (raiseIn s 0x07 ex)
      | some (_, h) =>
        let clu := coreClu g.core
        .next (k (if (s.cluster clu).lastFount = some g.lid then s
          else s.updCluster clu fun c => { c with fcache := [], lastFount := some g.lid }) g h ex)

/-- The coordinates of a lane (R236). -/
def coordsOf (f : FetchForm) (x : Lane) : Word × Word := (x.reg f.a.toNat, x.reg (f.a.toNat + 1))

/-- The registers a FETCH or FETCHC names. -/
def fetchUses (f : FetchForm) : List Use := [Use.d f.d.toNat, Use.vp f.a.toNat]

/-- The registers of a FETCHC: the Case offset and the coordinates. -/
def fetchcUses (f : FetchForm) : List Use := [Use.v f.d.toNat, Use.vp f.a.toNat]

/-- FETCH (R236). -/
def execFetch (f : FetchForm) (s : State) : Out State :=
  fountGate f s (gateMem s (fetchUses f) false false) (fun _ _ => []) fun s g h _ =>
    let n := nextSeq g.seq
    let m := newOp s g f.g .fetch 4 0 0 f.d.toNat fun t x =>
      { t := t, ea := 0, data := pairOf (coordsOf f x).1 (coordsOf f x).2, cmp := 0 }
    let s' := memIssue s g { m with handle := h.entry, seq := n.toNat, num := g.seq }
    if s'.iss.waited || s'.iss.faulted then s' else s'.updGroup g.gid fun g => { g with seq := n }

/-- The Case offset a lane of FETCHC names (R237). -/
def caseOffset (f : FetchForm) (x : Lane) : Nat := ((x.reg f.d.toNat).extractLsb' 0 22).toNat

/-- FETCHC (R237): the command is queued with its lanes' coordinates and Case offsets. -/
def execFetchc (f : FetchForm) (s : State) : Out State :=
  fountGate f s (gate s (fetchcUses f) false false)
    (fun g ex => ex.filter fun l => caseOffset f (g.lane l) % 32 != 0) fun s g h ex =>
    let at_ := fun l => caseRun s g (caseOffset f (g.lane l)) 32
    let bad := ex.filter fun l => at_ l == .bad
    if !bad.isEmpty then raiseIn s 0x07 bad
    else if ex.any fun l => at_ l == .busy then stall s 11
    else
      let n := nextSeq g.seq
      let c : FetchC :=
        { gid := g.gid, bid := g.bid, grp := g.grp, prv := g.priv != .user, seq := n, pc := s.iss.addr, len := s.iss.len,
          h := h, lanes := ex.map (fun l => let x := g.lane l
            (l, (coordsOf f x).1, (coordsOf f x).2, caseOffset f x)), failed := none, raised := false, tr := s.now g }
      ((s.updEngine g.core fun e => { e with fetchcs := e.fetchcs ++ [c] }).updGroup g.gid fun g => { g with seq := n }).advance

/-- HBIND (R234, R235): the issue checks in the order of R211, then the read of the entry, then its own checks.
DESIGN CHOICE (log 54): the barrier number is checked only where bit 8 says that the slot counts. -/
def execHbind (f : HbindForm) (s : State) : Out State :=
  engineGroup s [Use.u f.e1.toNat, Use.u f.e2.toNat, Use.u f.e3.toNat] false f.g fun g =>
    let ea := g.ureg f.e1.toNat
    let slot := (g.ureg f.e2.toNat).toNat
    let bar := (g.ureg f.e3.toNat).toNat
    let count := match s.launch? g.lid with
      | some l => l.lr.bbar
      | none => 0
    let need : Need := { r := true, w := false, x := false, galley := false, priv := g.priv != .user }
    let fault := fun cls => raiseNow s { faultOf s cls s.iss.active [] with recVa := ea }
    if bar.testBit 8 && bar % 16 ≥ count then fault 0x0D
    else if ea.toNat % 32 != 0 then fault 0x08
    else if slot ≥ 64 || bar / 512 != 0 || bar / 16 % 16 != 0 then fault 0x07
    else
      let caseMode : Extent := match classify s g ea with
        | .bad => .bad
        | .caseAt c k _ _ => if (s.bank c k).switch.isSome then .busy else if scratchAt s c k then .ok else .bad
        | _ => .ok
      match caseMode with
      | .bad => fault 0x07
      | .busy => stall s 11
      | .ok =>
        match xlateHeld (s.now g) s g ea, xlate s g need ea with
          | some p, _ => stall (askHost s p 8 false) 11
          | none, .error x => fault x.cls
          | none, .ok x =>
            if waitsHome s x.place 32 false then stall (askHost s x.place 32 false) 11
            else if redPending s g.gid x.place 32 then stall s 11
            else if poisonedAt s x.place 32 then fault 0x09
            else
              let e := loadNum s g (s.groupTag g) x.place 32
              if !fentryAligned e then fault 0x08
              else if !fentryLegal e then fault 0x07
              else
                let h : Handle := { entry := e, cnt := bar.testBit 8, bar := bar % 16 }
                (s.updBlock g.bid fun b => { b with handles := listPut b.handles slot h }).advance

end Sys2Proof.Machine
end

