-- ==== Sys2Proof/Machine/Impression.lean ====
section
/-!
DEFINITION. Meanings of the impression instructions (R194 to R198). No modifier word may precede them (R174), so their
base is a pair of the issuing thread; the impression number is bits 31:0 of a uniform register, in helper code of the
copy taken at LIGA (R206).
-/

namespace Sys2Proof.Machine

/-- An impression instruction issues (R178, R386). -/
def impIssue (s : State) (g : Group) (n : BitVec 6) (m : MemOp) : State :=
  memIssue s g { m with num := loWord (issuerU s g n.toNat) }

/-- The registers of an LDV, and of an STV. -/
def ldvUses (f : ImpForm) : List Use := [dataDst f.size f.d, Use.vp f.b.toNat, Use.u f.n.toNat]
def impUses (f : ImpForm) : List Use := [dataUse f.size f.d, Use.vp f.b.toNat, Use.u f.n.toNat]

def execLdv (f : ImpForm) (s : State) : Out State :=
  gateMem s (ldvUses f) false true fun g =>
    .next (impIssue s g f.n (newOp s g f.g .ldv (sizeBytes f.size) 0 0 f.d.toNat fun t x =>
      { t := t, ea := x.pair f.b.toNat, data := 0, cmp := 0 }))

def execStv (f : ImpForm) (s : State) : Out State :=
  gateMem s (impUses f) false true fun g =>
    .next (impIssue s g f.n (newOp s g f.g .stv (sizeBytes f.size) 0 0 0 fun t x =>
      { t := t, ea := x.pair f.b.toNat, data := dataOf f.size x f.d, cmp := 0 }))

/-- The registers of SEALV and FLOORV: the length and the base. -/
def sealUses (f : SealForm) : List Use := [Use.v f.d.toNat, Use.vp f.b.toNat, Use.u f.n.toNat]

def execSealv (f : SealForm) (s : State) : Out State :=
  gateMem s (sealUses f) false false fun g =>
    .next (impIssue s g f.n (newOp s g f.g .sealv 1 0 0 0 fun t x =>
      { t := t, ea := x.pair f.b.toNat, data := (x.reg f.d.toNat).setWidth 64, cmp := 0 }))

def execFloorv (f : SealForm) (s : State) : Out State :=
  gateMem s (sealUses f) false false fun g =>
    .next (impIssue s g f.n (newOp s g f.g .floorv 1 0 0 0 fun t x =>
      { t := t, ea := x.pair f.b.toNat, data := (x.reg f.d.toNat).setWidth 64, cmp := 0 }))

def execVprobe (f : SealForm) (s : State) : Out State :=
  gateMem s [Use.dp f.d.toNat, Use.vp f.b.toNat, Use.u f.n.toNat] false true fun g =>
    .next (impIssue s g f.n (newOp s g f.g .vprobe 1 0 0 f.d.toNat fun t x =>
      { t := t, ea := x.pair f.b.toNat, data := 0, cmp := 0 }))

end Sys2Proof.Machine
end

