-- ==== Sys2Proof/Machine/Integer.lean ====
section
/-!
DEFINITION. Meanings of the short forms (R28), integer and address arithmetic, moves, comparisons, selection, logic,
shifts, bit fields and counting (R82 to R90).
-/

namespace Sys2Proof.Machine

/-! ## Results -/

def iaddOp (m : Option Mod) (a b : Word) : Word := intResult 32 (satOf m) (a.toInt + b.toInt)
def isubOp (m : Option Mod) (a b : Word) : Word := intResult 32 (satOf m) (a.toInt - b.toInt)
def imulOp (m : Option Mod) (a b : Word) : Word := intResult 32 (satOf m) (a.toInt * b.toInt)
def imulhOp (a b : Word) : Word := BitVec.ofInt 32 ((a.toInt * b.toInt) / (2 ^ 32 : Int))
def imulhzOp (a b : Word) : Word := BitVec.ofNat 32 (a.toNat * b.toNat / 2 ^ 32)
def iminOp (a b : Word) : Word := if a.toInt ≤ b.toInt then a else b
def imaxOp (a b : Word) : Word := if a.toInt ≤ b.toInt then b else a
def iminzOp (a b : Word) : Word := if a.toNat ≤ b.toNat then a else b
def imaxzOp (a b : Word) : Word := if a.toNat ≤ b.toNat then b else a

/-! ## Short forms -/

/-- MOV short: the word 0x0000 writes no register and makes no scoreboard entry (R28). -/
def execMovShort (f : ShortF) (s : State) : Out State :=
  if f.s = 0 ∧ f.d = 0 then perLane s [] Guard.always fun _ _ x => x
  else perLane s [Use.d f.d.toNat, Use.v f.s.toNat] Guard.always fun _ _ x => x.setReg f.d.toNat (x.reg f.s.toNat)

def execIaddShort (f : ShortF) (s : State) : Out State := alu (longOf f) (fun a b => iaddOp none a b) s
def execIsubShort (f : ShortF) (s : State) : Out State := alu (longOf f) (fun a b => isubOp none a b) s
def execImulShort (f : ShortF) (s : State) : Out State := alu (longOf f) (fun a b => imulOp none a b) s
def execAndShort (f : ShortF) (s : State) : Out State := alu (longOf f) (fun a b => a &&& b) s
def execOrShort (f : ShortF) (s : State) : Out State := alu (longOf f) (fun a b => a ||| b) s
def execXorShort (f : ShortF) (s : State) : Out State := alu (longOf f) (fun a b => a ^^^ b) s
def execShlShort (f : ShortF) (s : State) : Out State := alu (longOf f) (fun a b => shlOp a b) s
def execShrShort (f : ShortF) (s : State) : Out State := alu (longOf f) (fun a b => shrOp a b) s
def execSarShort (f : ShortF) (s : State) : Out State := alu (longOf f) (fun a b => sarOp a b) s
def execIminShort (f : ShortF) (s : State) : Out State := alu (longOf f) (fun a b => iminOp a b) s
def execImaxShort (f : ShortF) (s : State) : Out State := alu (longOf f) (fun a b => imaxOp a b) s
def execFaddShort (f : ShortF) (s : State) : Out State := float3 (longOf f) addOp s
def execFsubShort (f : ShortF) (s : State) : Out State := float3 (longOf f) subOp s
def execFmulShort (f : ShortF) (s : State) : Out State := float3 (longOf f) mulOp s
def execFmaxShort (f : ShortF) (s : State) : Out State := float3 (longOf f) maxOp s

/-! ## Integer arithmetic (R82) -/

def execIadd (f : AForm) (s : State) : Out State := alu f (fun a b => iaddOp f.m a b) s
def execIaddI64 (f : AForm) (s : State) : Out State :=
  alu64 f (fun a b => intResult 64 (satOf f.m) (a.toInt + b.toInt)) s
def execIsub (f : AForm) (s : State) : Out State := alu f (fun a b => isubOp f.m a b) s
def execIsubI64 (f : AForm) (s : State) : Out State :=
  alu64 f (fun a b => intResult 64 (satOf f.m) (a.toInt - b.toInt)) s
def execImul (f : AForm) (s : State) : Out State := alu f (fun a b => imulOp f.m a b) s
def execImulI64 (f : AForm) (s : State) : Out State :=
  alu64 f (fun a b => intResult 64 (satOf f.m) (a.toInt * b.toInt)) s
def execImulh (f : AForm) (s : State) : Out State := alu f (fun a b => imulhOp a b) s
def execImulhZ32 (f : AForm) (s : State) : Out State := alu f (fun a b => imulhzOp a b) s
def execImad (f : AForm) (s : State) : Out State :=
  aluAcc f (fun a b c => intResult 32 (satOf f.m) (a.toInt * b.toInt + c.toInt)) s

/-- IMAD .z64: the pair d plus the product of two unsigned registers. -/
def execImadZ64 (f : AForm) (s : State) : Out State :=
  perLane s (modUse f.m ++ [Use.vp f.d.toNat, Use.w f.a.toNat (winA f.m), Use.w f.b.toNat (winB f.m)]) f.g
    fun g _ x => x.setPair f.d.toNat (natResult 64 (satOf f.m)
      ((x.pair f.d.toNat).toNat + (regA g f.m x f.a).toNat * (regB g f.m x f.b).toNat))

def execImin (f : AForm) (s : State) : Out State := alu f (fun a b => iminOp a b) s
def execIminZ32 (f : AForm) (s : State) : Out State := alu f (fun a b => iminzOp a b) s
def execImax (f : AForm) (s : State) : Out State := alu f (fun a b => imaxOp a b) s
def execImaxZ32 (f : AForm) (s : State) : Out State := alu f (fun a b => imaxzOp a b) s

/-- IADD immediate (0x19). -/
def execIaddImm (f : ImmForm) (s : State) : Out State :=
  perLane s (modUse f.m ++ [Use.d f.d.toNat, Use.w f.a.toNat (winA f.m)]) f.g fun g _ x =>
    x.setReg f.d.toNat (iaddOp f.m (regA g f.m x f.a) (f.imm.signExtend 32))

/-! ## Comparison and selection (R85, R86) -/

/-- A comparison into a predicate. -/
def compare (f : CmpForm) (lt : Word → Word → Bool) (s : State) : Out State :=
  perLane s (modUse f.m ++ [Use.w f.a.toNat (winA f.m), Use.w f.b.toNat (winB f.m)]) f.g fun g _ x =>
    let a := regA g f.m x f.a
    let b := regB g f.m x f.b
    x.setPred f.p (condOf f.c (a == b) (lt a b))

def execIcmp (f : CmpForm) (s : State) : Out State := compare f (fun a b => a.toInt < b.toInt) s
def execIcmpZ32 (f : CmpForm) (s : State) : Out State := compare f (fun a b => a.toNat < b.toNat) s

/-- SEL: every active thread writes; the guard selects (R86). -/
def execSel (f : AForm) (s : State) : Out State :=
  perLane s (usesA f) Guard.always fun g _ x =>
    x.setReg f.d.toNat (if guardTrue f.g x then regA g f.m x f.a else regB g f.m x f.b)

def execSelB64 (f : AForm) (s : State) : Out State :=
  perLane s (usesP f) Guard.always fun g _ x =>
    x.setPair f.d.toNat (if guardTrue f.g x then pairA g f.m x f.a else pairB g f.m x f.b)

/-! ## Addresses (R84) -/

/-- LEA: the pair a plus an extension of b. -/
def leaWith (f : AForm) (ext : Word → DWord) (s : State) : Out State :=
  perLane s (modUse f.m ++ [Use.dp f.d.toNat, Use.wp f.a.toNat (winA f.m), Use.w f.b.toNat (winB f.m)]) f.g
    fun g _ x => x.setPair f.d.toNat (pairA g f.m x f.a + ext (regB g f.m x f.b))

def execLea (f : AForm) (s : State) : Out State := leaWith f (fun b => b.signExtend 64) s
def execLeaZ32 (f : AForm) (s : State) : Out State := leaWith f (fun b => b.setWidth 64) s

/-! ## Logic, shifts, fields (R87 to R89) -/

def execAnd (f : AForm) (s : State) : Out State := alu f (fun a b => a &&& b) s
def execAndn (f : AForm) (s : State) : Out State := alu f (fun a b => a &&& ~~~b) s
def execOr (f : AForm) (s : State) : Out State := alu f (fun a b => a ||| b) s
def execXor (f : AForm) (s : State) : Out State := alu f (fun a b => a ^^^ b) s
def execShl (f : AForm) (s : State) : Out State := alu f (fun a b => shlOp a b) s
def execShr (f : AForm) (s : State) : Out State := alu f (fun a b => shrOp a b) s
def execSar (f : AForm) (s : State) : Out State := alu f (fun a b => sarOp a b) s
def execRot (f : AForm) (s : State) : Out State := alu f (fun a b => rotOp a b) s
def execBfx (f : AForm) (s : State) : Out State := alu f (fun a b => bfxOp false a b) s
def execBfxI32 (f : AForm) (s : State) : Out State := alu f (fun a b => bfxOp true a b) s
def execBfi (f : AForm) (s : State) : Out State := aluAcc f bfiOp s

/-! ## Moves, unary integer instructions, counts (R83, R90) -/

def execMovi (f : MoviForm) (s : State) : Out State :=
  perLane s (modUse f.m ++ [Use.d f.d.toNat]) f.g fun _ _ x => x.setReg f.d.toNat (f.imm.signExtend 32)

def execMov (f : DAForm) (s : State) : Out State := unary f id s

def execMovB64 (f : DAForm) (s : State) : Out State :=
  perLane s (modUse f.m ++ [Use.dp f.d.toNat, Use.wp f.a.toNat (winA f.m)]) f.g fun g _ x =>
    x.setPair f.d.toNat (pairA g f.m x f.a)

def execNot (f : DAForm) (s : State) : Out State := unary f (fun a => ~~~a) s
def execIneg (f : DAForm) (s : State) : Out State := unary f (fun a => -a) s
def execIabs (f : DAForm) (s : State) : Out State := unary f (fun a => if a.getLsbD 31 then -a else a) s
def execPopc (f : DAForm) (s : State) : Out State := unary f (fun a => BitVec.ofNat 32 (popCount a)) s
def execClz (f : DAForm) (s : State) : Out State := unary f clzOp s
def execCtz (f : DAForm) (s : State) : Out State := unary f ctzOp s
def execBrev (f : DAForm) (s : State) : Out State := unary f BitVec.reverse s

/-- LIK into a vector register (R83). Major 0x3F is not among those that issue while the operand log holds an entry (R388). -/
def execLikV (f : LikForm) (s : State) : Out State :=
  perLaneIf false s [Use.d f.d.toNat] f.g fun _ _ x => x.setReg f.d.toNat f.k

/-- LIK into a uniform register: written once when a lane executes (R79); a ligature fault in helper code (R80). -/
def execLikU (f : LikForm) (s : State) : Out State :=
  gate s [Use.u f.d.toNat] false false fun g =>
    let s' := if (executing s g f.g).isEmpty then s
      else s.updGroup g.gid fun g => g.setUreg f.d.toNat (f.k.signExtend 64)
    .next s'.advance

end Sys2Proof.Machine
end

