-- ==== Sys2Proof/Machine/Dispatch.lean ====
section
/-!
DEFINITION. The dispatcher: one arm per constructor of Instr, each one direct call of its meaning.
-/

namespace Sys2Proof.Machine

/-- The meaning of an instruction or event in a state. -/
def exec (i : Instr) (s : State) : Host.Outcome State Fault Refusal :=
  match i with
  | .movShort f => Sys2Proof.Machine.execMovShort f s
  | .iaddShort f => Sys2Proof.Machine.execIaddShort f s
  | .isubShort f => Sys2Proof.Machine.execIsubShort f s
  | .imulShort f => Sys2Proof.Machine.execImulShort f s
  | .andShort f => Sys2Proof.Machine.execAndShort f s
  | .orShort f => Sys2Proof.Machine.execOrShort f s
  | .xorShort f => Sys2Proof.Machine.execXorShort f s
  | .shlShort f => Sys2Proof.Machine.execShlShort f s
  | .shrShort f => Sys2Proof.Machine.execShrShort f s
  | .sarShort f => Sys2Proof.Machine.execSarShort f s
  | .iminShort f => Sys2Proof.Machine.execIminShort f s
  | .imaxShort f => Sys2Proof.Machine.execImaxShort f s
  | .faddShort f => Sys2Proof.Machine.execFaddShort f s
  | .fsubShort f => Sys2Proof.Machine.execFsubShort f s
  | .fmulShort f => Sys2Proof.Machine.execFmulShort f s
  | .fmaxShort f => Sys2Proof.Machine.execFmaxShort f s
  | .iadd f => Sys2Proof.Machine.execIadd f s
  | .iaddI64 f => Sys2Proof.Machine.execIaddI64 f s
  | .isub f => Sys2Proof.Machine.execIsub f s
  | .isubI64 f => Sys2Proof.Machine.execIsubI64 f s
  | .imul f => Sys2Proof.Machine.execImul f s
  | .imulI64 f => Sys2Proof.Machine.execImulI64 f s
  | .imulh f => Sys2Proof.Machine.execImulh f s
  | .imulhZ32 f => Sys2Proof.Machine.execImulhZ32 f s
  | .imad f => Sys2Proof.Machine.execImad f s
  | .imadZ64 f => Sys2Proof.Machine.execImadZ64 f s
  | .imin f => Sys2Proof.Machine.execImin f s
  | .iminZ32 f => Sys2Proof.Machine.execIminZ32 f s
  | .imax f => Sys2Proof.Machine.execImax f s
  | .imaxZ32 f => Sys2Proof.Machine.execImaxZ32 f s
  | .icmp f => Sys2Proof.Machine.execIcmp f s
  | .icmpZ32 f => Sys2Proof.Machine.execIcmpZ32 f s
  | .sel f => Sys2Proof.Machine.execSel f s
  | .selB64 f => Sys2Proof.Machine.execSelB64 f s
  | .lea f => Sys2Proof.Machine.execLea f s
  | .leaZ32 f => Sys2Proof.Machine.execLeaZ32 f s
  | .and f => Sys2Proof.Machine.execAnd f s
  | .andn f => Sys2Proof.Machine.execAndn f s
  | .or f => Sys2Proof.Machine.execOr f s
  | .xor f => Sys2Proof.Machine.execXor f s
  | .shl f => Sys2Proof.Machine.execShl f s
  | .shr f => Sys2Proof.Machine.execShr f s
  | .sar f => Sys2Proof.Machine.execSar f s
  | .rot f => Sys2Proof.Machine.execRot f s
  | .bfx f => Sys2Proof.Machine.execBfx f s
  | .bfxI32 f => Sys2Proof.Machine.execBfxI32 f s
  | .bfi f => Sys2Proof.Machine.execBfi f s
  | .fadd f => Sys2Proof.Machine.execFadd f s
  | .fsub f => Sys2Proof.Machine.execFsub f s
  | .fmul f => Sys2Proof.Machine.execFmul f s
  | .ffma f => Sys2Proof.Machine.execFfma f s
  | .fmin f => Sys2Proof.Machine.execFmin f s
  | .fmax f => Sys2Proof.Machine.execFmax f s
  | .fcmp f => Sys2Proof.Machine.execFcmp f s
  | .hadd2 f => Sys2Proof.Machine.execHadd2 f s
  | .hmul2 f => Sys2Proof.Machine.execHmul2 f s
  | .hfma2 f => Sys2Proof.Machine.execHfma2 f s
  | .movi f => Sys2Proof.Machine.execMovi f s
  | .iaddImm f => Sys2Proof.Machine.execIaddImm f s
  | .uadd f => Sys2Proof.Machine.execUadd f s
  | .usub f => Sys2Proof.Machine.execUsub f s
  | .umul f => Sys2Proof.Machine.execUmul f s
  | .uand f => Sys2Proof.Machine.execUand f s
  | .uor f => Sys2Proof.Machine.execUor f s
  | .ushl f => Sys2Proof.Machine.execUshl f s
  | .umov f => Sys2Proof.Machine.execUmov f s
  | .ucmp f => Sys2Proof.Machine.execUcmp f s
  | .cvt f => Sys2Proof.Machine.execCvt f s
  | .cvtpk f => Sys2Proof.Machine.execCvtpk f s
  | .cvtunpk f => Sys2Proof.Machine.execCvtunpk f s
  | .mov f => Sys2Proof.Machine.execMov f s
  | .movB64 f => Sys2Proof.Machine.execMovB64 f s
  | .not f => Sys2Proof.Machine.execNot f s
  | .ineg f => Sys2Proof.Machine.execIneg f s
  | .iabs f => Sys2Proof.Machine.execIabs f s
  | .popc f => Sys2Proof.Machine.execPopc f s
  | .clz f => Sys2Proof.Machine.execClz f s
  | .ctz f => Sys2Proof.Machine.execCtz f s
  | .brev f => Sys2Proof.Machine.execBrev f s
  | .frcp f => Sys2Proof.Machine.execFrcp f s
  | .frsq f => Sys2Proof.Machine.execFrsq f s
  | .fsqrt f => Sys2Proof.Machine.execFsqrt f s
  | .fexp2 f => Sys2Proof.Machine.execFexp2 f s
  | .flog2 f => Sys2Proof.Machine.execFlog2 f s
  | .shflXor f => Sys2Proof.Machine.execShflXor f s
  | .shfl f => Sys2Proof.Machine.execShfl f s
  | .shflIdx f => Sys2Proof.Machine.execShflIdx f s
  | .qswz f => Sys2Proof.Machine.execQswz f s
  | .qbcst f => Sys2Proof.Machine.execQbcst f s
  | .voteAll f => Sys2Proof.Machine.execVoteAll f s
  | .voteAny f => Sys2Proof.Machine.execVoteAny f s
  | .voteUni f => Sys2Proof.Machine.execVoteUni f s
  | .ballot f => Sys2Proof.Machine.execBallot f s
  | .lreduceAddI32 f => Sys2Proof.Machine.execLreduceAddI32 f s
  | .lreduceAddF32 f => Sys2Proof.Machine.execLreduceAddF32 f s
  | .lreduceMinI32 f => Sys2Proof.Machine.execLreduceMinI32 f s
  | .lreduceMaxI32 f => Sys2Proof.Machine.execLreduceMaxI32 f s
  | .lreduceMinF32 f => Sys2Proof.Machine.execLreduceMinF32 f s
  | .lreduceMaxF32 f => Sys2Proof.Machine.execLreduceMaxF32 f s
  | .lreduceOrB32 f => Sys2Proof.Machine.execLreduceOrB32 f s
  | .lreduceAndB32 f => Sys2Proof.Machine.execLreduceAndB32 f s
  | .prefixAddI32 f => Sys2Proof.Machine.execPrefixAddI32 f s
  | .prefixAddI32Ex f => Sys2Proof.Machine.execPrefixAddI32Ex f s
  | .prefixAddF32 f => Sys2Proof.Machine.execPrefixAddF32 f s
  | .prefixAddF32Ex f => Sys2Proof.Machine.execPrefixAddF32Ex f s
  | .umovv f => Sys2Proof.Machine.execUmovv f s
  | .ubcst f => Sys2Proof.Machine.execUbcst f s
  | .bmand f => Sys2Proof.Machine.execBmand f s
  | .popcp f => Sys2Proof.Machine.execPopcp f s
  | .isect f => Sys2Proof.Machine.execIsect f s
  | .pand f => Sys2Proof.Machine.execPand f s
  | .por f => Sys2Proof.Machine.execPor f s
  | .pxor f => Sys2Proof.Machine.execPxor f s
  | .ld f => Sys2Proof.Machine.execLd f s
  | .ldDisp f => Sys2Proof.Machine.execLdDisp f s
  | .ldSext f => Sys2Proof.Machine.execLdSext f s
  | .st f => Sys2Proof.Machine.execSt f s
  | .stDisp f => Sys2Proof.Machine.execStDisp f s
  | .atom f => Sys2Proof.Machine.execAtom f s
  | .atomCas f => Sys2Proof.Machine.execAtomCas f s
  | .red f => Sys2Proof.Machine.execRed f s
  | .fence f => Sys2Proof.Machine.execFence f s
  | .fenceSc f => Sys2Proof.Machine.execFenceSc f s
  | .fencex f => Sys2Proof.Machine.execFencex f s
  | .pref f => Sys2Proof.Machine.execPref f s
  | .cwb f => Sys2Proof.Machine.execCwb f s
  | .cinv f => Sys2Proof.Machine.execCinv f s
  | .casemode f => Sys2Proof.Machine.execCasemode f s
  | .fpush f => Sys2Proof.Machine.execFpush f s
  | .fpop f => Sys2Proof.Machine.execFpop f s
  | .bra f => Sys2Proof.Machine.execBra f s
  | .bru f => Sys2Proof.Machine.execBru f s
  | .brd f => Sys2Proof.Machine.execBrd f s
  | .brx f => Sys2Proof.Machine.execBrx f s
  | .callx f => Sys2Proof.Machine.execCallx f s
  | .ret f => Sys2Proof.Machine.execRet f s
  | .call f => Sys2Proof.Machine.execCall f s
  | .split f => Sys2Proof.Machine.execSplit f s
  | .nop f => Sys2Proof.Machine.execNop f s
  | .join f => Sys2Proof.Machine.execJoin f s
  | .wait f => Sys2Proof.Machine.execWait f s
  | .exit f => Sys2Proof.Machine.execExit f s
  | .yield f => Sys2Proof.Machine.execYield f s
  | .region f => Sys2Proof.Machine.execRegion f s
  | .bkpt f => Sys2Proof.Machine.execBkpt f s
  | .trap f => Sys2Proof.Machine.execTrap f s
  | .eret f => Sys2Proof.Machine.execEret f s
  | .mload f => Sys2Proof.Machine.execMload f s
  | .mloads f => Sys2Proof.Machine.execMloads f s
  | .mstream f => Sys2Proof.Machine.execMstream f s
  | .mstreams f => Sys2Proof.Machine.execMstreams f s
  | .mdrain f => Sys2Proof.Machine.execMdrain f s
  | .mctxAcq f => Sys2Proof.Machine.execMctxAcq f s
  | .mctxRel f => Sys2Proof.Machine.execMctxRel f s
  | .mswap f => Sys2Proof.Machine.execMswap f s
  | .mzero f => Sys2Proof.Machine.execMzero f s
  | .mmova f => Sys2Proof.Machine.execMmova f s
  | .mmovv f => Sys2Proof.Machine.execMmovv f s
  | .mwait f => Sys2Proof.Machine.execMwait f s
  | .mstat f => Sys2Proof.Machine.execMstat f s
  | .mstepGet f => Sys2Proof.Machine.execMstepGet f s
  | .mstepSet f => Sys2Proof.Machine.execMstepSet f s
  | .impstat f => Sys2Proof.Machine.execImpstat f s
  | .fetch f => Sys2Proof.Machine.execFetch f s
  | .fetchc f => Sys2Proof.Machine.execFetchc f s
  | .hbind f => Sys2Proof.Machine.execHbind f s
  | .impose f => Sys2Proof.Machine.execImpose f s
  | .bara f => Sys2Proof.Machine.execBara f s
  | .barw f => Sys2Proof.Machine.execBarw f s
  | .bars f => Sys2Proof.Machine.execBars f s
  | .barc f => Sys2Proof.Machine.execBarc f s
  | .tbeginVal f => Sys2Proof.Machine.execTbeginVal f s
  | .tbeginTs f => Sys2Proof.Machine.execTbeginTs f s
  | .tend f => Sys2Proof.Machine.execTend f s
  | .tabort f => Sys2Proof.Machine.execTabort f s
  | .tstat f => Sys2Proof.Machine.execTstat f s
  | .spbegin f => Sys2Proof.Machine.execSpbegin f s
  | .spend f => Sys2Proof.Machine.execSpend f s
  | .ldv f => Sys2Proof.Machine.execLdv f s
  | .stv f => Sys2Proof.Machine.execStv f s
  | .sealv f => Sys2Proof.Machine.execSealv f s
  | .floorv f => Sys2Proof.Machine.execFloorv f s
  | .vprobe f => Sys2Proof.Machine.execVprobe f s
  | .liga f => Sys2Proof.Machine.execLiga f s
  | .lignxt f => Sys2Proof.Machine.execLignxt f s
  | .ligx f => Sys2Proof.Machine.execLigx f s
  | .sread f => Sys2Proof.Machine.execSread f s
  | .sysr f => Sys2Proof.Machine.execSysr f s
  | .sysw f => Sys2Proof.Machine.execSysw f s
  | .syswCodebase f => Sys2Proof.Machine.execSyswCodebase f s
  | .syswHeapWindow f => Sys2Proof.Machine.execSyswHeapWindow f s
  | .syswPred f => Sys2Proof.Machine.execSyswPred f s
  | .syswGsave f => Sys2Proof.Machine.execSyswGsave f s
  | .syswGload f => Sys2Proof.Machine.execSyswGload f s
  | .syswBsave f => Sys2Proof.Machine.execSyswBsave f s
  | .syswBload f => Sys2Proof.Machine.execSyswBload f s
  | .syswEsave f => Sys2Proof.Machine.execSyswEsave f s
  | .syswEload f => Sys2Proof.Machine.execSyswEload f s
  | .syswMigrel f => Sys2Proof.Machine.execSyswMigrel f s
  | .likV f => Sys2Proof.Machine.execLikV f s
  | .likU f => Sys2Proof.Machine.execLikU f s
  | .yieldEnd g => Sys2Proof.Machine.execYieldEnd g s
  | .loadComplete g k => Sys2Proof.Machine.execLoadComplete g k s
  | .storeWritePoint g => Sys2Proof.Machine.execStoreWritePoint g s
  | .redPerform g => Sys2Proof.Machine.execRedPerform g s
  | .pageWalk g => Sys2Proof.Machine.execPageWalk g s
  | .ldvWaitEnd g k => Sys2Proof.Machine.execLdvWaitEnd g k s
  | .fetchComplete g k => Sys2Proof.Machine.execFetchComplete g k s
  | .fetchcBytesArrive core k => Sys2Proof.Machine.execFetchcBytesArrive core k s
  | .imposerBytesArrive core k n => Sys2Proof.Machine.execImposerBytesArrive core k n s
  | .casemodeComplete clu bank => Sys2Proof.Machine.execCasemodeComplete clu bank s
  | .streamStart core x => Sys2Proof.Machine.execStreamStart core x s
  | .swapTakeEffect core => Sys2Proof.Machine.execSwapTakeEffect core s
  | .matrixStep core => Sys2Proof.Machine.execMatrixStep core s
  | .mloadComplete core => Sys2Proof.Machine.execMloadComplete core s
  | .mloadsCountPhase core => Sys2Proof.Machine.execMloadsCountPhase core s
  | .mloadsComplete core => Sys2Proof.Machine.execMloadsComplete core s
  | .drainRow core x => Sys2Proof.Machine.execDrainRow core x s
  | .commitTokenGrant batch => Sys2Proof.Machine.execCommitTokenGrant batch s
  | .quoinTake batch => Sys2Proof.Machine.execQuoinTake batch s
  | .spendTokenReached g l => Sys2Proof.Machine.execSpendTokenReached g l s
  | .backoffExpire g l => Sys2Proof.Machine.execBackoffExpire g l s
  | .ligaFramesAvailable g => Sys2Proof.Machine.execLigaFramesAvailable g s
  | .ligatureLifetimeLimit g => Sys2Proof.Machine.execLigatureLifetimeLimit g s
  | .stallTimeLimit g => Sys2Proof.Machine.execStallTimeLimit g s
  | .handlerEntry g => Sys2Proof.Machine.execHandlerEntry g s
  | .groupEnd g => Sys2Proof.Machine.execGroupEnd g s
  | .blockEnd b => Sys2Proof.Machine.execBlockEnd b s
  | .traceSample core ctx => Sys2Proof.Machine.execTraceSample core ctx s
  | .recordFetch q => Sys2Proof.Machine.execRecordFetch q s
  | .batchReceive die => Sys2Proof.Machine.execBatchReceive die s
  | .dieReport die => Sys2Proof.Machine.execDieReport die s
  | .gangDispatch l => Sys2Proof.Machine.execGangDispatch l s
  | .preemptDecide b => Sys2Proof.Machine.execPreemptDecide b s
  | .saveHandlerEntry b => Sys2Proof.Machine.execSaveHandlerEntry b s
  | .blockRestore b => Sys2Proof.Machine.execBlockRestore b s
  | .launchRetire l => Sys2Proof.Machine.execLaunchRetire l s
  | .gridEnd l site => Sys2Proof.Machine.execGridEnd l site s
  | .migrationLineCopy k => Sys2Proof.Machine.execMigrationLineCopy k s
  | .illegalEncoding => Sys2Proof.Machine.execIllegalEncoding s
  | .tileCommandComplete core x => Sys2Proof.Machine.execTileCommandComplete core x s
  | .storePerformedAtScope k scope => Sys2Proof.Machine.execStorePerformedAtScope k scope s
  | .qdoor q w => Sys2Proof.Machine.execQdoor q w s
  | .qctlEn q v => Sys2Proof.Machine.execQctlEn q v s
  | .qctlHold q on => Sys2Proof.Machine.execQctlHold q on s
  | .qctlEvict q => Sys2Proof.Machine.execQctlEvict q s
  | .qctlAbort q => Sys2Proof.Machine.execQctlAbort q s
  | .qctlClearOverrun q => Sys2Proof.Machine.execQctlClearOverrun q s
  | .resync addr => Sys2Proof.Machine.execResync addr s
  | .creplay ctx => Sys2Proof.Machine.execCreplay ctx s
  | .poolrngFencedClear k => Sys2Proof.Machine.execPoolrngFencedClear k s
  | .mgmtRegisterWrite off v => Sys2Proof.Machine.execMgmtRegisterWrite off v s
  | .dispatchBatch => Sys2Proof.Machine.execDispatchBatch s
  | .hostRead pa keep => Sys2Proof.Machine.execHostRead pa keep s
  | .hostWrite pa bytes => Sys2Proof.Machine.execHostWrite pa bytes s
  | .birsp line data => Sys2Proof.Machine.execBirsp line data s
  | .snpData line => Sys2Proof.Machine.execSnpData line s
  | .snpInv line => Sys2Proof.Machine.execSnpInv line s
  | .snpCur line => Sys2Proof.Machine.execSnpCur line s
  | .bisnpData line => Sys2Proof.Machine.execBisnpData line s
  | .bisnpInv line => Sys2Proof.Machine.execBisnpInv line s
  | .bisnpCur line => Sys2Proof.Machine.execBisnpCur line s
  | .peerRequest dev r => Sys2Proof.Machine.execPeerRequest dev r s
  | .peerRequestTimeout l site => Sys2Proof.Machine.execPeerRequestTimeout l site s
  | .peerPortDown port hit => Sys2Proof.Machine.execPeerPortDown port hit s
  | .poolRequestTimeout k l site => Sys2Proof.Machine.execPoolRequestTimeout k l site s
  | .poolPoison k => Sys2Proof.Machine.execPoolPoison k s
  | .poolPortDown port => Sys2Proof.Machine.execPoolPortDown port s
  | .coreFailure core => Sys2Proof.Machine.execCoreFailure core s
  | .reset => Sys2Proof.Machine.execReset s
  | .firmwareUpdate img => Sys2Proof.Machine.execFirmwareUpdate img s
  | .recoveryImageStaged img => Sys2Proof.Machine.execRecoveryImageStaged img s
  | .attestationRequest nonce => Sys2Proof.Machine.execAttestationRequest nonce s
  | .d3hotEntry => Sys2Proof.Machine.execD3hotEntry s
  | .returnToD0 => Sys2Proof.Machine.execReturnToD0 s
  | .throttle mhz => Sys2Proof.Machine.execThrottle mhz s
  | .dieOverTemperature => Sys2Proof.Machine.execDieOverTemperature s
  | .coolantFlowLost => Sys2Proof.Machine.execCoolantFlowLost s
  | .orderlyPowerOff => Sys2Proof.Machine.execOrderlyPowerOff s
  | .stampEviction frame => Sys2Proof.Machine.execStampEviction frame s
  | .deviceCacheEviction line => Sys2Proof.Machine.execDeviceCacheEviction line s
  | .mainPowerLoss => Sys2Proof.Machine.execMainPowerLoss s
  | .sectorPoisoned sector => Sys2Proof.Machine.execSectorPoisoned sector s
  | .peerRefusalReceived l site => Sys2Proof.Machine.execPeerRefusalReceived l site s

end Sys2Proof.Machine
end

