-- ==== Sys2Proof/Machine/Schedule.lean ====
section
/-!
DEFINITION. What happens next (log 2): an item of the agenda, else an event that is due, else the next ready issuer of
a port (R260, R261), else an idle A-clock. Events that come from outside the device happen from the agenda only.
-/

namespace Sys2Proof.Machine

/-! ## Events that may be due -/

/-- Events of one group. -/
def groupEvents (g : Group) : List Instr :=
  let n := g.gid
  (if g.fl.pend.isSome then [.handlerEntry n] else []) ++
  (if g.fl.walks.isEmpty then [] else [.pageWalk n]) ++
  (g.fl.loads.mapIdx fun k _ => .loadComplete n k) ++ (g.fl.fetches.mapIdx fun k _ => .fetchComplete n k) ++
  (g.fl.ldvs.mapIdx fun k _ => .ldvWaitEnd n k) ++
  (if g.hold.idleTo.isSome then [.yieldEnd n] else []) ++
  (if g.lig.isSome then [.ligatureLifetimeLimit n] else []) ++
  (g.lanesWhere fun x => x.st == .waiting .backoff).map (fun l => .backoffExpire n l) ++
  (g.lanesWhere fun x => x.st == .waiting .spend || x.st == .waiting .rerun).map (fun l => .spendTokenReached n l) ++
  (if (g.lanesWhere fun x => x.st == .waiting .liga).isEmpty then [] else [.ligaFramesAvailable n]) ++
  (if groupOver g then [.groupEnd n] else []) ++
  (if g.stallCnt ≥ 2 ^ 16 then [.stallTimeLimit n] else [])

/-- Events of one block. -/
def blockEvents (b : Block) : List Instr :=
  match b.phase with
  | .draining => [.blockEnd b.bid, .preemptDecide b.bid, .saveHandlerEntry b.bid]
  | .saved => []
  | _ => (if b.left.isEmpty then [.blockEnd b.bid] else []) ++ (if b.preempt then [.preemptDecide b.bid] else [])

/-- Events of one core's engines. -/
def engineEvents (core : Nat) (e : Engine) : List Instr :=
  (if e.queue.isEmpty then [] else
    [.streamStart core 0, .streamStart core 1, .swapTakeEffect core, .matrixStep core, .mloadComplete core,
     .mloadsCountPhase core, .mloadsComplete core, .drainRow core 0, .drainRow core 1, .tileCommandComplete core 0,
     .tileCommandComplete core 1]) ++
  (e.imps.mapIdx fun k _ => .imposerBytesArrive core k 65536) ++ (e.fetchcs.mapIdx fun k _ => .fetchcBytesArrive core k)

/-- The bank switches under way. -/
def switchEvents (clu : Nat) (c : Cluster) : List Instr :=
  c.banks.filterMap fun (k, b) => if b.switch.isSome then some (.casemodeComplete clu k) else none

/-- The oldest queued write of each group. -/
def queueEvents (s : State) : List Instr :=
  s.sq.flatMap fun e => [.storeWritePoint e.gid, .redPerform e.gid]

/-- The writes past their write point. -/
def performEvents (s : State) : List Instr :=
  s.wp.mapIdx fun k e => .storePerformedAtScope k (if e.scope.toNat = 4 then 4 else 3)

/-- Samples due in this A-clock. -/
def sampleEvents (s : State) : List Instr :=
  (s.groups.filter fun g => (s.ctx g.ctx).sample).map fun g => .traceSample g.core g.ctx

/-- A launch has blocks to dispatch. -/
def hasBlocks (l : Launch) : Bool := l.how.isNone && (l.next != l.lr.blocks || !l.again.isEmpty)

/-- Events of queues and dispatchers. -/
def dispatchEvents (s : State) : List Instr :=
  (numbers 64 fun q => (s.queue q).read < (s.queue q).last).map (fun q => .recordFetch (BitVec.ofNat 6 q)) ++
  s.launches.map (fun l => .launchRetire l.lid) ++
  s.disp.sends.map (fun d => .batchReceive (BitVec.ofNat 3 d.die)) ++
  (if s.launches.any hasBlocks then
    (List.range 8).map (fun d => .dieReport (BitVec.ofNat 3 d)) ++
    (s.launches.filter fun l => l.lr.coresident && !l.ganged).map (fun l => .gangDispatch l.lid) ++
    [.dispatchBatch] ++ (victim s).toList.map (fun b => .preemptDecide b)
   else [])

/-- Events that may be due, in the order they are tried. -/
def candidates (s : State) : List Instr :=
  s.async.map (fun w => .gridEnd w.lid w.site) ++
  s.groups.flatMap groupEvents ++ s.blocks.flatMap blockEvents ++
  s.batches.flatMap (fun b => [.quoinTake b.id, .commitTokenGrant b.id]) ++
  s.clusters.flatMap (fun (k, c) => switchEvents k c) ++ s.engines.flatMap (fun (c, e) => engineEvents c e) ++
  s.migr.mapIdx (fun k _ => .migrationLineCopy k) ++ queueEvents s ++ performEvents s ++ sampleEvents s ++ dispatchEvents s ++
  (s.blocks.filter fun b => b.phase == .saved).map fun b => .blockRestore b.bid

/-- An event happens in no instruction's issue; one that performs a waiting ATOM or RED leaves its issue behind (R345). -/
def execEvent (s : State) (i : Instr) : Out State := exec i { s with iss := Issue.none }

/-- The first event of a list that happens. -/
def firstDue (s : State) : List Instr → Option State
  | [] => none
  | i :: is =>
    match execEvent s i with
    | .next t => some t
    | _ => firstDue s is

/-! ## Ready issuers (R260, R261) -/

/-- The group idles after a YIELD: its own, or that of its handler (R129). -/
def idling (g : Group) : Bool := g.hold.idleTo.isSome && (g.priv == .user || g.hold.idlePriv)

/-- The group's own code may run: nothing has stopped or parked it, and its block is placed. -/
def mayRun (s : State) (g : Group) : Bool :=
  !g.hold.stopped && !g.hold.host && !g.hold.park && (match s.block? g.bid with
    | some b => b.phase != .gang
    | none => false)

/-- A group is ready: it has a live lane, and waits for nothing. A privileged group issues whatever its block waits for. An
ATOM or RED that waits for the Quoin is performed when it takes it (R345). The event of a step comes whatever the stepped
instruction waits for (R428). -/
def groupReady (s : State) (g : Group) : Bool :=
  g.hold.waitFor.isNone && g.fl.pend.isNone &&
  (if g.priv == .user && g.dbg.due then mayRun s g && !groupOver g
   else g.hold.bar.isNone && !idling g && (atomBatch s g.gid).isNone &&
    (if g.priv == .user then mayRun s g && (g.fl.replay || (groupSel g).isSome || txHalted g)
     else (groupSel g).isSome))

/-- A helper set is ready. -/
def helperReady (g : Group) : Bool :=
  g.hold.waitHelp.isNone && g.fl.pend.isNone && !g.hold.stopped && !g.hold.host && !g.hold.park &&
  (g.lig.bind helperSel).isSome

/-- The ready issuers, with core and port in one number and the place after the port's pointer. -/
def readyIssuers (s : State) : List (Who × Nat × Nat) :=
  s.groups.flatMap fun g =>
    let place (helper : Bool) : Nat :=
      (position g helper + 384 - vget 0 (s.coreRegs g.core).ptr (portOf g.slot) % 384) % 384
    let port := 4 * g.core + portOf g.slot
    (if groupReady s g then [({ gid := g.gid, helper := false }, port, place false)] else []) ++
    (if g.lig.isSome && helperReady g then [({ gid := g.gid, helper := true }, port, place true)] else [])

/-- The next issuer: ports take turns by the A-clock, and a port serves the first ready issuer at or after its pointer. -/
def nextIssuer (s : State) : Option Who :=
  let rs := readyIssuers s
  let ports := (rs.map fun r => r.2.1).eraseDups
  match ports[s.clock % max 1 ports.length]? with
  | none => none
  | some p =>
    let mine := rs.filter fun r => r.2.1 == p
    match leastBy id (mine.map fun r => r.2.2) with
    | none => none
    | some k => (mine.find? fun r => r.2.2 == k).map (·.1)

/-! ## One turn -/

/-- The stall reason of a wait of the group's own issue. -/
def waitedFor (s : State) (gid : Nat) : Option Nat := if s.iss.waited then (s.group? gid).bind fun g => g.hold.waitFor else none

/-- What the next instruction of a group that does not issue would wait for (R431): a group that could issue waits for nothing
but the port. -/
def whyNot (s : State) (g : Group) : Option Nat :=
  if groupReady s g then
    match prepare s { gid := g.gid, helper := false } with
    | .run t i _ => (match exec i t with
      | .next u => waitedFor u g.gid
      | _ => none)
    | .other t => waitedFor t g.gid
    | .notReady => none
  else g.hold.waitFor

/-- The device's own writes that wait are tried again (R343, R405). -/
def lateStep (s : State) : State := lateRun s s.late

/-- An event has happened: waits for a resource are tried again, and an issue it performed is counted. -/
def afterEvent (s t : State) : State :=
  let t := lateStep t
  if t.iss.active.isEmpty then clearWaits (spillNew s t) else afterIssue whyNot s t { gid := t.iss.gid, helper := t.iss.helper }

/-- An A-clock in which nothing issues. -/
def idle (s : State) : State := clearWaits (lateStep (clockStep s (whyNot s) none))

/-- An instruction that waits after it has presented its batch or begun to switch its bank: it has issued (R160, R345). -/
def begun (t u : State) : Bool := u.batches != t.batches || u.clusters != t.clusters

/-- The instruction an issuer has prepared: the event of a comparator that matches is raised in its place when it would issue,
before any effect of it, its batch or its bank's switch among them (R426). -/
def runPrepared (t : State) (i : Instr) (brk : Option Raise) : Out State :=
  match exec i t with
  | .next u => .next (match brk with
    | some r => if u.iss.waited && !begun t u then u else raiseNow t r
    | none => u)
  | o => o

/-- One issue of an issuer; `none` when it has nothing to issue. -/
def issueBy (s : State) (w : Who) : Option (Out State) :=
  match prepare s w with
  | .run t i brk =>
    match runPrepared t i brk with
    | .next u => some (.next (afterIssue whyNot s u w))
    | .fault f => some (.fault f)
    | .refused r => some (.refused r)
  | .other t => some (.next (afterIssue whyNot s t w))
  | .notReady => none

/-- A row of the opcode table that is an event of its own. -/
def isEvent (i : Instr) : Bool := check i == some .notAnInstruction && i != .illegalEncoding

/-- One item of the agenda; an item that cannot happen is dropped (log 2). -/
def runItem (s : State) : Item → Out State
  | .issue w => if deviceRuns s && (s.groups.any fun g => g.gid == w.gid && (if w.helper then helperReady g else groupReady s g)) then
      (issueBy s w).getD (.next s) else .next s
  | .event i => if isEvent i then
      (match execEvent s i with
       | .next t => .next (afterEvent s t)
       | _ => .next s)
     else .next s
  | .tick => .next (if deviceRuns s then idle s else flashDone s)

/-- What the device does by itself. -/
def schedule (s : State) : Out State :=
  if !deviceRuns s then .next (flashDone s)
  else
    match firstDue s (candidates s) with
    | some t => .next (afterEvent s t)
    | none =>
      match nextIssuer s with
      | some w => (issueBy s w).getD (.next (idle s))
      | none => .next (idle s)

end Sys2Proof.Machine
end

