-- ==== Sys2Proof/Machine/Step.lean ====
section
/-!
DEFINITION. One step of the machine, and where an instruction stands that the next step issues.
-/

namespace Sys2Proof.Machine

/-- One step: the first item of the agenda, or what the device does by itself (log 2). -/
def step (s : State) : Host.Outcome State Fault Refusal :=
  match s.agenda with
  | it :: rest => runItem { s with agenda := rest } it
  | [] => schedule s

/-- A state with an instruction stored where the next step issues it: for a program that a launch has placed (log 10). -/
def State.withFetchWord (s : State) (nbits w : Nat) : State :=
  placeWord s (w % 2 ^ nbits)

end Sys2Proof.Machine
end

