-- ==== Sys2Proof/Safety.lean ====
section
/-!
DEFINITION. The terms the statements use: states whose memories are in canonical form, runs that stay safe, the conditions
under which an instruction issues, and what it means that an instruction changes its threads and nothing else.
-/

namespace Sys2Proof.Machine

/-! ## Safe states -/

/-- Device, host, pool and peer memory, the Case banks and the tiles are in their canonical form, so that equal memories are
equal data, and the fields of every queue fit QCTL (R413). -/
def State.Canonical (s : State) : Prop :=
  Memory.wf s.mem = true ∧ Memory.wf s.caseMem = true ∧
  (∀ e ∈ s.engines, ∀ x t, cellsWf (vget [] (e.2.ctx x).tiles t) = true) ∧
  ∀ q, (s.queue q).z < 32 ∧ (s.queue q).cls < 4 ∧ (s.queue q).ctx < 64 ∧ ((s.queue q).en = true → 4 ≤ (s.queue q).z ∧ (s.queue q).z ≤ 16)

/-! ## Issuing -/

/-- How many threads an issuer has: the 32 lanes of a group (R18), or the helpers of its ligature (R201). -/
def threadCount (s : State) (g : Group) : Nat :=
  if s.iss.helper then (g.lig.map fun l => l.helpers.length).getD 0 else 32

/-- A group issues, and the active list names some of its threads, rising. Every issue the machine makes is one (statement
IssueChoice). -/
def Issuing (s : State) (g : Group) : Prop :=
  s.cur = some g ∧ s.iss.active ≠ [] ∧ s.iss.active.Pairwise (· < ·) ∧ ∀ k ∈ s.iss.active, k < threadCount s g

/-- What an instruction needs to issue: its register operands, whether it may issue while the operand log holds an entry
(R388), and whether helper code may hold it (R80, R135, R171, R176, R209). -/
structure Needs where
  uses : List Use
  free : Bool
  helperOk : Bool
deriving DecidableEq, Repr

/-- The operands of a destination alone, and of a comparison. -/
def needsD (m : Option Mod) (d : BitVec 6) : List Use := modUse m ++ [Use.d d.toNat]
def needsAB (m : Option Mod) (a b : BitVec 6) : List Use :=
  modUse m ++ [Use.w a.toNat (winA m), Use.w b.toNat (winB m)]

/-- The operands of a matrix instruction: uniform registers, and the registers of the scales (R68). -/
def needsU (i : Instr) (us : List Use) : Needs := { uses := us ++ scaleUse i, free := false, helperOk := false }

/-- What each instruction needs; an event needs no issue. -/
def needs (i : Instr) : Option Needs :=
  match i with
  | .movShort f => some ⟨if f.s = 0 ∧ f.d = 0 then [] else [Use.d f.d.toNat, Use.v f.s.toNat], true, true⟩
  | .iaddShort f | .isubShort f | .imulShort f | .andShort f | .orShort f | .xorShort f | .shlShort f | .shrShort f
  | .sarShort f | .iminShort f | .imaxShort f | .faddShort f | .fsubShort f | .fmulShort f | .fmaxShort f =>
    some ⟨usesA (longOf f), true, true⟩
  | .imad f | .bfi f | .ffma f | .hfma2 f => some ⟨usesAcc f, true, true⟩
  | .iadd f | .isub f | .imul f | .imulh f | .imulhZ32 f | .imin f | .iminZ32 f | .imax f | .imaxZ32 f | .sel f
  | .and f | .andn f | .or f | .xor f | .shl f | .shr f | .sar f | .rot f | .bfx f | .bfxI32 f | .fadd f
  | .fsub f | .fmul f | .fmin f | .fmax f | .hadd2 f | .hmul2 f => some ⟨usesA f, true, true⟩
  | .iaddI64 f | .isubI64 f | .imulI64 f | .selB64 f => some ⟨usesP f, true, true⟩
  | .imadZ64 f => some ⟨modUse f.m ++ [Use.vp f.d.toNat, Use.w f.a.toNat (winA f.m), Use.w f.b.toNat (winB f.m)], true, true⟩
  | .lea f | .leaZ32 f =>
    some ⟨modUse f.m ++ [Use.dp f.d.toNat, Use.wp f.a.toNat (winA f.m), Use.w f.b.toNat (winB f.m)], true, true⟩
  | .icmp f | .icmpZ32 f | .fcmp f => some ⟨needsAB f.m f.a f.b, true, true⟩
  | .movi f => some ⟨needsD f.m f.d, true, true⟩
  | .iaddImm f => some ⟨modUse f.m ++ [Use.d f.d.toNat, Use.w f.a.toNat (winA f.m)], true, true⟩
  | .uadd f | .usub f | .umul f | .uand f | .uor f | .ushl f =>
    some ⟨modUse f.m ++ [Use.u f.d.toNat, Use.u f.a.toNat, Use.u f.b.toNat], true, false⟩
  | .umov f => some ⟨modUse f.m ++ [Use.u f.d.toNat, Use.u f.a.toNat], true, false⟩
  | .ucmp f => some ⟨modUse f.m ++ [Use.u f.a.toNat, Use.u f.b.toNat], true, false⟩
  | .cvt f => some ⟨modUse f.m ++ [cvtDst f.d.toNat (fmtWidth (cvtFmts f).1),
      cvtUse f.a.toNat (fmtWidth (cvtFmts f).2) (winA f.m)], true, true⟩
  | .cvtpk f => some ⟨modUse f.m ++ [Use.v f.d.toNat, cvtUse f.a.toNat (fmtWidth (cvtFmts f).2) (winA f.m)], true, true⟩
  | .cvtunpk f => some ⟨modUse f.m ++ [cvtDst f.d.toNat (fmtWidth (cvtFmts f).1), Use.w f.a.toNat (winA f.m)], true, true⟩
  | .mov f | .not f | .ineg f | .iabs f | .popc f | .clz f | .ctz f | .brev f | .frcp f | .frsq f | .fsqrt f | .fexp2 f
  | .flog2 f => some ⟨usesDA f, true, true⟩
  | .movB64 f | .bmand f => some ⟨modUse f.m ++ [Use.dp f.d.toNat, Use.wp f.a.toNat (winA f.m)], true, true⟩
  | .shflXor f | .shfl f => some ⟨modUse f.m ++ [Use.d f.d.toNat, Use.w f.a.toNat (winA f.m)], true, false⟩
  | .qswz f | .qbcst f => some ⟨modUse f.m ++ [Use.d f.d.toNat, Use.w f.a.toNat (winA f.m)], true, false⟩
  | .shflIdx f | .lreduceAddI32 f | .lreduceAddF32 f | .lreduceMinI32 f | .lreduceMaxI32 f | .lreduceMinF32 f
  | .lreduceMaxF32 f | .lreduceOrB32 f | .lreduceAndB32 f | .prefixAddI32 f | .prefixAddI32Ex f | .prefixAddF32 f
  | .prefixAddF32Ex f | .popcp f => some ⟨modUse f.m ++ [Use.d f.d.toNat, Use.w f.a.toNat (winA f.m)], true, false⟩
  | .voteAll f | .voteAny f | .voteUni f => some ⟨modUse f.m, true, false⟩
  | .ballot f => some ⟨needsD f.m f.d, true, false⟩
  | .umovv f => some ⟨modUse f.m ++ [Use.u f.d.toNat, Use.w f.a.toNat (winA f.m)], true, false⟩
  | .ubcst f => some ⟨modUse f.m ++ [Use.d f.d.toNat, Use.u f.a.toNat], true, false⟩
  | .isect f => some ⟨modUse f.m ++ [⟨true, f.a.toNat, 4, true, winA f.m, false⟩, ⟨true, f.a.toNat, 4, true, false, false⟩,
      ⟨true, f.d.toNat, 3, false, false, true⟩, ⟨true, if f.a.toNat % 4 = 0 then 0 else 1, 0, true, false, false⟩], true, true⟩
  | .pand f | .por f | .pxor f => some ⟨modUse f.m, true, true⟩
  | .ld f => some ⟨dataDst f.size f.d :: baseUses f.m f.b, false, true⟩
  | .st f => some ⟨dataUse f.size f.d :: baseUses f.m f.b, false, true⟩
  | .ldDisp f | .ldSext f => some ⟨dataDst f.size f.d :: baseUses f.m f.b, false, true⟩
  | .stDisp f => some ⟨dataUse f.size f.d :: baseUses f.m f.b, false, true⟩
  | .atom f => some ⟨dataDst f.size f.d :: dataUse f.size f.val :: baseUses f.m f.b, false, true⟩
  | .atomCas f =>
    some ⟨dataDst f.size f.d :: dataUse f.size f.val :: dataUse f.size f.cmp :: baseUses f.m f.b, false, true⟩
  | .red f => some ⟨dataUse f.size f.d :: baseUses f.m f.b, false, true⟩
  | .fence f | .fenceSc f => some ⟨modUse f.m, false, true⟩
  | .fencex f => some ⟨modUse f.m, false, true⟩
  | .pref f => some ⟨baseUses f.m f.b, false, true⟩
  | .cwb f => some ⟨baseUses f.m f.b, false, true⟩
  | .cinv f => some ⟨baseUses f.m f.b, false, true⟩
  | .casemode f => some ⟨Use.v f.d.toNat :: baseUses f.m f.b, false, false⟩
  | .fpush f => some ⟨Use.v f.d.toNat :: baseUses f.m f.b, false, true⟩
  | .fpop f => some ⟨Use.d f.d.toNat :: baseUses f.m f.b, false, true⟩
  | .bra _ | .bru _ => some ⟨[], true, true⟩
  | .brd f => some ⟨[Use.u f.r.toNat], true, false⟩
  | .brx f | .ret f => some ⟨[Use.v f.a.toNat], true, true⟩
  | .callx f => some ⟨[Use.d f.d.toNat, Use.v f.a.toNat], true, true⟩
  | .call f => some ⟨[Use.d f.r.toNat], true, true⟩
  | .split _ => some ⟨[], true, false⟩
  | .nop _ => some ⟨[], true, true⟩
  | .join _ | .wait _ => some ⟨[], true, false⟩
  | .exit _ => some ⟨[], false, true⟩
  | .yield _ | .region _ | .eret _ => some ⟨[], false, false⟩
  | .bkpt _ | .trap _ => some ⟨[], false, false⟩
  | .mload f => some (needsU (.mload f) [Use.u f.e1.toNat])
  | .mloads f => some (needsU (.mloads f) [Use.u f.e1.toNat, Use.u f.e2.toNat])
  | .mstream f => some (needsU (.mstream f) [Use.u f.e1.toNat, Use.u f.e2.toNat])
  | .mstreams f => some (needsU (.mstreams f) [Use.u f.e1.toNat, Use.u f.e2.toNat, Use.u f.e3.toNat])
  | .mdrain f => some (needsU (.mdrain f) [Use.u f.e1.toNat, Use.u f.e2.toNat, ⟨false, f.e3.toNat, 3, false, false, false⟩])
  | .mctxAcq _ | .mctxRel _ | .mwait _ => some ⟨[], false, false⟩
  | .mswap f => some (needsU (.mswap f) [])
  | .mzero f => some (needsU (.mzero f) [])
  | .mmova f => some (needsU (.mmova f) [Use.v f.d.toNat, Use.v f.a.toNat])
  | .mmovv f => some ⟨[Use.d f.d.toNat, Use.v f.a.toNat], false, false⟩
  | .mstat f | .mstepGet f | .impstat f => some ⟨[Use.u f.d.toNat], false, false⟩
  | .mstepSet f | .impose f => some ⟨[Use.u f.a.toNat], false, false⟩
  | .fetch f => some ⟨fetchUses f, false, false⟩
  | .fetchc f => some ⟨fetchcUses f, false, false⟩
  | .hbind f => some ⟨[Use.u f.e1.toNat, Use.u f.e2.toNat, Use.u f.e3.toNat], false, false⟩
  | .bara _ => some ⟨[], false, false⟩
  | .barw _ => some ⟨[], false, false⟩
  | .bars _ => some ⟨[], false, false⟩
  | .barc f => some ⟨[Use.u f.s.toNat], false, false⟩
  | .tbeginVal _ | .tbeginTs _ => some ⟨[], false, false⟩
  | .tend _ | .spend _ => some ⟨[], false, false⟩
  | .tabort f => some ⟨[Use.v f.a.toNat], false, false⟩
  | .tstat f => some ⟨[Use.d f.d.toNat], false, false⟩
  | .spbegin f => some ⟨[Use.v f.n.toNat, Use.vp f.b.toNat], false, false⟩
  | .ldv f => some ⟨ldvUses f, false, true⟩
  | .stv f => some ⟨impUses f, false, true⟩
  | .sealv f | .floorv f => some ⟨sealUses f, false, false⟩
  | .vprobe f => some ⟨[Use.dp f.d.toNat, Use.vp f.b.toNat, Use.u f.n.toNat], false, true⟩
  | .liga f => some ⟨[Use.u f.d.toNat, Use.vp f.a.toNat], false, false⟩
  | .lignxt f => some ⟨[Use.d f.d.toNat], false, true⟩
  | .ligx f => some ⟨[Use.v f.d.toNat, Use.v f.a.toNat], false, true⟩
  | .sread f => some ⟨[if f.s = 0xB then Use.dp f.d.toNat else Use.d f.d.toNat], false, true⟩
  | .sysr f => some ⟨[{ sysUse f.s.toNat f.d.toNat with out := true }], false, false⟩
  | .sysw f => some ⟨[sysUse f.s.toNat f.a.toNat], false, false⟩
  | .syswCodebase f => some ⟨[sysUse 0x100 f.a.toNat], false, false⟩
  | .syswHeapWindow f => some ⟨[sysUse (0x101 + f.which.toNat) f.a.toNat], false, false⟩
  | .syswPred f => some ⟨[sysUse 0x185 f.a.toNat], false, false⟩
  | .syswGsave f => some ⟨[sysUse 0x186 f.a.toNat], false, false⟩
  | .syswGload f => some ⟨[sysUse 0x187 f.a.toNat], false, false⟩
  | .syswBsave f => some ⟨[sysUse 0x188 f.a.toNat], false, false⟩
  | .syswBload f => some ⟨[sysUse 0x189 f.a.toNat], false, false⟩
  | .syswEsave f => some ⟨[sysUse 0x18A f.a.toNat], false, false⟩
  | .syswEload f => some ⟨[sysUse 0x18B f.a.toNat], false, false⟩
  | .syswMigrel f => some ⟨[sysUse 0x190 f.a.toNat], false, false⟩
  | .likV f => some ⟨[Use.d f.d.toNat], false, true⟩
  | .likU f => some ⟨[Use.u f.d.toNat], false, false⟩
  | _ => none

/-- The guard of an instruction that acts once for the group (R32). BRU's guard is its condition (R115). -/
def groupGuardOf (i : Instr) : Option Guard :=
  match i with
  | .uadd f | .usub f | .umul f | .uand f | .uor f | .ushl f => some f.g
  | .umov f => some f.g
  | .ucmp f => some f.g
  | .brd f => some f.g
  | .split f => some f.g
  | .join f | .wait f | .exit f | .nop f | .yield f | .region f | .eret f => some f.g
  | .bkpt f | .trap f => some f.g
  | .bara f => some f.g
  | .barw f => some f.g
  | .bars f => some f.g
  | .barc f => some f.g
  | .mload f => some f.g
  | .mloads f => some f.g
  | .mstream f => some f.g
  | .mstreams f => some f.g
  | .mdrain f => some f.g
  | .mswap f | .mctxAcq f | .mctxRel f | .mwait f => some f.g
  | .mzero f => some f.g
  | .mmova f | .mmovv f => some f.g
  | .mstat f | .mstepGet f | .impstat f => some f.g
  | .mstepSet f | .impose f => some f.g
  | .hbind f => some f.g
  | _ => none

/-- An instruction with these needs issues without a fault of its register fields and without waiting (R24, R34, R35, R80,
R386, R388): its operands are legal and the scoreboard holds none of them, no FETCH that failed is named, helper code may hold
it, the operand log does not stop it, and every memory instruction its issuer issued before is translated. -/
def ClearOf (s : State) (g : Group) (n : Needs) : Prop :=
  Issuing s g ∧ (∀ u ∈ n.uses, u.legal s.iss.helper g.nregs = true) ∧ (s.iss.helper = true → n.helperOk = true) ∧
  (g.priv = .user → s.iss.helper = false →
    (n.free = true ∨ g.fl.opLog = []) ∧ ∀ u ∈ n.uses, loggedUse g u = false) ∧
  failedUse g s.iss.helper n.uses = none ∧ (∀ u ∈ n.uses, heldUse s g s.iss.helper u = false) ∧ walking s g = false

/-- The instruction issues. -/
def Clear (s : State) (g : Group) (i : Instr) : Prop := ∃ n, needs i = some n ∧ ClearOf s g n

/-! ## What an instruction changes -/

/-- A ligature, a group, and a state without the threads of the issuer: everything else they hold. -/
def Lig.bare (l : Lig) : Lig := { l with helpers := l.helpers.map fun h => { h with lane := Lane.reset 0 } }

def Group.bare (g : Group) (helper : Bool) : Group :=
  if helper then { g with lig := g.lig.map Lig.bare } else { g with lanes := Vector.replicate 32 (Lane.reset 0) }

def State.bare (s : State) : State :=
  { s with groups := s.groups.map fun g => if g.gid == s.iss.gid then g.bare s.iss.helper else g }

/-- From `s` to `t` the threads of the issuer change by `f` and nothing else in the machine changes: not the group's other
registers, no other group, no special register, no byte of memory as any viewer reads it. -/
def AllBecome (s t : State) (f : Nat → Lane → Lane) : Prop :=
  t.bare = s.bare ∧ (∀ v p o, placeByte t v p o = placeByte s v p o) ∧
  ∀ g, s.cur = some g → ∃ g', t.cur = some g' ∧ ∀ k, k < threadCount s g → threadLane t g' k = f k (threadLane s g k)

/-- From `s` to `t` the active threads of the issuer change by `f` and nothing else in the machine changes. -/
def ThreadsBecome (s t : State) (f : Nat → Lane → Lane) : Prop :=
  AllBecome s t fun k x => if k ∈ s.iss.active then f k x else x

/-- The answer is a next state in which the active threads whose guard holds (R30) have changed by `f`, every active thread
stands after the instruction, and nothing else has changed. -/
def Completes (s : State) (gd : Guard) (o : Out State) (f : Nat → Lane → Lane) : Prop :=
  ∃ t, o = .next t ∧
    ThreadsBecome s t fun k x => { (if guardTrue gd x then f k x else x) with pc := s.nextPc }

/-- The answer is the next state that `u` is once every active thread stands after the instruction. -/
def Advances (u : State) (o : Out State) : Prop := ∃ t, o = .next t ∧ ThreadsBecome u t fun _ x => { x with pc := u.nextPc }

/-- From `s` to `t` only the lanes' control and transaction state changes (PC, state, age, wait and transaction), of the active
lanes of the issuing group alone, and the event counters: no register, predicate or flag of a lane, no uniform or special register,
no other group, no byte of memory. -/
def OnlyControl (s t : State) : Prop :=
  t.bare = ({ s with cores := t.cores } : State).bare ∧ (∀ v p o, placeByte t v p o = placeByte s v p o) ∧
  ∀ g h, s.cur = some g → t.cur = some h → ∀ k, k < 32 →
    (k ∉ s.iss.active → h.lane k = g.lane k) ∧
    { h.lane k with pc := (g.lane k).pc, st := (g.lane k).st, age := (g.lane k).age, wake := (g.lane k).wake,
                    tx := (g.lane k).tx } = g.lane k

/-- The guard holds in every active thread; in none. -/
def GuardAll (s : State) (g : Group) (gd : Guard) : Prop := ∀ k ∈ s.iss.active, guardTrue gd (threadLane s g k) = true
def GuardNone (s : State) (g : Group) (gd : Guard) : Prop := ∀ k ∈ s.iss.active, guardTrue gd (threadLane s g k) = false

/-! ## Engines -/

/-- The engine instructions: guard, and whether all 32 lanes must be active (R208). -/
def engineOf (i : Instr) : Option (Guard × Bool) :=
  match i with
  | .mload f => some (f.g, true)
  | .mloads f => some (f.g, true)
  | .mstream f => some (f.g, true)
  | .mstreams f => some (f.g, true)
  | .mdrain f => some (f.g, true)
  | .mswap f | .mctxAcq f | .mctxRel f | .mwait f => some (f.g, true)
  | .mzero f => some (f.g, true)
  | .mmova f | .mmovv f => some (f.g, true)
  | .mstat f | .mstepGet f => some (f.g, true)
  | .mstepSet f => some (f.g, true)
  | .impose f => some (f.g, false)
  | .impstat f => some (f.g, false)
  | .hbind f => some (f.g, false)
  | _ => none

/-- An engine or barrier instruction: it checks transactions before its guard (R173, R209, R211). -/
def checksTx (i : Instr) : Bool :=
  match i with
  | .bara _ | .barw _ | .bars _ | .barc _ => true
  | _ => (engineOf i).isSome

/-- An engine instruction passes the checks that come before its own (R32, R208, R209). -/
def EngineReady (s : State) (g : Group) (gd : Guard) (all32 : Bool) : Prop :=
  GuardAll s g gd ∧ (∀ l ∈ s.iss.active, (g.lane l).inTx = false) ∧ (all32 = true → s.iss.active.length = 32)

/-! ## Barriers and memory -/

/-- A barrier instruction passes its checks (R170, R164, R162): no active lane in a transaction, above group level every lane
that has not exited active, and a number the launch declares. -/
def BarReady (s : State) (g : Group) (level : BitVec 2) (num : BitVec 4) : Prop :=
  (∀ l ∈ s.iss.active, (g.lane l).inTx = false) ∧
  (level ≠ 0 → ∀ l, l < 32 → (g.lane l).st ≠ .exited → l ∈ s.iss.active) ∧
  ∃ l, s.launch? g.lid = some l ∧ num.toNat < barrierCount l level.toNat

/-- The barrier a group names exists (R162). -/
def BarExists (s : State) (g : Group) (level num : Nat) : Prop :=
  match level with
  | 0 => num < 2 ∧ (s.group? g.gid).isSome
  | 1 => num < 16 ∧ (s.block? g.bid).isSome
  | 2 => num < 8 ∧ (s.launch? g.lid).isSome
  | _ => num < 4 ∧ (s.launch? g.lid).isSome

/-- Memory instructions of the group are performed as they issue: none is behind it in translation, completions follow at
once, its store queue is not full, no watchpoint comparator is set (R146, R386, R427), and a recruiter does not issue (R201). -/
def Direct (s : State) (g : Group) : Prop :=
  s.defer.walk = false ∧ s.defer.load = false ∧ s.defer.fetch = false ∧ g.fl.walks = [] ∧ queueFull s g.gid = false ∧
  (∀ n, n < 4 → vget 0 g.dbg.wpc n = 0) ∧ (s.iss.helper = false → ∀ l, g.lig = some l → l.lane ∉ s.iss.active)

/-- No table entry that an address is translated with is held by the host or by a commit batch (R343, R405). -/
def Walkable (s : State) (g : Group) (ea : DWord) : Prop := xlateHeld (s.now g) s g ea = none

/-- An access of `n` bytes at an effective address reaches a place (R139 to R142, R380 to R384): aligned, translated with what
it needs, and in the Case only at a bank in scratchpad mode that is not switching. -/
def Reaches (s : State) (g : Group) (need : Need) (n : Nat) (ea : DWord) (p : Place) : Prop :=
  ea.toNat % n = 0 ∧ Walkable s g ea ∧ (∃ x, xlate s g need ea = .ok x ∧ x.place = p) ∧
  ∀ c k o own, classify s g ea = .caseAt c k o own → scratchAt s c k = true ∧ (s.bank c k).switch = none

/-- What a load, a store and an atomic need of a page (R383). -/
def readNeed (g : Group) : Need := { r := true, w := false, x := false, galley := false, priv := g.priv != .user }
def writeNeed (g : Group) : Need := { r := false, w := true, x := false, galley := false, priv := g.priv != .user }
def rmwNeed (g : Group) : Need := { r := true, w := true, x := false, galley := false, priv := g.priv != .user }

/-- No executing thread has an open transaction or an iteration in speculative mode. -/
def Unlogged (s : State) (g : Group) (gd : Guard) : Prop :=
  ∀ k ∈ executing s g gd, (threadLane s g k).tx.logging = false

/-- What an instruction that reads, or writes, an impression needs of a page (R178, R383). -/
def impNeed (write : Bool) (g : Group) : Need :=
  { r := !write, w := write, x := false, galley := true, priv := g.priv != .user }

/-- The sectors of a range of a group's galley pages, in rising order, with the address of each (R195). -/
def sectorsOf (s : State) (g : Group) (ea : DWord) (len : Nat) : List (DWord × Xlat) :=
  (rangeSectors ea len).filterMap fun a => match xlate s g (impNeed true g) a with
    | .ok x => some (a, x)
    | .error _ => none

/-- A range of impression `n` sealed sector by sector after its lists are loaded; none where a sector cannot be sealed. -/
def sealed? (s : State) (g : Group) (n : Word) (ea : DWord) (len : Nat) : Option State :=
  let xs := sectorsOf s g ea len
  match sealRange (xs.foldl (fun s x => (loadSector s g x.2).1) s) g n xs with
  | .ok t => some t
  | .error _ => none

/-- A range given a floor sector by sector (R195, R354). -/
def floored (s : State) (g : Group) (n : Word) (ea : DWord) (len : Nat) : State :=
  (sectorsOf s g ea len).foldl (fun s x => noteFloor (floorSector s g x.2 n) x.2 n) s

/-! ## Values -/

/-- The exact result of R82 under the modifier's saturation: limited to the signed range, or the wrapped value. -/
def satOr {n : Nat} (sat : Bool) (wrapped : BitVec n) (exact : Int) : BitVec n :=
  if sat then BitVec.ofInt n (max (-((2 ^ (n - 1) : Nat) : Int)) (min (((2 ^ (n - 1) : Nat) : Int) - 1) exact)) else wrapped

/-- The comparison of two values by a condition code (R85): 0 equal, 1 not equal, 2 less, 3 not less. -/
def condIs (c : BitVec 2) (eq lt : Prop) : Prop := (c = 0 ∧ eq) ∨ (c = 1 ∧ ¬ eq) ∨ (c = 2 ∧ lt) ∨ (c = 3 ∧ ¬ lt)

/-- One node of the tree of R104 and the flags of every combination below it: `leaf` gives the leaves, `k` the level. -/
def node (c : Word → Word → Word × Flags) (leaf : Nat → Option Word) : Nat → Nat → Option Word × Flags
  | 0, i => (leaf i, 0)
  | k + 1, i =>
    match node c leaf k (2 * i), node c leaf k (2 * i + 1) with
    | (none, f), (y, h) => (y, f ||| h)
    | (some a, f), (none, h) => (some a, f ||| h)
    | (some a, f), (some b, h) => (some (c a b).1, f ||| h ||| (c a b).2)

/-- The sum of R105 of values in order, with the flags of its additions. -/
def runSum (c : Word → Word → Word × Flags) (vs : List Word) : Option Word × Flags :=
  vs.foldl (fun (acc, f) v => match acc with
    | none => (some v, f)
    | some a => (some (c a v).1, f ||| (c a v).2)) (none, 0)

end Sys2Proof.Machine

namespace Sys2Proof

/-- A state from which every run stays canonical and stops with neither a fault nor a refusal for `k` steps. -/
def Safe (k : Nat) (s : Machine.State) : Prop :=
  ∃ t, Host.Core.run core k s = .next t ∧ t.Canonical

end Sys2Proof
end

