-- ==== Sys2Proof/Certificates/Slice0/Obligations.lean ====
section
/-!
DEFINITION. The statements for the provers, each with the rules it formalises. A statement of an instruction's result says
that the instruction completes (`Completes`, `Advances`, or an equation with a next state) whenever it issues without a
fault of its register fields and without waiting (`Clear`), in any state, for every operand form, in lanes and in helpers.
-/

open Sys2Proof Sys2Proof.Machine

/-! ## Encodings -/

/-- R25 to R51: an instruction's words decode to it, whatever follows them in memory; its length is that of the words. -/
def Obligations.DecodeEncode : Prop :=
  ∀ (i : Instr) (c : Code) (after : Nat), WellFormed i → encode i = some c →
    decode (c.bits + 2 ^ (8 * c.len) * after) = .ok (i, c.len)

/-- R46: what decodes is well formed, and its length is one of R25. -/
def Clauses.DecodedIsWellFormed : Prop :=
  ∀ b i n, decode b = .ok (i, n) → WellFormed i ∧ (n = 2 ∨ n = 4 ∨ n = 8 ∨ n = 12) ∧ ∃ c, encode i = some c ∧ c.len = n

/-- R28, R33, R45: words written out from the encoding tables decode to the instructions they stand for. -/
def Obligations.DecodeWords : Prop :=
  decode 0xA228803D = .ok (.lreduceAddF32 { m := none, g := Guard.always, d := 4, a := 5 }, 4) ∧
  decode 0xCA41813D = .ok (.isect { m := none, g := { gs := false, gp := 2 }, p := 5, d := 12, a := 8 }, 4) ∧
  decode 0x0000 = .ok (.movShort { s := 0, d := 0 }, 2) ∧
  decode (1 + 2 ^ 13 * 3 + 2 ^ 19 * 4 + 2 ^ 25 * 5) = .ok (.iadd { m := none, g := Guard.always, d := 3, a := 4, b := 5 }, 4)

/-- R31: the guard value with sense 1 and predicate p0 is no instruction, in any long word, with or without a modifier word
before it. -/
def Clauses.GuardFieldRefused : Prop :=
  ∀ b : Nat, b % 2 = 1 →
    (b / 2 % 64 ≠ 0x3E → b / 2 ^ 7 % 64 = 32 → ∃ r, decode b = .error r) ∧
    (b / 2 % 64 = 0x3E → b / 2 ^ 32 % 2 = 1 → b / 2 ^ 39 % 64 = 32 → ∃ r, decode b = .error r)

/-- R31, R46: words that decode to no instruction run as the illegal encoding (StepRunsDecoded), which raises the illegal-encoding
fault in every active thread. -/
def Clauses.IllegalEncodingRaises : Prop :=
  ∀ (s : State) (g : Group), ClearOf s g ⟨[], false, true⟩ → exec .illegalEncoding s = .next (raiseAll s 0x01)

/-! ## Integer instructions -/

/-- R82, R87, R88: integer arithmetic, logic and shifts on 32-bit registers, with saturation where the modifier asks for it.
Only V[d] of the executing threads and the PCs of the active threads change. -/
def Clauses.IntegerResults : Prop :=
  (∀ (f : DAForm) (s : State) (g : Group), Clear s g (.not f) → Completes s f.g (exec (.not f) s) fun _ x =>
    x.setReg f.d.toNat (~~~(regA g f.m x f.a))) ∧
  ∀ (f : AForm) (s : State) (g : Group), Clear s g (.iadd f) →
    ∀ e ∈ ([
      (.iadd f, fun a b _ => satOr (satOf f.m) (a + b) (a.toInt + b.toInt)),
      (.isub f, fun a b _ => satOr (satOf f.m) (a - b) (a.toInt - b.toInt)),
      (.imul f, fun a b _ => satOr (satOf f.m) (a * b) (a.toInt * b.toInt)),
      (.imad f, fun a b c => satOr (satOf f.m) (a * b + c) (a.toInt * b.toInt + c.toInt)),
      (.imulh f, fun a b _ => (a.signExtend 64 * b.signExtend 64).extractLsb' 32 32),
      (.imulhZ32 f, fun a b _ => (a.setWidth 64 * b.setWidth 64).extractLsb' 32 32),
      (.imin f, fun a b _ => if b.slt a then b else a),
      (.imax f, fun a b _ => if a.slt b then b else a),
      (.iminZ32 f, fun a b _ => if b < a then b else a),
      (.imaxZ32 f, fun a b _ => if a < b then b else a),
      (.and f, fun a b _ => a &&& b),
      (.andn f, fun a b _ => a &&& ~~~b),
      (.or f, fun a b _ => a ||| b),
      (.xor f, fun a b _ => a ^^^ b),
      (.shl f, fun a b _ => a <<< (b.toNat % 256)),
      (.shr f, fun a b _ => a >>> (b.toNat % 256)),
      (.sar f, fun a b _ => a.sshiftRight (b.toNat % 256)),
      (.rot f, fun a b _ => a.rotateLeft (b.toNat % 32))] : List (Instr × (Word → Word → Word → Word))),
    Completes s f.g (exec e.1 s) fun _ x =>
      x.setReg f.d.toNat (e.2 (regA g f.m x f.a) (regB g f.m x f.b) (x.reg f.d.toNat))

/-- R82, R83, R84: the 64-bit forms write the pair d. -/
def Clauses.WideResults : Prop :=
  ∀ (f : AForm) (s : State) (g : Group),
    (Clear s g (.iaddI64 f) → ∀ e ∈ ([
      (.iaddI64 f, fun a b => satOr (satOf f.m) (a + b) (a.toInt + b.toInt)),
      (.isubI64 f, fun a b => satOr (satOf f.m) (a - b) (a.toInt - b.toInt)),
      (.imulI64 f, fun a b => satOr (satOf f.m) (a * b) (a.toInt * b.toInt))] : List (Instr × (DWord → DWord → DWord))),
      Completes s f.g (exec e.1 s) fun _ x => x.setPair f.d.toNat (e.2 (pairA g f.m x f.a) (pairB g f.m x f.b))) ∧
    (Clear s g (.imadZ64 f) → Completes s f.g (exec (.imadZ64 f) s) fun _ x =>
      let sum := (x.pair f.d.toNat).toNat + (regA g f.m x f.a).toNat * (regB g f.m x f.b).toNat
      x.setPair f.d.toNat (if satOf f.m ∧ 2 ^ 64 ≤ sum then BitVec.allOnes 64 else BitVec.ofNat 64 sum)) ∧
    (Clear s g (.lea f) → Completes s f.g (exec (.lea f) s) fun _ x =>
      x.setPair f.d.toNat (pairA g f.m x f.a + (regB g f.m x f.b).signExtend 64)) ∧
    (Clear s g (.leaZ32 f) → Completes s f.g (exec (.leaZ32 f) s) fun _ x =>
      x.setPair f.d.toNat (pairA g f.m x f.a + (regB g f.m x f.b).setWidth 64)) ∧
    ∀ h : DAForm, Clear s g (.movB64 h) → Completes s h.g (exec (.movB64 h) s) fun _ x =>
      x.setPair h.d.toNat (pairA g h.m x h.a)

/-- R89: BFX takes min(n, 32 - q) bits from bit q on, zero- or sign-extended; BFI puts the low bits of V[a] there. An empty
field gives 0, and leaves V[d]. -/
def Clauses.BitFieldResults : Prop :=
  ∀ (f : AForm) (s : State) (g : Group), Clear s g (.bfx f) → ∃ bfx bfxs bfi : Word → Word → Word → Word,
    (∀ e ∈ [(.bfx f, bfx), (.bfxI32 f, bfxs), (.bfi f, bfi)], Completes s f.g (exec e.1 s) fun _ x =>
      x.setReg f.d.toNat (e.2 (regA g f.m x f.a) (regB g f.m x f.b) (x.reg f.d.toNat))) ∧
    ∀ a b d : Word, ∀ i, i < 32 →
      let q := (b.extractLsb' 0 8).toNat
      let n := (b.extractLsb' 8 8).toNat
      (bfx a b d).getLsbD i = (decide (i < n) && a.getLsbD (q + i)) ∧
      (bfxs a b d).getLsbD i =
        (if n = 0 ∨ 32 ≤ q then false else if i < n ∧ q + i < 32 then a.getLsbD (q + i) else a.getLsbD (min (q + n) 32 - 1)) ∧
      (bfi a b d).getLsbD i = if q ≤ i ∧ i < q + n then a.getLsbD (i - q) else d.getLsbD i

/-- R28: the integer short forms act as their long forms, with V[d] as destination and first source, in every active
thread; the word 0x0000 writes nothing. -/
def Clauses.ShortResults : Prop :=
  ∀ (f : ShortF) (s : State) (g : Group),
    (Clear s g (.iaddShort f) → ∀ e ∈ ([
      (.iaddShort f, fun a b => a + b), (.isubShort f, fun a b => a - b), (.imulShort f, fun a b => a * b),
      (.andShort f, fun a b => a &&& b), (.orShort f, fun a b => a ||| b), (.xorShort f, fun a b => a ^^^ b),
      (.shlShort f, fun a b => a <<< (b.toNat % 256)), (.shrShort f, fun a b => a >>> (b.toNat % 256)),
      (.sarShort f, fun a b => a.sshiftRight (b.toNat % 256)),
      (.iminShort f, fun a b => if b.slt a then b else a), (.imaxShort f, fun a b => if a.slt b then b else a)] :
        List (Instr × (Word → Word → Word))),
      Completes s Guard.always (exec e.1 s) fun _ x => x.setReg f.d.toNat (e.2 (x.reg f.d.toNat) (x.reg f.s.toNat))) ∧
    (Clear s g (.movShort f) → Completes s Guard.always (exec (.movShort f) s) fun _ x =>
      if f.s = 0 ∧ f.d = 0 then x else x.setReg f.d.toNat (x.reg f.s.toNat))

/-- R79, R82, R83, R90: immediates, constants, moves, negation and counts. -/
def Clauses.MoveResults : Prop :=
  ∀ (s : State) (g : Group),
    (∀ f : DAForm, Clear s g (.mov f) → ∀ e ∈ ([
      (.mov f, fun a => a), (.ineg f, fun a => 0 - a),
      (.iabs f, fun a => if a.slt 0 then 0 - a else a), (.popc f, fun a => a.cpop), (.clz f, fun a => a.clz),
      (.ctz f, fun a => a.ctz), (.brev f, fun a => a.reverse)] : List (Instr × (Word → Word))),
      Completes s f.g (exec e.1 s) fun _ x => x.setReg f.d.toNat (e.2 (regA g f.m x f.a))) ∧
    (∀ f : MoviForm, Clear s g (.movi f) → Completes s f.g (exec (.movi f) s) fun _ x =>
      x.setReg f.d.toNat (f.imm.signExtend 32)) ∧
    (∀ f : ImmForm, Clear s g (.iaddImm f) → Completes s f.g (exec (.iaddImm f) s) fun _ x =>
      let a := regA g f.m x f.a
      x.setReg f.d.toNat (satOr (satOf f.m) (a + f.imm.signExtend 32) (a.toInt + f.imm.toInt))) ∧
    (∀ f : LikForm, Clear s g (.likV f) → Completes s f.g (exec (.likV f) s) fun _ x => x.setReg f.d.toNat f.k)

/-- R87, R88: where the encodings of the bitwise instructions and the shifts have their registers and their variant bit. -/
def Clauses.BitwiseEncodings : Prop :=
  (∀ f : AForm, ∀ e ∈ [(Instr.and f, 0x0B, 0), (.andn f, 0x0B, 1), (.or f, 0x0C, 0), (.xor f, 0x0C, 1), (.shl f, 0x0D, 0),
      (.shr f, 0x0D, 1), (.sar f, 0x0E, 0), (.rot f, 0x0E, 1)],
    encode e.1 = some (long f.m e.2.1 f.g
      (2 ^ 13 * f.d.toNat + 2 ^ 19 * f.a.toNat + 2 ^ 25 * f.b.toNat + 2 ^ 31 * e.2.2))) ∧
  ∀ f : DAForm, encode (.not f) = some (long f.m 0x1D f.g (2 ^ 13 * f.d.toNat + 2 ^ 19 * f.a.toNat + 2 ^ 25 * 0x02))

/-- R85: the encodings of the integer comparisons, with the condition in bits 18 and 31. -/
def Clauses.CompareEncodings : Prop :=
  ∀ f : CmpForm, ∀ e ∈ [(Instr.icmp f, 0x07), (.icmpZ32 f, 0x08)], encode e.1 = some (long f.m e.2 f.g
    (2 ^ 13 * f.p.toNat + 2 ^ 18 * (f.c.toNat / 2) + 2 ^ 19 * f.a.toNat + 2 ^ 25 * f.b.toNat + 2 ^ 31 * (f.c.toNat % 2)))

/-- R85, R86: integer comparison into a predicate; SEL writes every active thread, and its guard selects. -/
def Clauses.CompareAndSelect : Prop :=
  ∀ (s : State) (g : Group),
    (∀ f : CmpForm, Clear s g (.icmp f) → ∃ r : Bool → Word → Word → Bool,
      (∀ e ∈ [(.icmp f, true), (.icmpZ32 f, false)], Completes s f.g (exec e.1 s) fun _ x =>
        x.setPred f.p (r e.2 (regA g f.m x f.a) (regB g f.m x f.b))) ∧
      ∀ a b, (r true a b = true ↔ condIs f.c (a = b) (a.toInt < b.toInt)) ∧
        (r false a b = true ↔ condIs f.c (a = b) (a.toNat < b.toNat))) ∧
    (∀ f : AForm, Clear s g (.sel f) → Completes s Guard.always (exec (.sel f) s) fun _ x =>
      x.setReg f.d.toNat (if guardTrue f.g x then regA g f.m x f.a else regB g f.m x f.b)) ∧
    (∀ f : AForm, Clear s g (.selB64 f) → Completes s Guard.always (exec (.selB64 f) s) fun _ x =>
      x.setPair f.d.toNat (if guardTrue f.g x then pairA g f.m x f.a else pairB g f.m x f.b))

/-- R34, R98: predicate logic; p0 reads true and keeps its value. -/
def Clauses.PredicateResults : Prop :=
  ∀ (f : PForm) (s : State) (g : Group), Clear s g (.pand f) →
    (∀ e ∈ ([(.pand f, fun a b => a && b), (.por f, fun a b => a || b), (.pxor f, fun a b => xor a b)] :
        List (Instr × (Bool → Bool → Bool))),
      Completes s f.g (exec e.1 s) fun _ x => x.setPred f.d (e.2 (x.pred f.a) (x.pred f.b))) ∧
    ∀ (x : Lane) (p q : BitVec 5) (b : Bool), x.pred 0 = true ∧ (x.setPred p b).pred q =
      if q = 0 then true else if q = p then b else x.pred q

/-! ## Float instructions -/

/-- R59, R65, R74, R91: binary32 arithmetic: the sources after the modifier, the exact result, then scale, clamp, rounding and
saturation; the thread's sticky flags take the flags. -/
def Clauses.FloatResults : Prop :=
  ∀ (f : AForm) (s : State) (g : Group), Clear s g (.fadd f) →
    ∀ e ∈ ([
      (.fadd f, fun a b _ => addVal (modeOf f.m .rn 0 == .rd) a b),
      (.fsub f, fun a b _ => addVal (modeOf f.m .rn 0 == .rd) a b.negate),
      (.fmul f, fun a b _ => mulVal a b),
      (.ffma f, fun a b c => fmaVal (modeOf f.m .rn 0 == .rd) a b c),
      (.fmin f, fun a b _ => minmaxVal false a b),
      (.fmax f, fun a b _ => minmaxVal true a b)] : List (Instr × (FVal → FVal → FVal → FVal × Flags))),
    Completes s f.g (exec e.1 s) fun _ x => x.putFloat f.d.toNat (finish .f32 f.m (modeOf f.m .rn 0)
      (e.2 (srcA f.m (f32 (regA g f.m x f.a))) (srcB f.m (f32 (regB g f.m x f.b))) (srcC f.m (f32 (x.reg f.d.toNat)))))

/-- R28, R91: the float short forms round to nearest, with V[d] as destination and first source. -/
def Clauses.ShortFloatResults : Prop :=
  ∀ (f : ShortF) (s : State) (g : Group), Clear s g (.faddShort f) →
    ∀ e ∈ ([
      (.faddShort f, fun a b => addVal false a b), (.fsubShort f, fun a b => addVal false a b.negate),
      (.fmulShort f, mulVal), (.fmaxShort f, minmaxVal true)] : List (Instr × (FVal → FVal → FVal × Flags))),
    Completes s Guard.always (exec e.1 s) fun _ x =>
      let v := e.2 (f32 (x.reg f.d.toNat)) (f32 (x.reg f.s.toNat))
      x.putFloat f.d.toNat ((roundTo .f32 .rn false v.1).1, v.2 ||| (roundTo .f32 .rn false v.1).2)

/-- R93: the unary functions, rounded once. -/
def Clauses.UnaryFloatResults : Prop :=
  ∀ (f : DAForm) (s : State) (g : Group), Clear s g (.frcp f) →
    ∀ e ∈ [(.frcp f, .rcp), (.frsq f, .rsq), (.fsqrt f, .sqrt), (.fexp2 f, .exp2), (.flog2 f, .log2)],
    Completes s f.g (exec e.1 s) fun _ x => x.putFloat f.d.toNat
      (finish .f32 f.m (modeOf f.m .rn 0) (unaryVal e.2 (srcA f.m (f32 (regA g f.m x f.a)))))

/-- R94: each half of a packed instruction on its own, the flags of both; R92: FCMP, false for a NaN but for ne, which sets
invalid on a signalling NaN. -/
def Clauses.PackedAndCompareResults : Prop :=
  ∀ (s : State) (g : Group),
    (∀ f : AForm, Clear s g (.hadd2 f) → ∀ e ∈ ([
      (.hadd2 f, fun a b _ => addVal (modeOf f.m .rn 0 == .rd) a b), (.hmul2 f, fun a b _ => mulVal a b),
      (.hfma2 f, fun a b c => fmaVal (modeOf f.m .rn 0 == .rd) a b c)] :
        List (Instr × (FVal → FVal → FVal → FVal × Flags))),
      Completes s f.g (exec e.1 s) fun _ x =>
        let half := fun k => finish .f16 f.m (modeOf f.m .rn 0) (e.2
          (srcA f.m (decodeElem .f16 ((regA g f.m x f.a).extractLsb' (16 * k) 16).toNat))
          (srcB f.m (decodeElem .f16 ((regB g f.m x f.b).extractLsb' (16 * k) 16).toNat))
          (srcC f.m (decodeElem .f16 ((x.reg f.d.toNat).extractLsb' (16 * k) 16).toNat)))
        x.putFloat f.d.toNat ((half 0).1 + 2 ^ 16 * (half 1).1, (half 0).2 ||| (half 1).2)) ∧
    ∀ f : CmpForm, Clear s g (.fcmp f) → ∃ r : FVal → FVal → Bool,
      (Completes s f.g (exec (.fcmp f) s) fun _ x =>
        let a := srcA f.m (f32 (regA g f.m x f.a))
        let b := srcB f.m (f32 (regB g f.m x f.b))
        (x.setPred f.p (r a b)).addFlags (if a.isSig ∨ b.isSig then flagInvalid else 0)) ∧
      ∀ a b, (a.isNan ∨ b.isNan → (r a b = true ↔ f.c = 1)) ∧
        (¬ (a.isNan ∨ b.isNan) → (r a b = true ↔ condIs f.c (eqVal a b = true) (ltVal a b = true)))

/-- R63, R95, R96, R97: conversions: the element of the source format, rounded to the destination's, toward zero into an
integer unless the modifier says otherwise; CVTPK leaves the other bits of V[d], CVTUNPK takes the named element. -/
def Obligations.ConversionResults : Prop :=
  ∀ (f : CvtForm) (s : State) (g : Group) (dst src : Fmt), fmtOfCode f.dst = some dst → fmtOfCode f.src = some src →
    (Clear s g (.cvt f) → Completes s f.g (exec (.cvt f) s) fun t x =>
      putElem x f.d.toNat dst (convert f (stochDraw s g t 0)
        (if fmtWidth src = 64 then (pairA g f.m x f.a).toNat else (regA g f.m x f.a).toNat))) ∧
    (Clear s g (.cvtunpk f) → Completes s f.g (exec (.cvtunpk f) s) fun t x =>
      putElem x f.d.toNat dst (convert f (stochDraw s g t 0) ((regA g f.m x f.a) >>> (f.pos.toNat * fmtWidth src)).toNat)) ∧
    (Clear s g (.cvtpk f) → ∃ r : Nat → Lane → Word, (Completes s f.g (exec (.cvtpk f) s) fun t x =>
        (x.setReg f.d.toNat (r t x)).addFlags (convert f (stochDraw s g t f.pos.toNat)
          (if fmtWidth src = 64 then (pairA g f.m x f.a).toNat else (regA g f.m x f.a).toNat)).2) ∧
      ∀ t x i, i < 32 → (r t x).getLsbD i =
        let lo := f.pos.toNat * fmtWidth dst
        if lo ≤ i ∧ i < lo + fmtWidth dst then
          (convert f (stochDraw s g t f.pos.toNat)
            (if fmtWidth src = 64 then (pairA g f.m x f.a).toNat else (regA g f.m x f.a).toNat)).1.testBit (i - lo)
        else (x.reg f.d.toNat).getLsbD i)

/-! ## Uniform and cross-lane instructions -/

/-- R32, R99: a uniform operation on 64-bit registers, once for the group, where its guard holds in every active lane. -/
def Clauses.UniformResults : Prop :=
  ∀ (s : State) (g : Group),
    (∀ f : UForm, Clear s g (.uadd f) → GuardAll s g f.g → ∀ e ∈ ([
      (.uadd f, fun a b => a + b), (.usub f, fun a b => a - b), (.umul f, fun a b => a * b), (.uand f, fun a b => a &&& b),
      (.uor f, fun a b => a ||| b), (.ushl f, fun a b => a <<< (b.toNat % 64))] : List (Instr × (DWord → DWord → DWord))),
      Advances (s.updGroup g.gid fun h => h.setUreg f.d.toNat (e.2 (g.ureg f.a.toNat) (g.ureg f.b.toNat))) (exec e.1 s)) ∧
    (∀ f : DAForm, Clear s g (.umov f) → GuardAll s g f.g →
      Advances (s.updGroup g.gid fun h => h.setUreg f.d.toNat (g.ureg f.a.toNat)) (exec (.umov f) s)) ∧
    (∀ f : UCmpForm, Clear s g (.ucmp f) → GuardAll s g f.g → ∃ r : Bool,
      (Completes s f.g (exec (.ucmp f) s) fun _ x => x.setPred f.p r) ∧
      (r = true ↔ if f.lt then (g.ureg f.a.toNat).slt (g.ureg f.b.toNat) = true else g.ureg f.a.toNat = g.ureg f.b.toNat))

/-- R79, R83, R101: transfers between lanes and uniform registers: UMOVV takes the lowest executing lane's register, UBCST
gives bits 31:0 to the executing lanes, LIK into a uniform register sign-extends; where no lane executes, no uniform register
changes. -/
def Clauses.TransferResults : Prop :=
  ∀ (s : State) (g : Group),
    (∀ f : DAForm, Clear s g (.umovv f) →
      (∀ l r, executing s g f.g = l :: r →
        Advances (s.updGroup g.gid fun h => h.setUreg f.d.toNat (((g.lane l).reg f.a.toNat).setWidth 64)) (exec (.umovv f) s)) ∧
      (executing s g f.g = [] → Advances s (exec (.umovv f) s))) ∧
    (∀ f : LikForm, Clear s g (.likU f) →
      (executing s g f.g ≠ [] → Advances (s.updGroup g.gid fun h => h.setUreg f.d.toNat (f.k.signExtend 64)) (exec (.likU f) s)) ∧
      (executing s g f.g = [] → Advances s (exec (.likU f) s))) ∧
    ∀ f : DAForm, Clear s g (.ubcst f) → Completes s f.g (exec (.ubcst f) s) fun _ x =>
      x.setReg f.d.toNat ((g.ureg f.a.toNat).setWidth 32)

/-- R7, R77, R78, R102: each executing lane, and with qf each fill lane of a quad that holds an executing one, reads V[a] of its
source lane as it was; the other lanes keep theirs, and the active lanes advance. Function values 0x44 to 0x46 of QSWZ name
lane XOR 1 to 3. -/
def Clauses.ShuffleResults : Prop :=
  ∀ (s : State) (g : Group) (m : Option Mod) (gd : Guard) (d a : BitVec 6) (k : BitVec 5) (q : BitVec 2),
    ∀ e ∈ ([
      (.shflXor { m := m, g := gd, d := d, a := a, k := k }, fun _ l => l ^^^ k.toNat),
      (.shfl { m := m, g := gd, d := d, a := a, k := k }, fun _ _ => k.toNat),
      (.shflIdx { m := m, g := gd, d := d, a := a }, fun x _ => ((x.reg d.toNat).extractLsb' 0 5).toNat),
      (.qswz { m := m, g := gd, d := d, a := a, k := q }, fun _ l => l ^^^ (q.toNat + 1)),
      (.qbcst { m := m, g := gd, d := d, a := a, k := q }, fun _ l => 4 * (l / 4) + q.toNat)] :
        List (Instr × (Lane → Nat → Nat))),
    Clear s g e.1 → ∃ t, exec e.1 s = .next t ∧ AllBecome s t fun l x =>
      let writes := l ∈ executing s g gd ∨
        (m.any Mod.qf = true ∧ l ∉ s.iss.active ∧ ∃ j ∈ executing s g gd, j / 4 = l / 4)
      let y := if writes then x.setReg d.toNat ((g.lane (e.2 x l)).reg a.toNat) else x
      if l ∈ s.iss.active then { y with pc := s.nextPc } else y

/-- R103: votes over the executing lanes, and the ballot: bit i is lane i's predicate, 0 for a lane that does not execute. -/
def Clauses.VoteResults : Prop :=
  ∀ (s : State) (g : Group),
    (∀ f : VoteForm, Clear s g (.voteAll f) → ∃ all any : Bool,
      (all = true ↔ ∀ l ∈ executing s g f.g, (g.lane l).pred f.a = true) ∧
      (any = true ↔ ∃ l ∈ executing s g f.g, (g.lane l).pred f.a = true) ∧
      ∀ e ∈ [(.voteAll f, all), (.voteAny f, any), (.voteUni f, all || !any)],
        Completes s f.g (exec e.1 s) fun _ x => x.setPred f.d e.2) ∧
    ∀ f : BallotForm, Clear s g (.ballot f) → ∃ r : Word,
      (∀ i, i < 32 → (r.getLsbD i = true ↔ i ∈ executing s g f.g ∧ (g.lane i).pred f.a = true)) ∧
      Completes s f.g (exec (.ballot f) s) fun _ x => x.setReg f.d.toNat r

/-- R104: LREDUCE: the root of the fixed tree over the executing lanes' V[a], and the union of the roundings' flags. -/
def Clauses.ReduceResults : Prop :=
  ∀ (f : DAForm) (s : State) (g : Group), Clear s g (.lreduceAddI32 f) →
    ∀ e ∈ ([
      (.lreduceAddI32 f, fun a b => (a + b, 0)), (.lreduceAddF32 f, addF32),
      (.lreduceMinI32 f, fun a b => (if b.slt a then b else a, 0)), (.lreduceMaxI32 f, fun a b => (if a.slt b then b else a, 0)),
      (.lreduceMinF32 f, minmaxF32 false), (.lreduceMaxF32 f, minmaxF32 true),
      (.lreduceOrB32 f, fun a b => (a ||| b, 0)), (.lreduceAndB32 f, fun a b => (a &&& b, 0))] :
        List (Instr × (Word → Word → Word × Flags))),
    Completes s f.g (exec e.1 s) fun _ x =>
      let root := node e.2 (fun l => if l ∈ executing s g f.g then some ((g.lane l).reg f.a.toNat) else none) 5 0
      (x.setReg f.d.toNat (root.1.getD 0)).addFlags root.2

/-- R105, R107: the running sums of the executing lanes in rising order, inclusive or exclusive, and the running count of
bits. -/
def Clauses.PrefixResults : Prop :=
  ∀ (f : DAForm) (s : State) (g : Group), Clear s g (.prefixAddI32 f) →
    let vals := fun (c : Nat → Bool) => ((executing s g f.g).filter c).map fun l => (g.lane l).reg f.a.toNat
    (∀ e ∈ ([
      (.prefixAddI32 f, fun a b => (a + b, 0), false), (.prefixAddI32Ex f, fun a b => (a + b, 0), true),
      (.prefixAddF32 f, addF32, false), (.prefixAddF32Ex f, addF32, true)] :
        List (Instr × (Word → Word → Word × Flags) × Bool)),
      Completes s f.g (exec e.1 s) fun l x =>
        (x.setReg f.d.toNat ((runSum e.2.1 (vals fun k => if e.2.2 then k < l else k ≤ l)).1.getD 0)).addFlags
          (runSum e.2.1 (vals fun _ => true)).2) ∧
    Completes s f.g (exec (.popcp f) s) fun l x =>
      x.setReg f.d.toNat (BitVec.ofNat 32 ((vals fun k => k < l).map fun v => v.cpop.toNat).sum)

/-- R106, R108: BMAND, and ISECT's next matched pair and state; the state writes come last. -/
def Obligations.SparseResults : Prop :=
  ∀ (s : State) (g : Group),
    (∀ f : DAForm, Clear s g (.bmand f) → Completes s f.g (exec (.bmand f) s) fun _ x =>
      let y := srcLane g (winA f.m) x
      let w := y.reg f.a.toNat &&& y.reg (f.a.toNat + 1)
      x.setPair f.d.toNat (pairOf w w.cpop)) ∧
    ∀ f : IsectForm, Clear s g (.isect f) → Completes s f.g (exec (.isect f) s) fun _ z =>
      let src := fun k => (srcLane g (winA f.m) z).reg (f.a.toNat + k)
      let x := src 0
      let y := src 1
      let w := x &&& y
      let out := fun (o0 o1 o2 : Word) (p : Bool) (s0 s1 s2 s3 : Word) =>
        ((((((((z.setReg f.d.toNat o0).setReg (f.d.toNat + 1) o1).setReg (f.d.toNat + 2) o2).setPred f.p p).setReg
          f.a.toNat s0).setReg (f.a.toNat + 1) s1).setReg (f.a.toNat + 2) s2).setReg (f.a.toNat + 3) s3)
      if w = 0 then out (src 2 + x.cpop) (src 3 + y.cpop) 0 false 0 0 (src 2 + x.cpop) (src 3 + y.cpop)
      else
        let below := (1 <<< w.ctz.toNat : Word) - 1
        let upto := below ||| (1 <<< w.ctz.toNat : Word)
        let ix := src 2 + (x &&& below).cpop
        let iy := src 3 + (y &&& below).cpop
        out ix iy w.cpop true (x &&& ~~~upto) (y &&& ~~~upto) (ix + 1) (iy + 1)

/-! ## Control flow -/

/-- R30, R33, R114, R117: the divergent branches: each executing thread goes to its own target, a call leaves A + 4 in its link
register, the other active threads go on after the instruction; a target that is odd in some executing threads raises the
misaligned-address fault in those. -/
def Clauses.BranchResults : Prop :=
  ∀ (s : State) (g : Group) (gd : Guard) (o19 : BitVec 19) (o13 : BitVec 13) (d a : BitVec 6),
    ∀ e ∈ ([
      (.bra { g := gd, off := o19 }, fun _ => s.iss.addr + (o19.signExtend 32 <<< 1), none),
      (.call { g := gd, r := d, off := o13 }, fun _ => s.iss.addr + (o13.signExtend 32 <<< 1), some d),
      (.brx { g := gd, a := a }, fun x => x.reg a.toNat, none),
      (.ret { g := gd, a := a }, fun x => x.reg a.toNat, none),
      (.callx { g := gd, d := d, a := a }, fun x => x.reg a.toNat, some d)] :
        List (Instr × (Lane → Word) × Option (BitVec 6))),
    Clear s g e.1 →
    let odd := (executing s g gd).filter fun k => (e.2.1 (threadLane s g k)).getLsbD 0
    (odd = [] → ∃ t, exec e.1 s = .next t ∧ ThreadsBecome s t fun _ x =>
      if guardTrue gd x then
        { (match e.2.2 with
           | some d => x.setReg d.toNat s.nextPc
           | none => x) with pc := e.2.1 x }
      else { x with pc := s.nextPc }) ∧
    (odd ≠ [] → exec e.1 s = .next (raiseIn s 0x08 odd))

/-- R80, R115, R116, R135: the uniform branches: all active lanes go one way; a condition that differs among them raises the
divergent-branch fault; each helper branches alone. BRD adds its offset to bits 31:0 of a uniform register, and an odd target
raises the misaligned-address fault. -/
def Clauses.UniformBranchResults : Prop :=
  ∀ (s : State) (g : Group),
    (∀ f : BForm, Clear s g (.bru f) →
      let target := s.iss.addr + (f.off.signExtend 32 <<< 1)
      ((s.iss.helper = true ∨ GuardAll s g f.g ∨ GuardNone s g f.g) → ∃ t, exec (.bru f) s = .next t ∧
        ThreadsBecome s t fun _ x => { x with pc := if guardTrue f.g x then target else s.nextPc }) ∧
      (s.iss.helper = false → ¬ GuardAll s g f.g → ¬ GuardNone s g f.g → exec (.bru f) s = .next (raiseAll s 0x03))) ∧
    ∀ f : BrForm, Clear s g (.brd f) → GuardAll s g f.g →
      let target := (g.ureg f.r.toNat).setWidth 32 + (f.off.signExtend 32 <<< 1)
      (target.getLsbD 0 = false → ∃ t, exec (.brd f) s = .next t ∧ ThreadsBecome s t fun _ x => { x with pc := target }) ∧
      (target.getLsbD 0 = true → exec (.brd f) s = .next (raiseAll s 0x08))

/-- R119, R120, R122: SPLIT pushes the active lanes with the rejoin address; WAIT parks them at the top entry's address; JOIN
takes them off the top entry, which is popped when none is left; after WAIT and JOIN the top entry is released when it is
complete (StackReleases). Overflow, underflow and a
lane or address that is not the top entry's raise their faults. -/
def Clauses.StackResults : Prop :=
  ∀ (s : State) (g : Group) (m : BitVec 32), (∀ i, i < 32 → (m.getLsbD i = true ↔ i ∈ s.iss.active)) →
    (∀ f : BForm, Clear s g (.split f) → GuardAll s g f.g →
      (g.stack.length < 16 → Advances (s.updGroup g.gid fun h =>
        { h with stack := (m, s.iss.addr + (f.off.signExtend 32 <<< 1)) :: h.stack }) (exec (.split f) s)) ∧
      (16 ≤ g.stack.length → exec (.split f) s = .next (raiseAll s 0x04))) ∧
    ∀ f : GForm, Clear s g (.wait f) → GuardAll s g f.g →
      (g.stack = [] → exec (.wait f) s = .next (raiseAll s 0x05) ∧ exec (.join f) s = .next (raiseAll s 0x05)) ∧
      ∀ top a r, g.stack = (top, a) :: r →
        (s.iss.addr = a → m &&& ~~~top = 0 → exec (.wait f) s =
          .next ((s.mapActive fun _ x => { x with st := .parked }).updGroup g.gid releaseTop)) ∧
        ((s.iss.addr ≠ a ∨ m &&& ~~~top ≠ 0) → exec (.wait f) s = .next (raiseAll s 0x02)) ∧
        (m &&& ~~~top = 0 → exec (.join f) s =
          .next (s.advance.updGroup g.gid fun h => releaseTop { h with
            stack := ((top &&& ~~~m, a) :: r).dropWhile fun e => e.1 == 0 })) ∧
        (m &&& ~~~top ≠ 0 → exec (.join f) s = .next (raiseAll s 0x02))

/-- R121, R123: a top entry all of whose lanes are parked at its rejoin address or have exited releases every lane parked there,
which becomes live after it with age 0; the masks stand, and nothing else changes. Lanes that exit leave every mask, and entries
left empty on top are popped, before the new top is released so. -/
def Clauses.StackReleases : Prop :=
  ∀ (g : Group),
    let h := releaseTop g
    let there := fun l a => (g.lane l).st = .parked ∧ (g.lane l).pc = a
    { h with lanes := g.lanes } = g ∧
    (∀ m a r, g.stack = (m, a) :: r → (∀ i, i < 32 → m.getLsbD i = true → there i a ∨ (g.lane i).st = .exited) →
      ∀ l, l < 32 → h.lane l = if there l a then { g.lane l with st := .live, pc := a + 4, age := 0 } else g.lane l) ∧
    ((g.stack = [] ∨ ∃ m a r i, g.stack = (m, a) :: r ∧ i < 32 ∧ m.getLsbD i = true ∧
        ¬ (there i a ∨ (g.lane i).st = .exited)) → h = g) ∧
    ∀ (ex : List Nat) (gone : BitVec 32), (∀ i, i < 32 → (gone.getLsbD i = true ↔ i ∈ ex)) →
      clearLanes g ex =
        releaseTop { g with stack := (g.stack.map fun e => (e.1 &&& ~~~gone, e.2)).dropWhile fun e => e.1 == 0 }

/-- R121, R123, R126, R135: EXIT: with no transaction open, nothing untranslated and no deferred fault, the active lanes end and
keep their registers, what the group has outstanding keeps its translations, the lanes leave the stack (StackReleases) and group
barriers see that lanes have ended; no other group, no other lane's state but what the stack releases, no memory changes. A lane
in a transaction raises transaction misuse; helpers return their lanes. Waiting for translation is no fault. -/
def Clauses.ExitResults : Prop :=
  ∀ (s : State) (g : Group) (f : GForm), Clear s g (.exit f) →
    (s.iss.helper = false → GuardAll s g f.g →
      let tx := s.iss.active.filter fun l => (g.lane l).inTx
      (tx ≠ [] → exec (.exit f) s = .next (raiseIn s 0x0C tx)) ∧
      (tx = [] → untranslated s g s.iss.active = true → exec (.exit f) s = .next (stall s 12)) ∧
      (tx = [] → untranslated s g s.iss.active = false → exitFault s g = none → engineUntranslated s g = false →
        ∃ u k h t, exec (.exit f) s = .next t ∧ t = settleBars u h 0 2 ∧ u.cur = some h ∧ h = clearLanes k s.iss.active ∧
          k.stack = g.stack ∧ (∀ l, l < 32 → k.lane l = if l ∈ s.iss.active then { g.lane l with st := .exited } else g.lane l) ∧
          { k with lanes := g.lanes, stallCnt := g.stallCnt, fl := { k.fl with fetches := g.fl.fetches } } = g ∧ k.stallCnt = 0 ∧
          (∀ i, i ≠ g.gid → t.group? i = s.group? i) ∧ { t with groups := s.groups } = { pinAll s g with groups := s.groups } ∧
          ∃ h', t.cur = some h' ∧ h'.stack = h.stack ∧ h'.u = g.u ∧
            ∀ l, l < 32 → { h'.lane l with p := (h.lane l).p } = h.lane l)) ∧
    (s.iss.helper = true → executing s g f.g ≠ [] → untranslated s g (executing s g f.g) = false →
      flushBlocked s g.gid g.core (onL 1) = none → exec (.exit f) s = .next (exitHelpers s g (executing s g f.g)))

/-- R128, R129, R130: NOP only advances; YIELD idles the group for the 16 A-clocks after its own, a handler's as the handler's (a
YIELD of the user's that is then still running has run out when the handler's has, and its forced issue stands); REGION sets the
restart point where the stack is empty and every lane that has not exited is active, and otherwise raises the group fault. -/
def Clauses.NopYieldRegion : Prop :=
  ∀ (s : State) (g : Group) (f : GForm),
    (Clear s g (.nop f) → (s.iss.helper = true ∨ GuardAll s g f.g ∨ GuardNone s g f.g) → Advances s (exec (.nop f) s)) ∧
    (Clear s g (.yield f) → GuardAll s g f.g →
      Advances (s.updGroup g.gid fun h => { h with hold := { h.hold with
        idleTo := some (s.clock + 17), idlePriv := g.priv != .user,
        forced := g.hold.forced || (g.priv != .user && g.hold.idleTo.isSome && !g.hold.idlePriv) } }) (exec (.yield f) s)) ∧
    (Clear s g (.region f) → GuardAll s g f.g →
      let whole := ∀ l, l < 32 → (g.lane l).st ≠ .exited → l ∈ s.iss.active
      (g.stack = [] → whole → Advances (s.updGroup g.gid fun h => { h with restart := s.iss.addr }) (exec (.region f) s)) ∧
      (g.stack ≠ [] ∨ ¬ whole → exec (.region f) s = .next (raiseAll s 0x02)))

/-- R32, R173, R211: the guard of an instruction that acts once for the group: none of the active lanes holds it, and it only
advances; some hold it and some do not, and the group fault is raised, before any other check of the instruction but one: an
engine or barrier instruction first raises transaction misuse in the executing lanes that are in a transaction. -/
def Clauses.GroupGuard : Prop :=
  ∀ (s : State) (g : Group) (i : Instr) (gd : Guard), s.iss.helper = false → groupGuardOf i = some gd → Clear s g i →
    let tx := (executing s g gd).filter fun l => (g.lane l).inTx
    (GuardNone s g gd → Advances s (exec i s)) ∧
    (checksTx i = true → tx ≠ [] → exec i s = .next (raiseIn s 0x0C tx)) ∧
    ((checksTx i = true → tx = []) → ¬ GuardNone s g gd → ¬ GuardAll s g gd → exec i s = .next (raiseAll s 0x02))

/-! ## Issue checks common to all instructions -/

/-- R34, R35, R46: a register field that names no register, a pair at an odd register or a window outside helper code raises the
illegal-encoding fault in every active thread; the word that decodes to nothing does so too. -/
def Clauses.IllegalRegisters : Prop :=
  ∀ (s : State) (g : Group) (i : Instr) (n : Needs), s.cur = some g → needs i = some n →
    (∃ u ∈ n.uses, u.legal s.iss.helper g.nregs = false) → exec i s = .next (raiseAll s 0x01)

/-- R80, R135, R171, R176, R209: an instruction that helper code may not hold raises the ligature fault there, where some helper's
guard holds. -/
def Clauses.HelperFault : Prop :=
  ∀ (s : State) (g : Group) (i : Instr) (n : Needs), s.cur = some g → needs i = some n →
    (∀ u ∈ n.uses, u.legal true g.nregs = true) → s.iss.helper = true → n.helperOk = false →
    executing s g (issueGuard s) ≠ [] → exec i s = .next (raiseAll s 0x0F)

/-- R24, R196, R431: an instruction one of whose registers the scoreboard holds does not issue: nothing changes but its wait, which
counts under the lowest of the reasons that hold its registers: 1 for a scale, 3 for a load, 7 for a waiting LDV, 11 for a FETCH,
12 for another access that is not translated (which reason each hold has is log 61). -/
def Clauses.ScoreboardWaits : Prop :=
  ∀ (s : State) (g : Group) (i : Instr) (n : Needs), s.cur = some g → needs i = some n →
    (∀ u ∈ n.uses, u.legal s.iss.helper g.nregs = true) → (s.iss.helper = true → n.helperOk = true) →
    (g.priv = .user → s.iss.helper = false → (n.free = true ∨ g.fl.opLog = []) ∧ ∀ u ∈ n.uses, loggedUse g u = false) →
    failedUse g s.iss.helper n.uses = none → (∃ u ∈ n.uses, heldUse s g s.iss.helper u = true) →
    let reason := fun r => (∃ u ∈ n.uses, r ∈ busyReasons s g s.iss.helper u) ∨
      (r = 7 ∧ ∃ u ∈ n.uses, waitUse g s.iss.helper u = true)
    ∃ r, reason r ∧ (∀ q, reason q → r ≤ q) ∧ exec i s = .next (stall s r)

/-- R388, R389: while the operand log of a group holds an entry, an instruction that is not free to issue, or that names the
destination of an entry, stops the group: the translation fault of the oldest entry is raised, or the group waits. -/
def Clauses.OperandLogStops : Prop :=
  ∀ (s : State) (g : Group) (i : Instr) (n : Needs), s.cur = some g → needs i = some n →
    (∀ u ∈ n.uses, u.legal false g.nregs = true) → s.iss.helper = false → g.priv = .user →
    ((n.free = false ∧ g.fl.opLog ≠ []) ∨ ∃ u ∈ n.uses, loggedUse g u = true) →
    exec i s = .next (logStop s g)

/-! ## Exceptions and the return from them -/

/-- R131, R372: BKPT and TRAP complete, then raise classes 0x10 and 0x11 with the code, in the lanes that executed them (log 18);
they wait until the accesses issued before them are translated and FETCHes have arrived. -/
def Clauses.TrapsRaise : Prop :=
  ∀ (s : State) (g : Group) (f : CodeForm), Clear s g (.bkpt f) → GuardAll s g f.g →
    ∀ e ∈ [(.bkpt f, 0x10), (.trap f, 0x11)], ∃ r : Raise,
      (openOps g = none → exec e.1 s = .next (raise s.advance g.gid r)) ∧
      (∀ k, openOps g = some k → exec e.1 s = .next (stall s k)) ∧ r.cls = e.2 ∧ r.code = f.code.setWidth 8 ∧ r.addr = s.iss.addr ∧
      r.len = s.iss.len ∧ r.seq = 0 ∧ r.vas = [] ∧ r.helper = none ∧ r.deferred = false ∧ r.write = false ∧
      ∀ i, i < 32 → (r.mask.getLsbD i = true ↔ i ∈ s.iss.active)

/-- R374, R375: a fault of a group in user code whose vector is valid, with no transaction, ligature or lent lane in the way:
the group is privileged in the class's handler at its entry point, all lanes live, the stack empty, and the trap state holds
cause, address, mask, code base, depth, restart point, LIGA status and stack, and of each lane its resume PC, state and failing
address. A memory instruction that is not yet translated has not issued: its lanes resume at it (Group.rewind, log 2). -/
def Clauses.HandlerEntry : Prop :=
  ∀ (s : State) (g : Group) (r : Raise) (cbase : DWord) (entry : Word),
    s.group? g.gid = some g → g.priv = .user → g.fl.pend = none → r.cls ≠ 0x09 → r.cls ≠ 0x10 → (r.cls = 0x12 → r.code = 5) →
    g.lig = none → (∀ b ∈ s.batches, b.gid ≠ g.gid) → lentAway s g.gid = false →
    (∀ l, l < 32 → (g.lane l).tx.isOpen = false ∧ (g.lane l).tx.spec = false) →
    (∀ m ∈ g.fl.walks, m.helper = false) → vectorEntry s g r.cls = .ok cbase entry →
    ∃ h, (raise s g.gid r).group? g.gid = some h ∧ h.priv = .handler r.cls ∧
      h.codebase = (if cbase = 0 then g.codebase else cbase) ∧ h.stack = [] ∧ h.u = g.u ∧ h.stallCnt = g.stallCnt ∧
      h.trap.tcause = r.cause ∧ h.trap.taddr = r.addr ∧ h.trap.tseq = r.seq ∧ h.trap.tmask = r.mask ∧
      h.trap.tcbase = g.codebase ∧ h.trap.tdepth = BitVec.ofNat 32 g.stack.length ∧ h.trap.trestart = g.restart ∧
      h.trap.stat = g.endstat ∧
      (∀ k m a, k < 16 → g.stack.reverse[k]? = some (m, a) → vget 0 h.trap.tj k = pairOf m a) ∧
      ∀ l, l < 32 →
        (h.lane l).st = .live ∧ (h.lane l).pc = entry ∧ (h.lane l).age = 0 ∧ (h.lane l).p = (g.lane l).p ∧
        (h.lane l).fsticky = (g.lane l).fsticky ∧ (h.lane l).tpc = (g.rewind.lane l).pc ∧
        ((g.lane l).st = .live → (h.lane l).tlstate = 0) ∧ ((g.lane l).st = .parked → (h.lane l).tlstate = 1) ∧
        ((g.lane l).st = .exited → (h.lane l).tlstate = 2) ∧
        (r.mask.getLsbD l = false → (h.lane l).tva = 0) ∧
        (r.mask.getLsbD l = true → ∀ a, r.vas.find? (fun v => v.1 == l) = some (l, a) → (h.lane l).tva = a)

/-- R374, R375, R376: what a handler's entry saves, its ERET brings back: code base, stack, restart point, LIGA status, and of every
lane PC, state and transaction, where the handler has written none of it. -/
def Obligations.EretUndoesEntry : Prop :=
  ∀ (s : State) (g : Group) (cause : Word) (r : Raise) (p : Priv) (cbase : DWord) (entry : Word),
    g.stack.length ≤ 16 → (∀ l, l < 32 → (g.lane l).st ≠ .suspended) →
    let h := restoreTrap s (startHandler (captureTrap g cause r) p cbase entry)
    h.priv = .user ∧ h.codebase = g.codebase ∧ h.stack = g.stack ∧ h.restart = g.restart ∧ h.u = g.u ∧ h.stallCnt = 0 ∧
    h.endstat = g.endstat ∧
    ∀ l, l < 32 → (h.lane l).pc = (g.lane l).pc ∧ (h.lane l).st = (g.lane l).st ∧ (h.lane l).tx = (g.lane l).tx ∧
      (h.lane l).v = (g.lane l).v ∧ (h.lane l).p = (g.lane l).p ∧ (h.lane l).fsticky = (g.lane l).fsticky ∧
      (h.lane l).age = 0

/-- R132, R366, R376, R388: ERET in user code raises the protection fault; in a handler it waits for the handler's own accesses and
FETCHes, checks the trap state, and returns, or ends the grid; replay of the operand log begins where it holds an entry. In the
save handler, with every access of the handler's performed, the group stops saved; in the restore handler it returns and waits
for its block. -/
def Clauses.EretResults : Prop :=
  ∀ (s : State) (g : Group) (f : GForm), Clear s g (.eret f) → GuardAll s g f.g →
    (g.priv = .user → exec (.eret f) s = .next (raiseIn s 0x07 s.iss.active)) ∧
    (∀ c k, g.priv = .handler c ∨ g.priv = .restore → openOps g = some k → exec (.eret f) s = .next (stall s k)) ∧
    (∀ c, g.priv = .handler c → openOps g = none →
      (eretOk s g = false → exec (.eret f) s = .next (raiseGrid s g (faultOf s 0x07 [] []))) ∧
      (eretOk s g = true → exec (.eret f) s = .next (afterReturn (resumeCopies (resumeMatrix
        ((s.updGroup g.gid (restoreTrap s)).updGroup g.gid startReplay) g) g) g.gid))) ∧
    (g.priv = .save → flushBlocked s g.gid g.core (onBoth 3) = none → (copyFault s g fun _ => true) = none → handlerBusy s g = false →
      g.fl.walks = [] → g.fl.loads = [] → g.fl.fetches = [] → exec (.eret f) s = .next (finishSave
        ((performWhere (flush (flush s g.gid g.core 3 false) g.gid g.core 3 true) fun e => e.gid == g.gid).updGroup g.gid fun h =>
          { h with priv := .user, hold := { h.hold with stopped := true } }) g.bid)) ∧
    (g.priv = .restore → openOps g = none →
      (eretOk s g = false → exec (.eret f) s = .next (raiseGrid s g (faultOf s 0x07 [] []))) ∧
      (eretOk s g = true → exec (.eret f) s = .next (finishRestore
        (afterReturn ((s.updGroup g.gid (restoreTrap s)).updGroup g.gid awaitBlock) g.gid) g.bid))) ∧
    (startReplay g).fl.replay = !g.fl.opLog.isEmpty ∧
    (eretOk s g = true → g.trap.tdepth.toNat ≤ 16 ∧ ∀ l, l < 32 → (g.lane l).tpc.getLsbD 0 = false)

/-! ## Special and system registers -/

/-- R42, R43: SREAD; %clock is 64 bits and goes to a pair; in helper code the lane number is the recruiter's and %helper the
helper's index. -/
def Clauses.SpecialRegisters : Prop :=
  ∀ (s : State) (g : Group) (f : SreadForm) (l : Launch), Clear s g (.sread f) → s.launch? g.lid = some l →
    0 < l.lr.gx → 0 < l.lr.gy → Completes s f.g (exec (.sread f) s) fun t x =>
      let lane := if s.iss.helper then (g.lig.map Lig.lane).getD 0 else t
      let b := s.blockIdx g
      if f.s = 0xB then x.setPair f.d.toNat (BitVec.ofNat 64 s.clock)
      else x.setReg f.d.toNat (BitVec.ofNat 32 (match f.s.toNat with
        | 0x0 => lane
        | 0x1 => lane / 4
        | 0x2 => g.grp
        | 0x3 => b % l.lr.gx
        | 0x4 => b / l.lr.gx % l.lr.gy
        | 0x5 => b / (l.lr.gx * l.lr.gy)
        | 0x6 => g.core / 4
        | 0x7 => g.core
        | 0x8 => g.core / 80
        | 0x9 => s.host.devnum.toNat % 256
        | 0xA => if s.iss.helper then t else 2 ^ 32 - 1
        | 0xC => x.fsticky.toNat
        | 0xD => g.seq.toNat
        | _ => 0))

/-- R44, R133: SYSR reads a register into the executing lanes, a 64-bit one into a pair; a privileged register read in user code
raises the protection fault. -/
def Clauses.SysReads : Prop :=
  ∀ (s : State) (g : Group) (f : SysrForm), Clear s g (.sysr f) →
    ((sysPriv f.s.toNat = false ∨ g.priv ≠ .user ∨ executing s g f.g = []) → Completes s f.g (exec (.sysr f) s) fun _ x =>
      if sysWide f.s.toNat then x.setPair f.d.toNat (sysReg s g f.s.toNat x)
      else x.setReg f.d.toNat ((sysReg s g f.s.toNat x).setWidth 32)) ∧
    (sysPriv f.s.toNat = true → g.priv = .user → executing s g f.g ≠ [] →
      exec (.sysr f) s = .next (raiseIn s 0x07 (executing s g f.g)))

/-- R44, R134, R364: SYSW: a register held per lane takes each executing lane's value, any other the value of the lowest
executing lane (for a register that the group holds that is the model's reading, log 13); a privileged register written in user code
raises the protection fault. -/
def Clauses.SysWrites : Prop :=
  ∀ (s : State) (g : Group) (gd : Guard) (a : BitVec 6) (r : BitVec 13) (w : BitVec 2),
    ∀ e ∈ ([
      (.sysw { g := gd, a := a, s := r }, r.toNat), (.syswCodebase { g := gd, a := a }, 0x100),
      (.syswHeapWindow { g := gd, a := a, which := w }, 0x101 + w.toNat), (.syswPred { g := gd, a := a }, 0x185)] :
        List (Instr × Nat)),
    Clear s g e.1 →
      (executing s g gd = [] → Advances s (exec e.1 s)) ∧
      ∀ l rest, executing s g gd = l :: rest →
        (sysPriv e.2 = true → g.priv = .user → exec e.1 s = .next (raiseIn s 0x07 (l :: rest))) ∧
        ((sysPriv e.2 = false ∨ g.priv ≠ .user) →
          (sysLane e.2 = true → Completes s gd (exec e.1 s) fun _ x => x.setSys e.2 (sysSource e.2 a.toNat x)) ∧
          (sysLane e.2 = false → Advances (setShared s g e.2 (sysSource e.2 a.toNat (g.lane l))) (exec e.1 s)))

/-- R44, R364, R375, R425: what a write leaves in a system register is what a read finds there: all bits of the 64-bit registers,
those that the register ignores too (the model's reading, log 13), the implemented bits of the others. -/
def Clauses.SysWriteThenRead : Prop :=
  ∀ (s : State) (g : Group) (w : DWord), s.group? g.gid = some g → g.ctx < 64 →
    (∀ n mask, ((0x100 ≤ n ∧ n ≤ 0x109 ∧ mask = BitVec.allOnes 64) ∨ (n = 0x146 ∧ mask = BitVec.allOnes 64) ∨
        (0x149 ≤ n ∧ n ≤ 0x14B ∧ mask = 0xFFFFFFFF) ∨ (0x150 ≤ n ∧ n ≤ 0x15F ∧ mask = BitVec.allOnes 64) ∨
        (0x1A0 ≤ n ∧ n ≤ 0x1A3 ∧ mask = 0xFFFFFFFF) ∨ (0x1A4 ≤ n ∧ n ≤ 0x1A7 ∧ mask = BitVec.allOnes 64) ∨
        (0x1A8 ≤ n ∧ n ≤ 0x1AB ∧ mask = 0x31F) ∨ (n = 0x1AC ∧ mask = 3) ∨ (0x1B0 ≤ n ∧ n ≤ 0x1B7 ∧ mask = 0xFFFFFFFF) ∨
        (0x1B8 ≤ n ∧ n ≤ 0x1BF ∧ mask = 0xFFFFFFFFFFFF)) →
      ∃ h, (setShared s g n w).group? g.gid = some h ∧ ∀ x, sysReg (setShared s g n w) h n x = w &&& mask) ∧
    ∀ (x : Lane) n mask, ((n = 0x110 ∧ mask = 0x1F) ∨ (n = 0x147 ∧ mask = 0xFFFFFFFF) ∨ (n = 0x148 ∧ mask = 0xFFFFFFFF) ∨
        (0x181 ≤ n ∧ n ≤ 0x184 ∧ mask = 0xFFFFFFFF)) →
      sysReg s g n (x.setSys n w) = w &&& mask ∧ sysReg s g 0x185 (x.setSys 0x185 w) = (w &&& 0xFFFFFFFF) ||| 1

/-- R343, R365, R370, R405: the image registers: in their handler, at an address aligned to 4 KiB, with the engine stopped and not
another block's, the image translated and nothing in the way, the group's earlier writes are performed (at sys.bsave those of
every writer of the block's banks) and the image is written or loaded; in another handler they raise the protection fault, at
another address the misaligned-address fault. -/
def Clauses.ImageRegisters : Prop :=
  ∀ (s : State) (g : Group) (f : GAForm) (l : Nat) (rest : List Nat) (base : DWord), executing s g f.g = l :: rest →
    base = (g.lane l).pair f.a.toNat →
    let bsave := fun (s : State) (g : Group) (base : DWord) => match s.block? g.bid with
      | some b =>
        let t := performWhere s (toBank b)
        (blockImage t b).foldl (fun s r => imagePut s g base r) t
      | none => s
    ∀ e ∈ ([
      (.syswGsave f, .save, true, none, [g.gid], [(0, 4096)], saveGroup),
      (.syswGload f, .restore, false, none, [g.gid], [(0, 4096)], fun s g base => s.updGroup g.gid (loadGroup s base)),
      (.syswBsave f, .save, true, none, bankWriters s g, blockSpans s g, bsave),
      (.syswBload f, .restore, false, none, [g.gid], blockSpans s g, loadBlock),
      (.syswEsave f, .save, true, engineStopping s g, [g.gid], [(0, 0x100000)], saveEngine),
      (.syswEload f, .restore, false, engineTaken s g, [g.gid], [(0, 0x100000)], loadEngine)] :
        List (Instr × Priv × Bool × Option Nat × List Nat × List (Nat × Nat) × (State → Group → DWord → State))),
    Clear s g e.1 → g.priv ≠ .user →
      let write := e.2.2.1
      let spans := e.2.2.2.2.2.1
      let addrs := imageAddrs base spans
      let places := imagePlaces s g write addrs
      (g.priv ≠ e.2.1 → exec e.1 s = .next (raiseIn s 0x07 (l :: rest))) ∧
      (g.priv = e.2.1 → base.toNat % 4096 ≠ 0 → exec e.1 s = .next (raiseIn s 0x08 (l :: rest))) ∧
      (∀ r, g.priv = e.2.1 → base.toNat % 4096 = 0 → e.2.2.2.1 = some r → exec e.1 s = .next (stall s r)) ∧
      (g.priv = e.2.1 → base.toNat % 4096 = 0 → e.2.2.2.1 = none → (∀ a ∈ addrs, xlateHeld (s.now g) s g a = none) →
        (∀ x va, imageFault s g write addrs = some (x, va) → exec e.1 s =
          .next (raiseNow s { faultOf s x.cls (l :: rest) [] with recVa := va, write := write })) ∧
        (imageFault s g write addrs = none → imageSwitching s g addrs = false →
          (∀ i ∈ e.2.2.2.2.1, flushBlocked s i g.core (onBoth 3) = none) → (∀ p ∈ places, imageWaits s g write p.1 = false) →
          (write = true ∨ ∀ p ∈ places, poisonedAt s p.1 32 = false ∧ linkCode s p.1 ≠ some 2) →
          exec e.1 s = .next ((e.2.2.2.2.2.2 (flushAll (if write then s else engineTouch s g (places.map (·.1))) g.core
            e.2.2.2.2.1) g base).advance)))

/-- R367: the group image: uniform register k at 8 k, stack entry k at 0x200 + 8 k, depth, restart point, sequence number and
LIGA status from 0x280, of each group barrier the phase and the lanes that have arrived in it from 0x290, the pending barrier wait
at 0x2A0, and the phase it waits for, 0 without one, at 0x2A4. (MIGREL's wait under reason 11, beside it in MigrelResults, is log 14.) -/
def Clauses.GroupImageLayout : Prop :=
  ∀ (g : Group), ∃ bytes : List Byte, (groupImage g).flatMap (·.2) = bytes ∧ bytes.length = 0x2A8 ∧
    (∀ k, k < 64 → ofLeBytes ((bytes.drop (8 * k)).take 8) = (g.ureg k).toNat) ∧
    (∀ k, k < 16 → ofLeBytes ((bytes.drop (0x200 + 8 * k)).take 8) = (vget 0 g.trap.tj k).toNat) ∧
    ofLeBytes ((bytes.drop 0x280).take 4) = g.trap.tdepth.toNat ∧ ofLeBytes ((bytes.drop 0x284).take 4) = g.trap.trestart.toNat ∧
    ofLeBytes ((bytes.drop 0x288).take 4) = g.seq.toNat ∧ ofLeBytes ((bytes.drop 0x28C).take 4) = g.trap.stat % 2 ^ 32 ∧
    (∀ k, k < 2 →
      let b := vget Bar.reset g.gbar k
      ofLeBytes ((bytes.drop (0x290 + 8 * k)).take 4) = b.phase % 2 ^ 32 ∧
      ∀ l, l < 32 → ((ofLeBytes ((bytes.drop (0x294 + 8 * k)).take 4)).testBit l = true ↔ ∃ a ∈ b.arrived, a.member = l)) ∧
    ofLeBytes ((bytes.drop 0x2A0).take 4) = g.trap.tbarw.toNat ∧
    ofLeBytes ((bytes.drop 0x2A4).take 4) = if g.trap.tbarw.getLsbD 31 then g.trap.phase % 2 ^ 32 else 0

/-- R396: SYSW to sys.migrel: once every line of the source frame is copied, and no access on its way keeps a translation to it, the
writes translated to it are performed and its redirects end; other frames keep theirs. Until then it waits under reason 11, the
model's choice (log 14). -/
def Clauses.MigrelResults : Prop :=
  ∀ (s : State) (g : Group) (f : GAForm) (l : Nat) (rest : List Nat), Clear s g (.syswMigrel f) → g.priv ≠ .user →
    executing s g f.g = l :: rest →
    let pa := ((g.lane l).pair f.a.toNat).toNat % 2 ^ 52 / 8192 * 8192
    ((∃ m ∈ s.migr, ∃ x ∈ m.lines, inFrame pa x.1 = true ∧ x.2.2 = false) → exec (.syswMigrel f) s = .next (stall s 11)) ∧
    (pinnedIn s pa = true → exec (.syswMigrel f) s = .next (stall s 11)) ∧
    ((∀ m ∈ s.migr, ∀ x ∈ m.lines, inFrame pa x.1 = true → x.2.2 = true) → pinnedIn s pa = false →
      (∀ e ∈ s.sq ++ s.wp, entryIn pa e = true → ∀ p ∈ e.places, writeWaits s (s.detTag e.lid e.bidx) p 1 = false) →
      ∃ t, exec (.syswMigrel f) s = .next t ∧ (∀ e ∈ t.sq ++ t.wp, entryIn pa e = false) ∧
        (∀ m ∈ t.migr, ∀ x ∈ m.lines, inFrame pa x.1 = false) ∧
        ∀ m ∈ s.migr, ∀ x ∈ m.lines, inFrame pa x.1 = false → ∃ m' ∈ t.migr, x ∈ m'.lines)

/-! ## Barriers -/

/-- R47, R162, R164, R170, R173, R375: the checks of the barrier instructions in their order: a transaction, the whole group above
group level (for BARC the model's reading, log 29), the number; the misuse fault carries level and number. -/
def Clauses.BarrierChecks : Prop :=
  ∀ (s : State) (g : Group) (gd : Guard) (level : BitVec 2) (num : BitVec 4) (mx : Bool) (p : BitVec 5) (u : BitVec 6) (l : Launch),
    ∀ i ∈ [Instr.bara { g := gd, level := level, num := num }, .barw { g := gd, mx := mx, level := level, num := num },
      .bars { g := gd, level := level, num := num, p := p }, .barc { g := gd, level := level, num := num, s := u }],
    Clear s g i → GuardAll s g gd → s.launch? g.lid = some l →
    let tx := s.iss.active.filter fun l => (g.lane l).inTx
    let whole := ∀ l, l < 32 → (g.lane l).st ≠ .exited → l ∈ s.iss.active
    (tx ≠ [] → exec i s = .next (raiseIn s 0x0C tx)) ∧
    (tx = [] → level ≠ 0 → ¬ whole → exec i s = .next (raiseAll s 0x02)) ∧
    (tx = [] → (level = 0 ∨ whole) → barrierCount l level.toNat ≤ num.toNat → ∃ r : Raise,
      exec i s = .next (raiseNow s r) ∧ r.cls = 0x0D ∧ r.info.extractLsb' 16 6 = level ++ num ∧
      ∀ k, k < 32 → (r.mask.getLsbD k = true ↔ k ∈ s.iss.active))

/-- R164, R167: BARA records the arrivals with the release of the level; a member that has arrived in the phase already is
misuse. -/
def Clauses.ArrivalResults : Prop :=
  ∀ (s : State) (g : Group) (f : BarForm), Clear s g (.bara f) → GuardAll s g f.g → BarReady s g f.level f.num →
    let members := if f.level = 0 then s.iss.active else [memberOf s g f.level.toNat 0]
    let here := fun m => (barOf s g f.level.toNat f.num.toNat).arrived.any fun a => a.member == m
    ((∀ m ∈ members, here m = false) → (f.level = 0 ∨ flushBlocked s g.gid g.core (onL f.level.toNat) = none) →
      Advances (arrive (barRelease s g f.level.toNat) g f.level.toNat f.num.toNat members false) (exec (.bara f) s)) ∧
    ((∃ m ∈ members, here m = true) → exec (.bara f) s = .next (barMisuse s
      (if f.level = 0 then s.iss.active.filter here else s.iss.active) f.level f.num))

/-- R163, R164, R166: an arrival that leaves no member out, while the byte counter is not positive, begins the next phase of the
barrier; any other is added to the phase's arrivals. -/
def Clauses.BarrierPhase : Prop :=
  ∀ (s : State) (g : Group) (level num : Nat) (members : List Nat) (bars : Bool), level < 4 → BarExists s g level num →
    let b := barOf s g level num
    let c := barOf (arrive s g level num members bars) g level num
    let here := b.arrived.map Arrival.member ++ members
    let complete := here ≠ [] ∧ b.count ≤ 0 ∧ ∀ m ∈ barMembers s g level, m ∈ here
    c.count = b.count ∧
    (complete → c.phase = b.phase + 1 ∧ c.arrived = []) ∧
    (¬ complete → c.phase = b.phase ∧ c.last = b.last ∧
      c.arrived = b.arrived ++ members.map fun m => { member := m, bars := bars, at_ := s.clock })

/-- R163, R164, R165: BARW waits for the phase of the member's arrival, or goes on when it is over; BARS arrives and waits; at group
level neither waits: a lane whose phase is not over, or a BARS under which a member has neither arrived nor arrives, is misuse. A
BARW without a recorded arrival, and a BARS after an arrival in the phase, are misuse at every level. -/
def Obligations.WaitResults : Prop :=
  ∀ (s : State) (g : Group),
    (∀ f : BarwForm, Clear s g (.barw f) → GuardAll s g f.g → BarReady s g f.level f.num →
      let b := barOf s g f.level.toNat f.num.toNat
      (f.level = 0 → f.mx = false → (∀ l ∈ s.iss.active, ∃ p, arrPhase b l = some p ∧ p < b.phase) →
        Advances s (exec (.barw f) s)) ∧
      (f.level = 0 → (f.mx = true ∨ ∃ l ∈ s.iss.active, ∀ p, arrPhase b l = some p → b.phase ≤ p) →
        ∃ ls, ls ≠ [] ∧ exec (.barw f) s = .next (barMisuse s ls f.level f.num)) ∧
      (f.level ≠ 0 → arrPhase b (memberOf s g f.level.toNat 0) = none →
        exec (.barw f) s = .next (barMisuse s s.iss.active f.level f.num)) ∧
      (f.level ≠ 0 → ∀ p, arrPhase b (memberOf s g f.level.toNat 0) = some p → barCopyFault s g f.level f.num = none →
        let w : BarWait := { bars := false, mx := f.mx, p := 0, level := f.level, num := f.num, phase := p }
        let u := s.updGroup g.gid fun h => { h with hold := { h.hold with bar := some w } }
        (b.phase ≤ p → Advances u (exec (.barw f) s)) ∧
        (p < b.phase → ∃ v h, ThreadsBecome u v (fun _ x => { x with pc := s.nextPc }) ∧ v.cur = some h ∧
          exec (.barw f) s = .next (endWait v h w)))) ∧
    ∀ f : BarsForm, Clear s g (.bars f) → GuardAll s g f.g → BarReady s g f.level f.num →
      let b := barOf s g f.level.toNat f.num.toNat
      (f.level = 0 → (∀ l ∈ s.iss.active, arrivedNow b l = false) →
        (∀ l ∈ barMembers s g 0, l ∈ s.iss.active ∨ arrivedNow b l = true) →
        let u := arrive s g 0 f.num.toNat s.iss.active true
        ∃ t, exec (.bars f) s = .next t ∧ ThreadsBecome u t fun l x =>
          { x.setPred f.p ((barOf u g 0 f.num.toNat).last == some l) with pc := s.nextPc }) ∧
      (f.level = 0 → (∃ l ∈ s.iss.active, arrivedNow b l = true) →
        exec (.bars f) s = .next (barMisuse s (s.iss.active.filter (arrivedNow b)) f.level f.num)) ∧
      (f.level = 0 → (∀ l ∈ s.iss.active, arrivedNow b l = false) →
        (∃ l ∈ barMembers s g 0, l ∉ s.iss.active ∧ arrivedNow b l = false) →
        exec (.bars f) s = .next (barMisuse s s.iss.active f.level f.num)) ∧
      (f.level ≠ 0 → arrivedNow b (memberOf s g f.level.toNat 0) = true →
        exec (.bars f) s = .next (barMisuse s s.iss.active f.level f.num)) ∧
      (f.level ≠ 0 → arrivedNow b (memberOf s g f.level.toNat 0) = false → barCopyFault s g f.level f.num = none →
        flushBlocked s g.gid g.core (onL f.level.toNat) = none →
        exec (.bars f) s = .next (startWait
          (arrive (barRelease s g f.level.toNat) g f.level.toNat f.num.toNat [memberOf s g f.level.toNat 0] true) g
          { bars := true, mx := false, p := f.p, level := f.level, num := f.num, phase := b.phase }))

/-- R166: BARC adds bits 39:0 of its register to a block barrier's counter; more than 40 bits, another level, or a sum beyond the
signed 48-bit range is misuse. -/
def Clauses.ByteCountResults : Prop :=
  ∀ (s : State) (g : Group) (f : BarcForm), Clear s g (.barc f) → GuardAll s g f.g → BarReady s g f.level f.num →
    let v := (g.ureg f.s.toNat).toNat
    let c := (barOf s g 1 f.num.toNat).count
    (f.level = 1 → v < 2 ^ 40 → c + v < 2 ^ 47 →
      Advances (updBar s g 1 f.num.toNat fun b => { b with count := c + v }) (exec (.barc f) s)) ∧
    ((f.level ≠ 1 ∨ 2 ^ 40 ≤ v ∨ 2 ^ 47 ≤ c + v) → exec (.barc f) s = .next (barMisuse s s.iss.active f.level f.num))

/-! ## Memory -/

/-- R138, R144, R406: a load without transaction: each executing thread gets the bytes of its own address, zero- or sign-extended
to 32 bits, or 8 bytes into the pair; nothing else changes but the lines the device cache takes for host and pool memory. -/
def Obligations.LoadResults : Prop :=
  ∀ (s : State) (g : Group) (m : Option Mod) (gd : Guard) (d b : BitVec 6) (size order : BitVec 2) (scope : BitVec 3) (disp : Word)
    (place : Nat → Place),
    ∀ e ∈ ([
      (.ld { m := m, g := gd, d := d, b := b, size := size, order := order, scope := scope }, 0, false),
      (.ldDisp { m := m, g := gd, d := d, b := b, size := size, order := order, scope := scope, disp := disp }, disp, false),
      (.ldSext { m := m, g := gd, d := d, b := b, size := size, order := order, scope := scope, disp := disp }, disp, true)] :
        List (Instr × Word × Bool)),
    Clear s g e.1 → Direct s g → Unlogged s g gd →
    (∀ k ∈ executing s g gd, Reaches s g (readNeed g) (2 ^ size.toNat)
        (pairA g m (threadLane s g k) b + e.2.1.signExtend 64) (place k) ∧
      waitsHome s (place k) (2 ^ size.toNat) false = false ∧ redPending s g.gid (place k) (2 ^ size.toNat) = false ∧
      poisonedAt s (place k) (2 ^ size.toNat) = false ∧ linkCode s (place k) ≠ some 2) →
    let u := (executing s g gd).foldl (fun u k => touchLine u g (place k)) s
    ∃ t, exec e.1 s = .next t ∧ ThreadsBecome u t fun k x =>
      let n := loadNum u g (u.groupTag g) (place k) (2 ^ size.toNat)
      { (if guardTrue gd x then
          if size = 3 then x.setPair d.toNat (BitVec.ofNat 64 n)
          else x.setReg d.toNat (if e.2.2 then (BitVec.ofNat (8 * 2 ^ size.toNat) n).signExtend 32 else BitVec.ofNat 32 n)
        else x) with pc := s.nextPc }

/-- R145, R146: a store without transaction: the group's own later loads see each byte of the executing threads, the highest
thread's where several write one, and every other byte as before; the write waits in the store queue, and no other viewer sees
it yet. -/
def Obligations.StoreResults : Prop :=
  ∀ (s : State) (g : Group) (m : Option Mod) (gd : Guard) (d b : BitVec 6) (size order : BitVec 2) (scope : BitVec 3) (disp : Word)
    (place : Nat → Place),
    ∀ e ∈ ([
      (.st { m := m, g := gd, d := d, b := b, size := size, order := order, scope := scope }, 0),
      (.stDisp { m := m, g := gd, d := d, b := b, size := size, order := order, scope := scope, disp := disp }, disp)] :
        List (Instr × Word)),
    Clear s g e.1 → Direct s g → Unlogged s g gd →
    (∀ k ∈ executing s g gd, Reaches s g (writeNeed g) (2 ^ size.toNat)
      (pairA g m (threadLane s g k) b + e.2.signExtend 64) (place k)) →
    ∃ t new u, exec e.1 s = .next t ∧ u = { s with sq := s.sq ++ new, nextId := s.nextId + new.length } ∧
      ThreadsBecome u t (fun _ x => { x with pc := s.nextPc }) ∧
      (∀ q ∈ new, q.gid = g.gid ∧ q.core = g.core ∧ q.vis = 0 ∧ q.sync = (order != 0) ∧ q.rel = (order == 2)) ∧
      ∀ p : Place,
        (∀ k o, k ∈ executing s g gd → o < 2 ^ size.toNat → (place k).plus o = p →
          (∀ k' o', k' ∈ executing s g gd → o' < 2 ^ size.toNat → (place k').plus o' = p → k' ≤ k) →
          loadByte u g (s.groupTag g) p = (dataOf size (threadLane s g k) d).extractLsb' (8 * o) 8) ∧
        ((∀ k o, k ∈ executing s g gd → o < 2 ^ size.toNat → (place k).plus o ≠ p) →
          loadByte u g (s.groupTag g) p = loadByte s g (s.groupTag g) p)

/-- R141, R148, R150, R151, R293: an atomic outside a deterministic launch: the group's queue is emptied, a release makes what the
group has been shown visible on each path the threads take, at the scope, of which the Case acts on the cluster at most; then the executing
threads act one after another in rising order (for different words the model's order, log 64), each returning the old value of
its word, and one that writes nothing still takes its line of host or pool memory. -/
def Clauses.AtomicResults : Prop :=
  ∀ (s : State) (g : Group) (m : Option Mod) (gd : Guard) (d b v c : BitVec 6) (size order : BitVec 2) (scope : BitVec 3) (op : BitVec 4)
    (un : Bool) (place : Nat → Place),
    ∀ e ∈ ([
      (.atom { m := m, g := gd, d := d, b := b, size := size, order := order, scope := scope, val := v, u := un, op := op }, op, un, none),
      (.atomCas { m := m, g := gd, d := d, b := b, size := size, order := order, scope := scope, val := v, cmp := c }, 7, false, some c)] :
        List (Instr × BitVec 4 × Bool × Option (BitVec 6))),
    Clear s g e.1 → Direct s g → Unlogged s g gd → s.groupTag g = none → executing s g gd ≠ [] →
    let reach := fun (x : Bool) => if order.getLsbD 1 then
      ((executing s g gd).filter fun k => (lanePath (place k) == 4) == x).foldl (fun w k => max w (match place k with
        | .mem _ => scope.toNat
        | .case _ => min scope.toNat 2)) 0 else 0
    flushBlocked s g.gid g.core reach = none →
    (∀ k ∈ executing s g gd, Reaches s g (rmwNeed g) (2 ^ size.toNat) (pairA g m (threadLane s g k) b) (place k) ∧
      waitsHome s (place k) (2 ^ size.toNat) true = false ∧ poisonedAt s (place k) (2 ^ size.toNat) = false ∧
      linkCode s (place k) ≠ some 2) →
    let n := 2 ^ size.toNat
    let release := fun (x : Bool) (u : State) => showWhere u (reach x) fun q => q.shownOn g.gid g.core x
    let released := release true (release false (drainQueue s g.gid))
    let one := fun (z : State × (Nat → Nat)) k =>
      let w := performWhere z.1 fun q => (List.range n).any fun o => q.covers ((place k).plus o)
      let old := placeNum w none (place k) n
      let x := dataOf size (threadLane s g k) v
      let y := match e.2.2.2 with
        | some r => dataOf size (threadLane s g k) r
        | none => 0
      let r := atomOp e.2.1.toNat e.2.2.1 n old (x.toNat % 2 ^ (8 * n)) (y.toNat % 2 ^ (8 * n))
      let by_ := some (w.writerOf g s.iss.addr 0 (pairA g m (threadLane s g k) b))
      ((if r.2 then (writeHome w none (coreDie g.core) by_ (place k) (numBytes n r.1)).updGroup g.gid
          (fun h => { h with stallCnt := 0 }) else match place k with
            | .mem key => l3Write w (coreDie g.core) by_ key
            | .case _ => w), fun j => if j = k then old else z.2 j)
    let last := (executing s g gd).foldl one (released, fun _ => 0)
    ∃ t, exec e.1 s = .next t ∧ ThreadsBecome last.1 t fun k x =>
      { (if guardTrue gd x then
          if size = 3 then x.setPair d.toNat (BitVec.ofNat 64 (last.2 k)) else x.setReg d.toNat (BitVec.ofNat 32 (last.2 k))
        else x) with pc := s.nextPc }

/-- R150: the atomic operations on words and doublewords: the value written, and that only a compare that fails writes nothing. -/
def Clauses.AtomicOperations : Prop :=
  (∀ m x c : Word,
    let f := fun op un => atomOp op un 4 m.toNat x.toNat c.toNat
    f 0 false = ((m + x).toNat, true) ∧ f 1 false = ((if x.slt m then x else m).toNat, true) ∧
    f 2 false = ((if m.slt x then x else m).toNat, true) ∧ f 1 true = ((if x < m then x else m).toNat, true) ∧
    f 2 true = ((if m < x then x else m).toNat, true) ∧ f 3 false = ((m &&& x).toNat, true) ∧ f 4 false = ((m ||| x).toNat, true) ∧
    f 5 false = ((m ^^^ x).toNat, true) ∧ f 6 false = (x.toNat, true) ∧ f 7 false = (if m = c then (x.toNat, true) else (m.toNat, false)) ∧
    f 8 false = ((addF32 m x).1.toNat, true) ∧ f 9 false = ((minmaxF32 false m x).1.toNat, true) ∧
    f 10 false = ((minmaxF32 true m x).1.toNat, true)) ∧
  ∀ m x c : DWord,
    let f := fun op un => atomOp op un 8 m.toNat x.toNat c.toNat
    f 0 false = ((m + x).toNat, true) ∧ f 1 false = ((if x.slt m then x else m).toNat, true) ∧
    f 2 false = ((if m.slt x then x else m).toNat, true) ∧ f 1 true = ((if x < m then x else m).toNat, true) ∧
    f 2 true = ((if m < x then x else m).toNat, true) ∧ f 3 false = ((m &&& x).toNat, true) ∧ f 4 false = ((m ||| x).toNat, true) ∧
    f 5 false = ((m ^^^ x).toNat, true) ∧ f 6 false = (x.toNat, true) ∧ f 7 false = if m = c then (x.toNat, true) else (m.toNat, false)

/-- R148, R152: a reduction outside a deterministic launch is queued, one entry for each executing thread in rising order, with
its operation, size and operand; it returns nothing. -/
def Clauses.ReductionResults : Prop :=
  ∀ (s : State) (g : Group) (f : RedForm) (place : Nat → Place), Clear s g (.red f) → Direct s g → Unlogged s g f.g →
    s.groupTag g = none →
    (∀ k ∈ executing s g f.g, Reaches s g (writeNeed g) (2 ^ f.size.toNat) (pairA g f.m (threadLane s g k) f.b) (place k)) →
    ∃ t new u, exec (.red f) s = .next t ∧ u = { s with sq := s.sq ++ new, nextId := s.nextId + new.length } ∧
      ThreadsBecome u t (fun _ x => { x with pc := s.nextPc }) ∧
      new.map (fun q => (q.gid, q.place, q.kind, q.vis)) = (executing s g f.g).map fun k =>
        (g.gid, place k, WriteKind.red f.op f.u (2 ^ f.size.toNat) (dataOf f.size (threadLane s g k) f.d), 0)

/-- R142, R173, R178: a misaligned access raises the misaligned-address fault before any translation, in the threads whose
address is not a multiple of the size, with those addresses; no thread has moved and nothing is accessed. -/
def Clauses.AlignmentFaults : Prop :=
  ∀ (s : State) (g : Group) (m : Option Mod) (gd : Guard) (d b v : BitVec 6) (size order : BitVec 2) (scope : BitVec 3) (disp : Word)
    (op : BitVec 4) (un : Bool),
    ∀ e ∈ ([
      (.ld { m := m, g := gd, d := d, b := b, size := size, order := order, scope := scope }, 0),
      (.ldDisp { m := m, g := gd, d := d, b := b, size := size, order := order, scope := scope, disp := disp }, disp),
      (.ldSext { m := m, g := gd, d := d, b := b, size := size, order := order, scope := scope, disp := disp }, disp),
      (.st { m := m, g := gd, d := d, b := b, size := size, order := order, scope := scope }, 0),
      (.stDisp { m := m, g := gd, d := d, b := b, size := size, order := order, scope := scope, disp := disp }, disp),
      (.atom { m := m, g := gd, d := d, b := b, size := size, order := order, scope := scope, val := v, u := un, op := op }, 0),
      (.atomCas { m := m, g := gd, d := d, b := b, size := size, order := order, scope := scope, val := v, cmp := v }, 0),
      (.red { m := m, g := gd, d := d, b := b, size := size, order := order, scope := scope, u := un, op := op }, 0)] :
        List (Instr × Word)),
    Clear s g e.1 → Direct s g → Unlogged s g gd → (s.iss.helper = true → s.groupTag g = none) →
    let ea := fun k => pairA g m (threadLane s g k) b + e.2.signExtend 64
    let odd := (executing s g gd).filter fun k => (ea k).toNat % 2 ^ size.toNat != 0
    (∀ k ∈ executing s g gd, Walkable s g (ea k) ∧
      ∀ c n o own, classify s g (ea k) = .caseAt c n o own → (s.bank c n).switch = none) → odd ≠ [] →
    ∃ r : Raise, exec e.1 s = .next (raiseNow s r) ∧ r.cls = 0x08 ∧ r.addr = s.iss.addr ∧ r.deferred = false ∧
      r.vas = odd.map (fun k => (k, ea k)) ∧ ∀ k, k < 32 → (r.mask.getLsbD k = true ↔ k ∈ odd)

/-- R139, R140, R384: the class of an effective address: from 2^57 on none; the top 16 MiB below it the Case, first the block's own
banks, then the cluster's, the rest none; below that the heap window where the address lies in it, and else a page. -/
def Clauses.AddressClasses : Prop :=
  ∀ (s : State) (g : Group) (ea : DWord),
    let a := ea.toNat
    let top := 2 ^ 57 - 2 ^ 24
    let c := s.ctx g.ctx
    (2 ^ 57 ≤ a → classify s g ea = .bad) ∧
    (top + 2 ^ 23 ≤ a → a < 2 ^ 57 → classify s g ea = .bad) ∧
    (top ≤ a → a < top + 2 ^ 22 → ∀ b, s.block? g.bid = some b →
      (∀ k, b.banks[(a - top) / 2 ^ 16]? = some k → classify s g ea = .caseAt (g.core / 4) k (a % 2 ^ 16) true) ∧
      (b.banks[(a - top) / 2 ^ 16]? = none → classify s g ea = .bad)) ∧
    (top + 2 ^ 22 ≤ a → a < top + 2 ^ 23 →
      let k := (a - top - 2 ^ 22) / 2 ^ 16
      (clusterViewOk s g k = true → classify s g ea = .caseAt (g.core / 4) k (a % 2 ^ 16) false) ∧
      (clusterViewOk s g k = false → classify s g ea = .bad)) ∧
    (a < top →
      let inside := c.heapbase.toNat / 2 ^ 23 * 2 ^ 23 ≤ a ∧ a < c.heaplim.toNat / 2 ^ 23 * 2 ^ 23
      (inside → classify s g ea = .heap ((a + c.heapoff.toNat / 2 ^ 23 * 2 ^ 23) % 2 ^ 52)) ∧
      (¬ inside → classify s g ea = .paged))

/-- R283, R380, R381, R383: the walk of a paged address: 4 bits index the top table and 10 bits each table below; an entry that is
not valid fails translation, one that is no leaf leads to its table, a leaf above level 2 is a protection fault; the page of a
leaf of level l has 13 + 10 l address bits. With no write on its way and no page copy, an entry is the 8 bytes in memory. -/
def Clauses.PageWalk : Prop :=
  ∀ (s : State) (g : Group) (va level table : Nat), level ≤ 4 →
    let a := table + 8 * (if level = 4 then va / 2 ^ 53 % 2 ^ 4 else va / 2 ^ (13 + 10 * level) % 2 ^ 10)
    let e := tableEntry s g a
    let leaf := fun n => (leafOf e n).map fun l => { l with entry := a }
    (s.sq = [] → s.wp = [] → s.migr = [] → e = physNum s a 8) ∧
    (e % 2 = 0 → walk s g va level table = .error .translation) ∧
    (e % 2 = 1 → level = 0 → walk s g va level table = leaf 0) ∧
    (e % 2 = 1 → 0 < level → e / 2 % 2 = 1 →
      walk s g va level table = if level ≤ 2 then leaf level else .error .protection) ∧
    (e % 2 = 1 → 0 < level → e / 2 % 2 = 0 →
      let next := e % 2 ^ 52 / 2 ^ 13 * 2 ^ 13
      walk s g va level table = if e = next + 1 ∧ inHbm next = true then walk s g va (level - 1) next else .error .protection) ∧
    ∀ l : Leaf, leafOf e level = .ok l → l.bits = 13 + 10 * level ∧ l.base % 2 ^ l.bits = 0 ∧
      (l.r = e.testBit 2 ∧ l.w = e.testBit 3 ∧ l.x = e.testBit 4 ∧ l.u = e.testBit 5) ∧ l.home < 4

/-- R386, R387, R388: a memory instruction of a user group whose translation fails in some threads enters the operand log with
them, and the active threads go on; in a handler or in helper code the translation fault is raised at once. (FETCH is in
FountCommands.) -/
def Clauses.TranslationFaults : Prop :=
  ∀ (s : State) (g : Group) (m : Option Mod) (gd : Guard) (d b v c n : BitVec 6) (size order : BitVec 2) (scope : BitVec 3) (disp : Word)
    (op : BitVec 4) (un : Bool),
    let ea := fun (x : Word) k => pairA g m (threadLane s g k) b + x.signExtend 64
    let base := fun k => (threadLane s g k).pair b.toNat
    let len := fun k => ((threadLane s g k).reg d.toNat).toNat
    let fits := fun (at_ : Nat → DWord) k => (at_ k).toNat % 2 ^ size.toNat == 0
    let range := fun k => (base k).toNat % 32 == 0 && len k % 32 == 0 && decide (len k ≤ 1048576) && classify s g (base k) == .paged
    let pages := fun k => rangePages (base k) (len k)
    ∀ e ∈ ([
      (.ld { m := m, g := gd, d := d, b := b, size := size, order := order, scope := scope }, readNeed g, d.toNat,
        fun k => [ea 0 k], fits (ea 0)),
      (.ldDisp { m := m, g := gd, d := d, b := b, size := size, order := order, scope := scope, disp := disp }, readNeed g, d.toNat,
        fun k => [ea disp k], fits (ea disp)),
      (.ldSext { m := m, g := gd, d := d, b := b, size := size, order := order, scope := scope, disp := disp }, readNeed g, d.toNat,
        fun k => [ea disp k], fits (ea disp)),
      (.st { m := m, g := gd, d := d, b := b, size := size, order := order, scope := scope }, writeNeed g, 0,
        fun k => [ea 0 k], fits (ea 0)),
      (.stDisp { m := m, g := gd, d := d, b := b, size := size, order := order, scope := scope, disp := disp }, writeNeed g, 0,
        fun k => [ea disp k], fits (ea disp)),
      (.atom { m := m, g := gd, d := d, b := b, size := size, order := order, scope := scope, val := v, u := un, op := op },
        rmwNeed g, d.toNat, fun k => [ea 0 k], fits (ea 0)),
      (.atomCas { m := m, g := gd, d := d, b := b, size := size, order := order, scope := scope, val := v, cmp := c },
        rmwNeed g, d.toNat, fun k => [ea 0 k], fits (ea 0)),
      (.red { m := m, g := gd, d := d, b := b, size := size, order := order, scope := scope, u := un, op := op }, writeNeed g, 0,
        fun k => [ea 0 k], fits (ea 0)),
      (.cwb { m := m, g := gd, scope := scope, b := b }, readNeed g, 0, fun k => [ea 0 k], fun _ => true),
      (.cinv { m := m, g := gd, b := b }, readNeed g, 0, fun k => [ea 0 k], fun _ => true),
      (.ldv { g := gd, d := d, b := b, size := size, n := n }, impNeed false g, d.toNat, fun k => [base k], fits base),
      (.stv { g := gd, d := d, b := b, size := size, n := n }, impNeed true g, 0, fun k => [base k], fits base),
      (.vprobe { g := gd, d := d, b := b, n := n }, impNeed false g, d.toNat, fun k => [base k], fun _ => true),
      (.sealv { g := gd, d := d, b := b, n := n }, impNeed true g, 0, pages, range),
      (.floorv { g := gd, d := d, b := b, n := n }, impNeed true g, 0, pages, range)] :
        List (Instr × Need × Nat × (Nat → List DWord) × (Nat → Bool))),
    Clear s g e.1 → Direct s g → Unlogged s g gd → (s.iss.helper = true → s.groupTag g = none) →
    let fails := (executing s g gd).filterMap fun k => ((e.2.2.2.1 k).find? fun a =>
      xlate s g e.2.1 a matches .error .translation).map fun a => (k, a)
    (∀ k ∈ executing s g gd, e.2.2.2.2 k = true ∧
      ∀ a ∈ e.2.2.2.1 k, classify s g a = .paged ∧ Walkable s g a) → fails ≠ [] →
    (g.priv = .user → s.iss.helper = false → ∃ t h, exec e.1 s = .next t ∧ t.cur = some h ∧
      { t with groups := s.groups, cores := s.cores } = s ∧ h.u = g.u ∧ (∀ k, k < 32 → k ∉ s.iss.active → h.lane k = g.lane k) ∧
      (∃ o : MemOp, h.fl.opLog = g.fl.opLog ++ [o] ∧ o.fails = fails ∧ o.pc = s.iss.addr ∧
        o.threads.map MemThread.t = executing s g gd ∧ o.dst = e.2.2.1) ∧
      ∀ k ∈ s.iss.active, h.lane k = { g.lane k with pc := s.nextPc }) ∧
    (g.priv ≠ .user ∨ s.iss.helper = true → openOps g = none → ∃ u r, exec e.1 s = .next (raiseNow u r) ∧ r.cls = 0x06 ∧
      r.vas = fails ∧ u.groups = s.groups ∧ u.mem = s.mem)

/-- R147, R277, R394, R399: a write performed at home outside a deterministic launch: its bytes read as written, by every viewer
for whom no version of a deterministic launch stands there, and no other byte of memory changes. -/
def Clauses.HomeWrites : Prop :=
  ∀ (s : State) (die : Nat) (by_ : Option Writer) (key : Nat) (bytes : List (Nat × Byte)), s.Canonical →
    (bytes.map (·.1)).Nodup → (∀ x ∈ bytes, key % 32 + x.1 < 32) → fenced s (redirect s key) = false →
    let t := writeHome s none die by_ (.mem key) bytes
    (∀ o b, (o, b) ∈ bytes → cellGet t.mem (redirect s key + o) = b ∧
      ∀ v, versionByte t v (redirect s key + o) = none → homeByte t v (key + o) = b) ∧
    (∀ a, (∀ x ∈ bytes, a ≠ redirect s key + x.1) → cellGet t.mem a = cellGet s.mem a) ∧
    t.ver = s.ver ∧ t.caseMem = s.caseMem ∧ t.groups = s.groups ∧ t.sq = s.sq ∧ t.wp = s.wp

/-- R154, R287, R289 to R292: a flush at device scope or wider leaves no store of the group in its queue and no write that the group
has been shown on the path behind its home: one its core sees, those of engines that an edge of R292 has shown to lanes among them,
or one of a drain of its own. -/
def Clauses.FlushPerforms : Prop :=
  ∀ (s : State) (gid core scope : Nat) (x : Bool), 3 ≤ scope →
    (∀ e ∈ (flush s gid core scope x).sq, e.gid ≠ gid) ∧
    ∀ e ∈ (flush s gid core scope x).wp, ¬ (e.pathX = x ∧
      (e.seenBy core = true ∨ (e.heldBack = true ∧ e.sync = false ∧ e.gid = gid)))

/-- R154, R155, R156, R292, R322: the fences complete: FENCE and FENCE.SC flush path L at their scope; FENCEX, once no access of
the producing path is open, performs its writes, and ahead of Fount reads empties the Fount's cache; until then it waits. (That
ahead of another path, and on the engines' paths, the writes go as far as their homes whatever the scope is the model's choice,
log 65.) No lane executes: nothing but the advance; an open transaction: transaction misuse. -/
def Clauses.FenceResults : Prop :=
  ∀ (s : State) (g : Group),
    (∀ f : FenceForm, ∀ i ∈ [Instr.fence f, .fenceSc f], Clear s g i →
      (executing s g f.g = [] → Advances s (exec i s)) ∧
      ((∀ k ∈ executing s g f.g, (threadLane s g k).inTx = false) → executing s g f.g ≠ [] → g.fl.walks = [] →
        flushBlocked s g.gid g.core (onL f.scope.toNat) = none → Advances (flush s g.gid g.core f.scope.toNat false) (exec i s)) ∧
      (txLanes s g (executing s g f.g) ≠ [] → exec i s = .next (raiseIn s 0x0C (txLanes s g (executing s g f.g))))) ∧
    ∀ f : FencexForm, Clear s g (.fencex f) →
      (executing s g f.g = [] → Advances s (exec (.fencex f) s)) ∧
      ((∀ k ∈ executing s g f.g, (threadLane s g k).inTx = false) → executing s g f.g ≠ [] →
        ((f.p = 2 ∨ f.p = 3) → copyFault s g (fun _ => true) = none) →
        ((g.fl.walks ≠ [] ∨ pathBusy s g f.p.toNat = true) →
          exec (.fencex f) s = .next (stall s (if f.p = 2 ∨ f.p = 3 then 11 else 3))) ∧
        (g.fl.walks = [] → pathBusy s g f.p.toNat = false → pathBlocked s g f.p.toNat f.q.toNat f.scope.toNat = none →
          let scope := if f.p = f.q then f.scope.toNat else max f.scope.toNat 3
          let u := if f.p = 0 then flush s g.gid g.core scope false else if f.p = 4 then flush s g.gid g.core scope true
            else performWhere s fun q => q.gid == g.gid && q.path == f.p.toNat
          Advances (if f.q = 2 then u.updCluster (g.core / 4) fun c => { c with fcache := [] } else u) (exec (.fencex f) s)))

/-- R157, R158: PREF has no effect; CWB and CINV perform the writes of the cluster to the line frames of the executing threads, as
far as the scope says, and CINV as far as their homes (the model's choice, log 65); CWB at .sys also writes dirty lines of host and
pool memory to their home. -/
def Clauses.CacheControl : Prop :=
  ∀ (s : State) (g : Group),
    (∀ f : PrefForm, Clear s g (.pref f) → Advances s (exec (.pref f) s)) ∧
    ∀ (m : Option Mod) (gd : Guard) (scope : BitVec 3) (b : BitVec 6) (key : Nat → Nat),
      ∀ e ∈ [(Instr.cwb { m := m, g := gd, scope := scope, b := b }, scope.toNat, scope.toNat == 4),
        (.cinv { m := m, g := gd, b := b }, 4, false)],
      Clear s g e.1 → Direct s g → Unlogged s g gd → flushBlocked s g.gid g.core (onL 1) = none →
      (∀ k ∈ executing s g gd, let ea := pairA g m (threadLane s g k) b
        Walkable s g ea ∧ onGalley (s.now g) s g ea = false ∧ ∃ x, xlate s g (readNeed g) ea = .ok x ∧ x.place = .mem (key k)) →
      (executing s g gd = [] → Advances s (exec e.1 s)) ∧
      (executing s g gd ≠ [] →
        let frames := (executing s g gd).map fun k => key k / 256
        let dirty := fun (q : SqEntry) => q.core / 4 == g.core / 4 && frames.any q.inFrame
        let u := showWhere (drainQueue s g.gid) (if e.2.1 = 1 then 0 else e.2.1) dirty
        (3 ≤ e.2.1 → performBlocked s dirty = none ∧ ∀ q ∈ s.sq, q.gid = g.gid → dirty q = true → q.waitPlace s = none) →
        Advances (if e.2.2 then cleanLines u frames else u) (exec e.1 s))

/-- R160, R161, R214: CASEMODE advances once every named bank has completed its switch, or is in its mode and not switching; until
then it starts the switches, once no access uses such a bank, and waits (the stall reasons are the model's, log 52); FPUSH
appends the executing threads' words to their banks' queues in rising order, FPOP takes the oldest; a bank without room, or
without words, makes them wait. -/
def Obligations.CaseBankResults : Prop :=
  ∀ (s : State) (g : Group) (f : CaseForm) (bank : Nat → Nat) (own : Nat → Bool),
    (∀ k ∈ executing s g f.g, bankAt s g (pairA g f.m (threadLane s g k) f.b) = some (bank k, own k)) →
    let clu := g.core / 4
    let ex := executing s g f.g
    (Clear s g (.casemode f) → ex ≠ [] → (∀ k ∈ ex, (threadLane s g k).inTx = false ∧ own k = true) →
      (∀ k ∈ ex, ∃ md, bankMode ((threadLane s g k).reg f.d.toNat).toNat = some md ∧
        (bank k ∈ g.hold.switched.getD [] ∨ ((s.bank clu (bank k)).switch = none ∧ (s.bank clu (bank k)).mode = md))) →
      Advances (s.updGroup g.gid fun h => { h with hold := { h.hold with switched := none } }) (exec (.casemode f) s)) ∧
    (Clear s g (.casemode f) → ex = [] → Advances s (exec (.casemode f) s)) ∧
    (Clear s g (.casemode f) → (∀ k ∈ ex, (threadLane s g k).inTx = false ∧ own k = true ∧ (s.bank clu (bank k)).switch = none) →
      g.hold.switched = none → g.fl.walks = [] → (∀ k ∈ ex, bankInUse s g (bank k) = false) → flushBlocked s g.gid g.core (onL 1) = none → ∀ mode : Nat → BankMode,
      (∀ k ∈ ex, bankMode ((threadLane s g k).reg f.d.toNat).toNat = some (mode (bank k))) →
      (∃ k ∈ ex, (s.bank clu (bank k)).mode ≠ mode (bank k)) → ∃ u, exec (.casemode f) s = .next (stall u 15) ∧
        ∀ k ∈ ex, (s.bank clu (bank k)).mode ≠ mode (bank k) → (u.bank clu (bank k)).switch.isSome = true) ∧
    (Clear s g (.fpush f) → ex ≠ [] → g.fl.walks = [] → flushBlocked s g.gid g.core (onL 1) = none →
      (∀ k ∈ ex, (threadLane s g k).tx.logging = false ∧ (pairA g f.m (threadLane s g k) f.b).toNat % 4 = 0 ∧
        (s.bank clu (bank k)).switch = none ∧ (s.bank clu (bank k)).mode = .fifo) →
      let count := fun b => (ex.filter fun k => bank k == b).length
      let u := drainQueue s g.gid
      let rest := fun (t : State) (h : Group) => ∀ k, k < threadCount s g → k ∉ s.iss.active → threadLane t h k = threadLane s g k
      ((∀ k ∈ ex, (s.bank clu (bank k)).fifo.length + count (bank k) ≤ 16384) → ∃ t h, exec (.fpush f) s = .next t ∧ t.cur = some h ∧
        { t with groups := u.groups, clusters := u.clusters } = u ∧ h.u = g.u ∧ rest t h ∧
        (∀ k ∈ s.iss.active, threadLane t h k = { threadLane s g k with pc := s.nextPc }) ∧
        ∀ b, (t.bank clu b).fifo = (s.bank clu b).fifo ++
          (ex.filter fun k => bank k == b).map fun k => (threadLane s g k).reg f.d.toNat) ∧
      ((∃ k ∈ ex, 16384 < (s.bank clu (bank k)).fifo.length + count (bank k)) → exec (.fpush f) s = .next (stall s 4)) ∧
      ((∀ k ∈ ex, count (bank k) ≤ (s.bank clu (bank k)).fifo.length) → ∃ t h, exec (.fpop f) s = .next t ∧ t.cur = some h ∧
        { t with groups := u.groups, clusters := u.clusters } = u ∧ h.u = g.u ∧ rest t h ∧
        (∀ b, (t.bank clu b).fifo = (s.bank clu b).fifo.drop (count b)) ∧
        (∀ k ∈ s.iss.active, k ∉ ex → threadLane t h k = { threadLane s g k with pc := s.nextPc }) ∧
        ∀ k ∈ ex, threadLane t h k = { (threadLane s g k).setReg f.d.toNat ((s.bank clu (bank k)).fifo.getD
          (ex.filter fun j => bank j == bank k && decide (j < k)).length 0) with pc := s.nextPc }) ∧
      ((∃ k ∈ ex, (s.bank clu (bank k)).fifo.length < count (bank k)) → exec (.fpop f) s = .next (stall s 3)))

/-! ## Transactions and speculation -/

/-- R179, R181, R184, R187: TBEGIN opens a transaction in an executing lane that has none, nests to depth 7, and ends a transaction
nested deeper with reason 7 or, outside deterministic launches, one whose eight attempts are used up with reason 6, at the abort path,
which for reason 6 is the one of this TBEGIN (the model's reading, log 28); lanes in an iteration raise transaction misuse. -/
def Clauses.BeginResults : Prop :=
  ∀ (s : State) (g : Group) (f : TbeginForm), Clear s g (.tbeginVal f) →
    let last := fun (x : Lane) => x.tx.att == 8 && (s.groupTag g).isNone
    ∀ e ∈ [(Instr.tbeginVal f, false), (.tbeginTs f, true)],
      let ex := executing s g f.g
      let path := s.iss.addr + (f.off.signExtend 32 <<< 1)
      (ex = [] → Advances s (exec e.1 s)) ∧
      ((∃ l ∈ ex, (g.lane l).tx.spec = true) → ∃ ls, exec e.1 s = .next (raiseIn s 0x0C ls) ∧
        ∀ l, l ∈ ls ↔ l ∈ ex ∧ (g.lane l).tx.spec = true) ∧
      ((∀ l ∈ ex, (g.lane l).tx.spec = false) → g.fl.walks = [] → flushBlocked s g.gid g.core (onBoth 3) = none → ex ≠ [] →
        let opens := ex.any fun l => !(g.lane l).tx.isOpen && !last (g.lane l)
        let u := if opens then flush (flush s g.gid g.core 3 false) g.gid g.core 3 true else s
        ∃ t h, exec e.1 s = .next t ∧ t.cur = some h ∧ OnlyControl u t ∧
          (∀ l ∈ s.iss.active, l ∉ ex → (h.lane l).pc = s.nextPc ∧ (h.lane l).tx = (g.lane l).tx) ∧
          ∀ l ∈ ex, let x := g.lane l
            let y := h.lane l
            (x.tx.isOpen = false → last x = false → y.pc = s.nextPc ∧ y.tx.isOpen = true ∧ y.tx.depth = 1 ∧ y.tx.ts = e.2 ∧
              y.tx.path = path ∧ y.tx.start = s.iss.addr ∧ y.tx.reads = [] ∧ y.tx.writes = [] ∧ y.tx.held = 0) ∧
            (x.tx.isOpen = false → last x = true → y.pc = path ∧ y.tx.isOpen = false ∧ y.tx.reason = 6 ∧ y.tx.att = 0) ∧
            (x.tx.isOpen = true → x.tx.depth ≠ 7 → y.pc = s.nextPc ∧ y.tx = { x.tx with depth := x.tx.depth + 1 }) ∧
            (x.tx.isOpen = true → x.tx.depth = 7 → y.pc = x.tx.path ∧ y.tx.isOpen = false ∧ y.tx.reason = 7))

/-- R179, R183, R185, R289: TEND leaves a nesting level, or releases at .dev and presents the lanes that end their outermost level
as a batch, those that meet a lower lane's sets aborted with reason 1; TABORT ends the transaction at its abort path with reason 5 and its code; TSTAT
reads the status word; a TEND outside a transaction and a TABORT inside an iteration are transaction misuse. -/
def Clauses.EndAbortStatus : Prop :=
  ∀ (s : State) (g : Group),
    (∀ f : GForm, Clear s g (.tend f) →
      let ex := executing s g f.g
      let outer := ex.filter fun l => decide ((g.lane l).tx.depth ≤ 1)
      (ex = [] → Advances s (exec (.tend f) s)) ∧
      ((∃ l ∈ ex, (g.lane l).tx.isOpen = false) → ∃ ls, exec (.tend f) s = .next (raiseIn s 0x0C ls) ∧
        ∀ l, l ∈ ls ↔ l ∈ ex ∧ (g.lane l).tx.isOpen = false) ∧
      (ex ≠ [] → (∀ l ∈ ex, (g.lane l).tx.isOpen = true) → (outer ≠ [] → flushBlocked s g.gid g.core (onL 3) = none) →
        let u := if outer = [] then s else flush s g.gid g.core 3 false
        ∃ t h, exec (.tend f) s = .next t ∧ t.cur = some h ∧
        OnlyControl { u with batches := t.batches, nextId := t.nextId } t ∧
        (∀ l ∈ ex, 1 < (g.lane l).tx.depth → (h.lane l).pc = s.nextPc ∧ (h.lane l).tx.depth = (g.lane l).tx.depth - 1) ∧
        (∀ l ∈ outer, (l ∈ survivors g outer → (h.lane l).st = .waiting .tend) ∧
          (l ∉ survivors g outer → (h.lane l).tx.isOpen = false ∧ (h.lane l).tx.reason = 1)) ∧
        (outer ≠ [] → ∃ b, t.batches = s.batches ++ [b] ∧ b.kind = .tend ∧ b.gid = g.gid ∧ b.lanes = survivors g outer) ∧
        (outer = [] → t.batches = s.batches))) ∧
    (∀ f : GAForm, Clear s g (.tabort f) →
      let ex := executing s g f.g
      ((∃ l ∈ ex, (g.lane l).tx.spec = true) → ∃ ls, exec (.tabort f) s = .next (raiseIn s 0x0C ls) ∧
        ∀ l, l ∈ ls ↔ l ∈ ex ∧ (g.lane l).tx.spec = true) ∧
      ((∀ l ∈ ex, (g.lane l).tx.spec = false) → ∃ t h, exec (.tabort f) s = .next t ∧ t.cur = some h ∧ OnlyControl s t ∧
        (∀ l ∈ s.iss.active, l ∉ ex → (h.lane l).pc = s.nextPc) ∧
        ∀ l ∈ ex, ((g.lane l).tx.isOpen = false → h.lane l = { g.lane l with pc := s.nextPc }) ∧
          ((g.lane l).tx.isOpen = true → (h.lane l).pc = (g.lane l).tx.path ∧ (h.lane l).tx.isOpen = false ∧
            (h.lane l).tx.reason = 5 ∧ (h.lane l).tx.code = ((g.lane l).reg f.a.toNat).extractLsb' 0 8))) ∧
    ∀ f : GDForm, Clear s g (.tstat f) → Completes s f.g (exec (.tstat f) s) fun _ x => x.setReg f.d.toNat x.tx.status

/-- R183: the survivors of a batch: the lowest lanes first, a lane whose sets meet no survivor's with a write on either side. -/
def Clauses.SurvivorsConflictFree : Prop :=
  ∀ (g : Group) (ls : List Nat), ls.Pairwise (· < ·) →
    let clash := fun (a b : Nat) => ∃ w, ((∃ r ∈ (g.lane a).tx.writes, r.word = w) ∧
        ((∃ r ∈ (g.lane b).tx.reads, r.word = w) ∨ ∃ r ∈ (g.lane b).tx.writes, r.word = w)) ∨
      ((∃ r ∈ (g.lane a).tx.reads, r.word = w) ∧ ∃ r ∈ (g.lane b).tx.writes, r.word = w)
    (∀ a ∈ survivors g ls, a ∈ ls) ∧ (survivors g ls).Pairwise (fun a b => ¬ clash b a) ∧
    ∀ a ∈ ls, a ∉ survivors g ls → ∃ b ∈ survivors g ls, b < a ∧ clash a b

/-- R188, R189, R191: SPBEGIN opens iteration n of the domain whose record its pair names, in lanes with no transaction, where the
record is aligned, in this device's HBM, readable, writable and not poisoned, and n is not behind the token; SPEND makes the
executing lanes wait for the token, with the group's accesses performed at device scope. (That SPBEGIN reads the token past its own
group's store queue is the model's choice between R188 and R286, log 67.) -/
def Clauses.SpeculationResults : Prop :=
  ∀ (s : State) (g : Group),
    (∀ (f : SpbeginForm) (rec_ : Nat → Nat), Clear s g (.spbegin f) → executing s g f.g ≠ [] →
      (∀ l ∈ executing s g f.g, (g.lane l).inTx = false ∧ Walkable s g ((g.lane l).pair f.b.toNat) ∧
        recordAt s g ((g.lane l).pair f.b.toNat) = .ok (rec_ l) ∧
        waitsHome s (.mem (rec_ l)) 4 false = false ∧
        (((g.lane l).reg f.n.toNat) - BitVec.ofNat 32 (domainNext (recallWords s ((executing s g f.g).map rec_)) (rec_ l))).toNat
          < 2 ^ 31) → recallBlocked s ((executing s g f.g).map rec_) = none →
      ∃ t h, exec (.spbegin f) s = .next t ∧ t.cur = some h ∧
        OnlyControl (recallWords s ((executing s g f.g).map rec_)) t ∧
        (∀ l ∈ s.iss.active, l ∉ executing s g f.g → (h.lane l).pc = s.nextPc) ∧
        ∀ l ∈ executing s g f.g, (h.lane l).pc = s.nextPc ∧ (h.lane l).tx.spec = true ∧ (h.lane l).tx.ordered = false ∧
          (h.lane l).tx.iter = (g.lane l).reg f.n.toNat ∧ (h.lane l).tx.domain = rec_ l ∧ (h.lane l).tx.start = s.iss.addr ∧
          (h.lane l).tx.reads = [] ∧ (h.lane l).tx.writes = []) ∧
    (∀ f : SpbeginForm, Clear s g (.spbegin f) →
      let ex := executing s g f.g
      ((∃ l ∈ ex, (g.lane l).inTx = true) → ∃ ls, exec (.spbegin f) s = .next (raiseIn s 0x0C ls)) ∧
      ((∀ l ∈ ex, (g.lane l).inTx = false ∧ Walkable s g ((g.lane l).pair f.b.toNat)) →
        (∃ l ∈ ex, ((g.lane l).pair f.b.toNat).toNat % 32 ≠ 0) → ∃ r : Raise,
        exec (.spbegin f) s = .next (raiseNow s r) ∧ r.cls = 0x08)) ∧
    ∀ f : GForm, Clear s g (.spend f) →
      let ex := executing s g f.g
      (ex = [] → Advances s (exec (.spend f) s)) ∧
      ((∃ l ∈ ex, (g.lane l).tx.spec = false) → ∃ ls, exec (.spend f) s = .next (raiseIn s 0x0C ls)) ∧
      (ex ≠ [] → (∀ l ∈ ex, (g.lane l).tx.spec = true) → g.fl.walks = [] → flushBlocked s g.gid g.core (onL 3) = none → ∃ t,
        exec (.spend f) s = .next t ∧ ThreadsBecome (flush s g.gid g.core 3 false) t fun _ x =>
          if guardTrue f.g x then { x with st := .waiting .spend } else { x with pc := s.nextPc })

/-- R76, R180, R183, R342: the commit of a batch of one lane whose read set still stands, after the writes past their write
points that cover its words are performed: its logged bytes are in memory, it is live after TEND with status 0 and its held
flags merged; where the read set does not stand, nothing is written and the lane aborts with reason 2. -/
def Clauses.CommitResults : Prop :=
  ∀ (s : State) (g : Group) (b : Batch) (l : Nat), s.group? b.gid = some g → b.lanes = [l] → l < 32 →
    let x := g.lane l
    let u := recallWords s x.tx.words
    s.groupTag g = none → x.tx.pend = [] → (∀ y, s.launch? g.lid = some y → y.how = none) →
    (validTx u none x.tx = true → ∃ h, (commitTend s b).group? b.gid = some h ∧ (h.lane l).st = .live ∧
      (h.lane l).pc = x.pc + 4 ∧ (h.lane l).tx.isOpen = false ∧ (h.lane l).tx.reason = 0 ∧
      (h.lane l).fsticky = x.fsticky ||| x.tx.held ∧ h.stallCnt = 0 ∧
      (commitTend s b).mem = (x.tx.writes.foldl (fun u w =>
        writeHome u none (coreDie g.core) (some (u.writerOf g x.pc 0 w.va)) (.mem w.word) w.bytes) u).mem) ∧
    (validTx u none x.tx = false → ∃ h, (commitTend s b).group? b.gid = some h ∧ (commitTend s b).mem = u.mem ∧
      (h.lane l).pc = x.tx.start ∧ (h.lane l).tx.isOpen = false ∧ (h.lane l).tx.reason = 2 ∧
      (h.lane l).tx.att = min 15 (x.tx.att + 1))

/-! ## Impressions -/

/-- R194, R195, R196, R350: LDV outside a transaction: each executing thread whose impression is sealed gets its bytes; the others,
all or some of them, wait with the instruction held as a waiting load. The sectors' lists are loaded, and impressions moved away brought back, thread by
thread. -/
def Clauses.ImpressionLoads : Prop :=
  ∀ (s : State) (g : Group) (f : ImpForm) (at_ : Nat → Xlat), Clear s g (.ldv f) → Direct s g → Unlogged s g f.g →
    let ex := executing s g f.g
    let n := loWord (issuerU s g f.n.toNat)
    let touch := fun (u : State) k => bringBack (loadSector u g (at_ k)).1 g (loadSector u g (at_ k)).2 n
    let found := fun k => (loadSector ((ex.takeWhile (· != k)).foldl touch s) g (at_ k)).2
    let u := ex.foldl touch s
    (∀ k ∈ ex, let ea := (threadLane s g k).pair f.b.toNat
      ea.toNat % 2 ^ f.size.toNat = 0 ∧ classify s g ea = .paged ∧ Walkable s g ea ∧ xlate s g (impNeed false g) ea = .ok (at_ k) ∧
      waitsHome s (at_ k).place (2 ^ f.size.toNat) false = false ∧ sectorPoison s (at_ k) = false ∧ (found k).missing n = false) →
    let ready := fun k => ((found k).find? n).any Imp.isSealed
    let take := fun k (x : Lane) =>
      let v := ofLeBytes (((((found k).find? n).map Imp.bytes).getD []).drop (placeKey (at_ k).place % 32) |>.take (2 ^ f.size.toNat))
      if f.size = 3 then x.setPair f.d.toNat (BitVec.ofNat 64 v) else x.setReg f.d.toNat (BitVec.ofNat 32 v)
    ((∀ k ∈ ex, ready k = true) → ∃ t, exec (.ldv f) s = .next t ∧
      ThreadsBecome u t fun k x => { (if guardTrue f.g x then take k x else x) with pc := s.nextPc }) ∧
    ((∃ k ∈ ex, ready k = false) →
      ∃ t h m, exec (.ldv f) s = .next t ∧ t.cur = some h ∧
        { t with groups := s.groups, cores := s.cores } = { u with groups := s.groups, cores := s.cores } ∧ h.u = g.u ∧
        h.fl.ldvs = g.fl.ldvs ++ [m] ∧ m.dst = f.d.toNat ∧ m.num = n ∧ m.threads.map MemThread.t = ex.filter (fun k => !ready k) ∧
        (∀ k, k < threadCount s g → k ∉ s.iss.active → threadLane t h k = threadLane s g k) ∧
        ∀ k ∈ s.iss.active, threadLane t h k =
          { (if k ∈ ex ∧ ready k = true then take k (threadLane s g k) else threadLane s g k) with pc := s.nextPc })

/-- R194, R195, R350: VPROBE gives each executing thread two words: presence, sealing, absence and moving away of the impression in
bits 0 to 3, before VPROBE brings it back, and the newest sealed one's number. -/
def Clauses.ImpressionProbes : Prop :=
  ∀ (s : State) (g : Group) (f : SealForm) (at_ : Nat → Xlat), Clear s g (.vprobe f) → Direct s g → Unlogged s g f.g →
    let ex := executing s g f.g
    let n := loWord (issuerU s g f.n.toNat)
    let touch := fun (u : State) k => bringBack (loadSector u g (at_ k)).1 g (loadSector u g (at_ k)).2 n
    let found := fun k => (loadSector ((ex.takeWhile (· != k)).foldl touch s) g (at_ k)).2
    (∀ k ∈ ex, let ea := (threadLane s g k).pair f.b.toNat
      classify s g ea = .paged ∧ Walkable s g ea ∧ xlate s g (impNeed false g) ea = .ok (at_ k) ∧
      waitsHome s (at_ k).place 1 false = false) →
    ∃ w : Nat → Word, (∃ t, exec (.vprobe f) s = .next t ∧ ThreadsBecome (ex.foldl touch s) t fun k x =>
        { (if guardTrue f.g x then x.setPair f.d.toNat (pairOf (w k)
            ((((found k).newestSealed fun _ => true).map Imp.n).getD 0)) else x) with pc := s.nextPc }) ∧
      ∀ k ∈ ex, (w k).getLsbD 0 = ((found k).find? n).isSome ∧ (w k).getLsbD 1 = ((found k).find? n).any Imp.isSealed ∧
        (w k).getLsbD 2 = (found k).missing n ∧ (w k).getLsbD 3 = ((found k).find? n).any Imp.spilled ∧ (w k) >>> 4 = 0

/-- R195, R197, R287, R353, R354: STV, SEALV and FLOORV outside a transaction, behind the group's earlier stores: thread by thread,
the bytes go into impression n, which is created where it is absent; the sectors of each range are sealed; the floor is set in
them, after waiting LDVs have taken what is sealed. -/
def Clauses.ImpressionWrites : Prop :=
  ∀ (s : State) (g : Group), Direct s g →
    (∀ (f : ImpForm) (at_ : Nat → Xlat), Clear s g (.stv f) → Unlogged s g f.g → flushBlocked s g.gid g.core (onL 1) = none →
      let ex := executing s g f.g
      let n := loWord (issuerU s g f.n.toNat)
      let ea := fun k => (threadLane s g k).pair f.b.toNat
      let first := drainQueue s g.gid
      let write := fun (u : State) k => stvSector (loadSector u g (at_ k)).1 g (at_ k) n
        ((numBytes (2 ^ f.size.toNat) (dataOf f.size (threadLane s g k) f.d).toNat).map fun b =>
          (placeKey (at_ k).place % 32 + b.1, b.2))
      let found := fun k => loadSector ((ex.takeWhile (· != k)).foldl write first) g (at_ k)
      (ex = [] → Advances s (exec (.stv f) s)) ∧
      (ex ≠ [] → (∀ k ∈ ex, (ea k).toNat % 2 ^ f.size.toNat = 0 ∧ classify s g (ea k) = .paged ∧ Walkable s g (ea k) ∧
          waitsHome s (at_ k).place (2 ^ f.size.toNat) true = false ∧ xlate s g (impNeed true g) (ea k) = .ok (at_ k) ∧ xlate first g (impNeed true g) (ea k) = .ok (at_ k) ∧
          (found k).2.missing n = false ∧ (∀ i, (found k).2.find? n = some i → i.isSealed = false) ∧
          ((found k).2.find? n = none → storeFull (found k).1 g (found k).2 = false)) →
        Advances (progress (ex.foldl write first) g.gid) (exec (.stv f) s))) ∧
    ∀ f : SealForm, Unlogged s g f.g →
      let ex := executing s g f.g
      let n := loWord (issuerU s g f.n.toNat)
      let ea := fun k => (g.lane k).pair f.b.toNat
      let len := fun k => ((g.lane k).reg f.d.toNat).toNat
      (∀ k ∈ ex, (ea k).toNat % 32 = 0 ∧ len k % 32 = 0 ∧ len k ≤ 1048576 ∧ classify s g (ea k) = .paged ∧
        (∀ x ∈ sectorsOf s g (ea k) (len k), waitsHome s x.2.place 32 true = false) ∧
        ∀ a ∈ rangePages (ea k) (len k), classify s g a = .paged ∧ Walkable s g a ∧ ∃ x, xlate s g (impNeed true g) a = .ok x) →
      (Clear s g (.sealv f) → flushBlocked s g.gid g.core (onL 3) = none → ∀ v, ex.foldl (fun u k => u.bind fun u => sealed? u g n (ea k) (len k))
          (some (flush s g.gid g.core 3 false)) = some v →
        Advances (if ex = [] then s else progress v g.gid) (exec (.sealv f) s)) ∧
      (Clear s g (.floorv f) → flushBlocked s g.gid g.core (onL 1) = none →
        let first := drainQueue s g.gid
        let taken := first.groups.foldl (fun u h => closeLig (ldvCapture u h.gid) h.gid) first
        Advances (if ex = [] then s else progress (ex.foldl (fun u k => floored u g n (ea k) (len k)) taken) g.gid)
          (exec (.floorv f) s))

/-- R194, R195, R351, R353: the list of a sector at its first access: one sealed impression with the page's floor as number and the
page's bytes; what SEALV and FLOORV leave in a sector whose impressions are all kept: impression n sealed, its unwritten bytes those
of the newest sealed older one; and under a floor no impression older than the newest sealed one not above it. -/
def Clauses.SectorContents : Prop :=
  (∀ (s : State) (g : Group) (x : Xlat), s.imps.find? (fun d => d.sector == sectorOf s x) = none →
    ∃ i, (loadSector s g x).2.list = [i] ∧ (loadSector s g x).2.sector = sectorOf s x ∧ i.isSealed = true ∧ i.spilled = false ∧
      i.bytes = (List.range 32).map (fun o => homeByte s none (sectorOf s x * 32 + o)) ∧
      ((∀ p ∈ s.galfloor, p.page ≠ x.page) → i.n = (galleyEntry s g (x.galley.getD 0)).floor)) ∧
  ∀ (s : State) (g : Group) (x : Xlat) (n : Word) (c : Sector), s.imps.find? (fun d => d.sector == sectorOf s x) = some c →
    c.kept < 8 → (∀ i ∈ c.list, i.spilled = false) →
    (∀ i, c.find? n = some i → i.isSealed = false →
      ∃ d j, (sealSector s g x n).imps.find? (fun d => d.sector == sectorOf s x) = some d ∧ d.find? n = some j ∧
        j.isSealed = true ∧ ∀ o, o < 32 → j.bytes.getD o 0 =
          if i.mask.getLsbD o then i.bytes.getD o 0
          else (((c.newestSealed fun m => newerImp n m).map Imp.bytes).getD []).getD o 0) ∧
    (∀ m, c.newestSealed (fun m => !newerImp m n) = some m →
      ∃ d, (floorSector s g x n).imps.find? (fun d => d.sector == sectorOf s x) = some d ∧
        d.list = c.list.filter fun i => !newerImp m.n i.n)

/-! ## Ligatures -/

/-- R80, R199, R200, R201, R204, R206: LIGA of one active lane: with helpers to be had, U[d] gets the number granted and the
last ligature's end status, the lanes are lent, the recruiter is suspended with copies of its registers (U[d] as it stood
before, log 53), and the helpers stand at the entry; otherwise U[d] gets 0 and the status, and the lane goes on. In a
deterministic launch the lane waits until there are frames for all. More than one active lane is the group fault, an odd entry
the misaligned-address fault. -/
def Clauses.LigatureGrant : Prop :=
  ∀ (s : State) (g : Group) (f : LigaForm) (l : Nat), Clear s g (.liga f) →
    let x := g.lane l
    let entry := s.iss.addr + (f.off <<< 1)
    let pool := lenders s g
    (executing s g f.g ≠ [] → s.iss.active.length ≠ 1 → exec (.liga f) s = .next (raiseAll s 0x02)) ∧
    (executing s g f.g = [] → Advances s (exec (.liga f) s)) ∧
    (s.iss.active = [l] → guardTrue f.g x = false → Advances s (exec (.liga f) s)) ∧
    (s.iss.active = [l] → guardTrue f.g x = true → entry.getLsbD 0 = true → ∃ r : Raise,
      exec (.liga f) s = .next (raiseNow s r) ∧ r.cls = 0x08) ∧
    (s.iss.active = [l] → guardTrue f.g x = true → entry.getLsbD 0 = false →
      let room := min (min (x.reg f.a.toNat).toNat 63) pool.length
      let want := min room (framesFree s g.core)
      let never := x.inTx = true ∨ g.lig.isSome = true
      let n := if never then 0 else want
      (s.groupTag g ≠ none → ¬ never → framesFree s g.core < room → exec (.liga f) s =
        .next (s.updLane g.gid l fun y => { y with st := .waiting .liga, wake := some room })) ∧
      ((s.groupTag g = none ∨ never ∨ room ≤ framesFree s g.core) →
      let status := fun (h : Group) => { h.setUreg f.d.toNat (BitVec.ofNat 64 (n + 256 * g.endstat)) with endstat := 0 }
      (n = 0 → Advances (s.updGroup g.gid status) (exec (.liga f) s)) ∧
      (n ≠ 0 → ∃ t h lig, exec (.liga f) s = .next t ∧ t.cur = some h ∧ h.u = (status g).u ∧ h.endstat = 0 ∧
        { t with groups := s.groups, cores := s.cores } = s ∧
        (∀ k, k < 32 → (h.lane k).v = (g.lane k).v ∧ (h.lane k).p = (g.lane k).p ∧ (h.lane k).pc = (g.lane k).pc) ∧
        (h.lane l).st = .suspended ∧ h.lig = some lig ∧ lig.lane = l ∧ lig.addr = s.iss.addr ∧
        lig.count = x.reg (f.a.toNat + 1) ∧ lig.claim = 0 ∧ lig.helpers.length = n ∧ lig.regs = x.v ∧ lig.u = g.u ∧
        lig.helpers.map (fun k => (k.lender, k.lendLane)) = pool.take n ∧
        ∀ k ∈ lig.helpers, k.lane = Lane.reset entry ∧ k.done = false ∧ k.partials = [])))

/-- R202, R203: LIGNXT hands the next unclaimed iterations to the executing helpers in rising order, in a deterministic launch
each helper its own in steps of the number of helpers, and the count with a false predicate when none is left; LIGX starts a
partial or folds into it; outside helper code both raise the ligature fault (R176) where their guard holds in all active lanes;
where it holds in none they only advance, and where it differs the group fault is raised (R32; that the guard comes first is log
66). -/
def Clauses.LigatureWork : Prop :=
  ∀ (s : State) (g : Group) (lig : Lig),
    let outside := fun (i : Instr) (gd : Guard) => (GuardAll s g gd → exec i s = .next (raiseAll s 0x0F)) ∧
      (GuardNone s g gd → Advances s (exec i s)) ∧
      (¬ GuardAll s g gd → ¬ GuardNone s g gd → exec i s = .next (raiseAll s 0x02))
    (∀ f : LignxtForm, Clear s g (.lignxt f) →
      (s.iss.helper = false → outside (.lignxt f) f.g) ∧
      (s.iss.helper = true → g.lig = some lig → ∃ t h lig', exec (.lignxt f) s = .next t ∧
        t.cur = some h ∧ h.lig = some lig' ∧ { t with groups := s.groups } = s ∧ h = { g with lig := h.lig } ∧
        ∀ j k hk, (executing s g f.g)[j]? = some k → lig.helpers[k]? = some hk →
          let i := if s.groupTag g = none then lig.claim + j else k + hk.claims * lig.helpers.length
          (threadLane t h k).pc = s.nextPc ∧
          (i < lig.count.toNat → (threadLane t h k).reg f.d.toNat = BitVec.ofNat 32 i ∧ (f.p ≠ 0 → (threadLane t h k).pred f.p = true)) ∧
          (lig.count.toNat ≤ i → (threadLane t h k).reg f.d.toNat = lig.count ∧ (f.p ≠ 0 → (threadLane t h k).pred f.p = false)))) ∧
    ∀ f : LigxForm, Clear s g (.ligx f) →
      (s.iss.helper = false → outside (.ligx f) f.g) ∧
      (s.iss.helper = true → g.lig = some lig → (∀ k ∈ lig.helpers, ∀ p ∈ k.partials, p.d = f.d.toNat → p.op = f.op ∧ p.f32 = f.ty) →
        ∃ t h lig', exec (.ligx f) s = .next t ∧ t.cur = some h ∧ h.lig = some lig' ∧
          { t with groups := s.groups } = s ∧ h = { g with lig := h.lig } ∧
          ∀ k hk, k ∈ executing s g f.g → lig.helpers[k]? = some hk → ∃ hk', lig'.helpers[k]? = some hk' ∧
            hk'.lane.pc = s.nextPc ∧
            (hk.partials.find? (fun p => p.d == f.d.toNat) = none →
              hk'.partials = hk.partials ++ [{ d := f.d.toNat, f32 := f.ty, op := f.op, val := hk.lane.reg f.a.toNat }]) ∧
            ∀ p, hk.partials.find? (fun p => p.d == f.d.toNat) = some p → ∃ q, q ∈ hk'.partials ∧ q.d = p.d ∧
              q.val = (foldPartial p.val { p with val := hk.lane.reg f.a.toNat }).1)

/-! ## Engines -/

/-- R208, R209, R211: before its own checks an engine instruction raises transaction misuse in the active lanes that have a
transaction or iteration open, then, where it asks for all 32 lanes, the group fault. -/
def Clauses.EngineChecks : Prop :=
  ∀ (s : State) (g : Group) (i : Instr) (gd : Guard) (all32 : Bool), engineOf i = some (gd, all32) → Clear s g i →
    GuardAll s g gd →
    let tx := s.iss.active.filter fun l => (g.lane l).inTx
    (tx ≠ [] → exec i s = .next (raiseIn s 0x0C tx)) ∧
    (tx = [] → all32 = true → s.iss.active.length ≠ 32 → exec i s = .next (raiseAll s 0x02))

/-- R207, R210, R211, R216 to R223, R225: the matrix commands: a misaligned descriptor, no context held, reserved or out-of-range
values and a bad Case extent raise their faults in this order; an extent at a bank that is being switched waits under reason 15 (the
model's choice, log 52); a full queue waits; otherwise the command enters the engine's queue
in arrival order with the values of its registers, and the group takes the next sequence number. -/
def Clauses.MatrixCommands : Prop :=
  ∀ (s : State) (g : Group) (gd : Guard) (e1 e2 e3 fmt vb d a : BitVec 6) (sc sat swap win : Bool) (bs : BitVec 4) (tile : BitVec 2),
    let u := fun (n : BitVec 6) => g.ureg n.toNat
    let off := fun n => ((u n).extractLsb' 0 22).toNat
    let pitch := fun n => ((u n).extractLsb' 32 16).toNat
    let al := fun n => off n % 32 = 0 ∧ pitch n % 32 = 0
    let rs := fun n => (u n).extractLsb' 22 10 = 0 ∧ (u n).extractLsb' 48 16 = 0
    let rows := ((u e2).extractLsb' 0 7).toNat
    let ctl := rowCtlOk (u e2) = true
    ∀ e ∈ ([
      (.mload { g := gd, e1 := e1, fmt := fmt, sc := sc, vb := vb, bs := bs }, al e1, rs e1,
        caseRows s g (off e1) (pitch e1) 96 256, u e1, 0, 0),
      (.mloads { g := gd, e1 := e1, e2 := e2, fmt := fmt, sc := sc, vb := vb, bs := bs }, al e1 ∧ al e2, rs e1 ∧ rs e2,
        caseRows s g (off e2) (pitch e2) 48 256, u e1, u e2, 0),
      (.mstream { g := gd, e1 := e1, e2 := e2, fmt := fmt, sc := sc, vb := vb, bs := bs, tile := tile, sat := sat, swap := swap, win := win },
        al e1, rs e1 ∧ ctl, caseRows s g (off e1) (pitch e1) (if win then 384 else 96) rows, u e1, u e2, 0),
      (.mstreams { g := gd, e1 := e1, e2 := e2, e3 := e3, fmt := fmt, sc := sc, vb := vb, bs := bs, tile := tile, sat := sat,
                   swap := swap, win := win }, al e1 ∧ al e3, rs e1 ∧ rs e3 ∧ ctl,
        (caseRows s g (off e3) (pitch e3) (if win then 48 else 12) rows).and ((List.range rows).foldl (fun x i =>
          x.and (caseRun s g (off e1 + i * pitch e1)
            (bitmapOf (caseBytes s g.bid (off e3 + i * pitch e3) (if win then 48 else 12))).length)) .ok), u e1, u e2, u e3),
      (.mswap { g := gd }, True, True, .ok, 0, 0, 0), (.mzero { g := gd, tile := tile }, True, True, .ok, 0, 0, 0),
      (.mmova { g := gd, d := d, a := a }, True, True, .ok, 0, 0, 0)] :
        List (Instr × Prop × Prop × Extent × DWord × DWord × DWord)),
    Clear s g e.1 → EngineReady s g gd true →
      (¬ e.2.1 → exec e.1 s = .next (raiseAll s 0x08)) ∧ (e.2.1 → g.mctx = none → exec e.1 s = .next (raiseAll s 0x07)) ∧
      ∀ x, e.2.1 → g.mctx = some x →
        (¬ e.2.2.1 → exec e.1 s = .next (raiseAll s 0x07)) ∧
        (e.2.2.1 → e.2.2.2.1 = .bad → exec e.1 s = .next (raiseAll s 0x07)) ∧
        (e.2.2.1 → e.2.2.2.1 = .busy → exec e.1 s = .next (stall s 15)) ∧
        (e.2.2.1 → e.2.2.2.1 = .ok → 8 ≤ (openCmds (s.engine g.core) x).length → exec e.1 s = .next (stall s 10)) ∧
        (e.2.2.1 → e.2.2.2.1 = .ok → (openCmds (s.engine g.core) x).length < 8 → ∃ c : MCmd,
          Advances ((s.updEngine g.core fun q => { q with queue := q.queue ++ [c] }).updGroup g.gid
            fun h => { h with seq := nextSeq h.seq }) (exec e.1 s) ∧
          c.ins = e.1 ∧ c.gid = g.gid ∧ c.bid = g.bid ∧ c.x = x ∧ c.seq = nextSeq g.seq ∧ c.pc = s.iss.addr ∧
          c.word = s.iss.word ∧ c.konst = s.iss.konst ∧ c.phase = .queued ∧ c.raised = false ∧
          (c.u1, c.u2, c.u3) = e.2.2.2.2 ∧
          (∀ f, e.1 = .mmova f → c.vals = (List.range 32).map fun l => ((g.lane l).reg a.toNat, (g.lane l).reg d.toNat)))

/-- R226, R227, R228, R211: MDRAIN: misaligned addresses or pitches (the residual's only where there is one: log 30), no context,
reserved or out-of-range control, a bad area, a wait for a bank that switches (log 52) or for room in the queue, and otherwise the
command with its destination, residual and control registers and the registers of its epilogue. -/
def Obligations.DrainCommands : Prop :=
  ∀ (s : State) (g : Group) (f : MdrainForm), Clear s g (.mdrain f) → EngineReady s g f.g true →
    let q := g.ureg f.e3.toNat
    let q1 := g.ureg (f.e3.toNat + 1)
    let dst := g.ureg f.e1.toNat
    let res := if f.res then g.ureg f.e2.toNat else 0
    let m := (q.extractLsb' 32 7).toNat
    let aligned := dst.extractLsb' 0 5 = 0 ∧ (q.extractLsb' 0 16).toNat % 32 = 0 ∧
      (f.res = true → res.extractLsb' 0 5 = 0 ∧ (q.extractLsb' 16 16).toNat % 32 = 0)
    let legal := q.extractLsb' 46 18 = 0 ∧ q.getLsbD 39 = false ∧ q1.extractLsb' 48 16 = 0 ∧ 1 ≤ m ∧ m ≤ 64 ∧
      (q.extractLsb' 40 6).toNat + m ≤ 64
    let area := (drainArea s g dst (q.extractLsb' 0 16).toNat (rowBytes f.dfmt) m).and
      (if f.res then drainArea s g res (q.extractLsb' 16 16).toNat (rowBytes f.rfmt) m else .ok)
    (¬ aligned → exec (.mdrain f) s = .next (raiseAll s 0x08)) ∧
    (aligned → g.mctx = none → exec (.mdrain f) s = .next (raiseAll s 0x07)) ∧
    ∀ x, aligned → g.mctx = some x →
      ((¬ legal ∨ area = .bad) → exec (.mdrain f) s = .next (raiseAll s 0x07)) ∧
      (legal → area = .busy → exec (.mdrain f) s = .next (stall s 15)) ∧
      (legal → area = .ok → 8 ≤ (openCmds (s.engine g.core) x).length → exec (.mdrain f) s = .next (stall s 10)) ∧
      (legal → area = .ok → (openCmds (s.engine g.core) x).length < 8 → ∃ c : MCmd,
        Advances ((s.updEngine g.core fun q => { q with queue := q.queue ++ [c] }).updGroup g.gid
          fun h => { h with seq := nextSeq h.seq }) (exec (.mdrain f) s) ∧
        c.ins = .mdrain f ∧ c.gid = g.gid ∧ c.x = x ∧ c.seq = nextSeq g.seq ∧ c.u1 = dst ∧ c.u2 = res ∧ c.u3 = q ∧ c.u3a = q1 ∧
        c.u3b = g.ureg (f.e3.toNat + 2) ∧ c.u62 = g.ureg 62 ∧ c.u63 = g.ureg 63 ∧ c.phase = .queued)

/-- R75, R215, R230: acquiring a context gives the lowest free one, cleared, and only advances where one is held; MWAIT waits
for the group's commands, then gives the context's flags to every lane and shows the group its drains' stores; release does so
and frees the context; without a context MWAIT raises the protection fault and release only advances. -/
def Obligations.ContextResults : Prop :=
  ∀ (s : State) (g : Group) (f : GForm), EngineReady s g f.g true →
    let e := s.engine g.core
    (Clear s g (.mctxAcq f) →
      (g.mctx.isSome = true → Advances s (exec (.mctxAcq f) s)) ∧
      (g.mctx = none → freeCtx s g = none → exec (.mctxAcq f) s = .next (stall s 10)) ∧
      (g.mctx = none → ∀ x, freeCtx s g = some x → Advances ((s.updMctx g.core x fun _ =>
          { holder := some g.gid, tiles := Vector.replicate 4 [], flags := 0, step := StepReg.reset }).updGroup g.gid
          fun h => { h with mctx := some x }) (exec (.mctxAcq f) s))) ∧
    (Clear s g (.mwait f) →
      (g.mctx = none → exec (.mwait f) s = .next (raiseAll s 0x07) ∧ Advances s (exec (.mctxRel f) s)) ∧
      ∀ x, g.mctx = some x → x < 2 →
        ((∃ c ∈ e.queue, c.gid = g.gid ∧ c.fault = none) → (∀ c ∈ e.queue, c.gid = g.gid → c.fault = none) →
          exec (.mwait f) s = .next (stall s 2) ∧ exec (.mctxRel f) s = .next (stall s 2)) ∧
        ((∀ c ∈ e.queue, c.gid ≠ g.gid) → ∀ i ∈ [Instr.mwait f, .mctxRel f], ∃ t h, exec i s = .next t ∧ t.cur = some h ∧
          { t with groups := s.groups, engines := s.engines } = showDrains s g.gid ∧ h.u = g.u ∧ (∀ c, c ≠ g.core → t.engine c = s.engine c) ∧
          (∀ l, l < 32 → h.lane l = { (g.lane l).addFlags (e.ctx x).flags with pc := s.nextPc }) ∧
          ((t.engine g.core).ctx x).flags = 0 ∧ (t.engine g.core).ctx (1 - x) = e.ctx (1 - x) ∧
          (i = .mwait f → h.mctx = g.mctx ∧ ((t.engine g.core).ctx x).holder = (e.ctx x).holder) ∧
          (i = .mctxRel f → h.mctx = none ∧ ((t.engine g.core).ctx x).holder = none)))

/-- R225, R231, R232, R316, R317: the status and step words go to a uniform register once earlier loads are complete, the step word
while no stream stands past the last row of a plane; MMOVV reads tile elements once no open command names their tiles; MSTEP.SET
writes the step register of the held context, waiting while a stream or drain runs or a drain has stopped at a fault. -/
def Clauses.EngineReads : Prop :=
  ∀ (s : State) (g : Group),
    let e := s.engine g.core
    (∀ f : GDForm, Clear s g (.mstat f) → EngineReady s g f.g true →
      ((∀ c ∈ e.queue, c.gid = g.gid → c.isLoad = false) →
        Advances (s.updGroup g.gid fun h => h.setUreg f.d.toNat (mstatWord s g)) (exec (.mstat f) s)) ∧
      ((∃ c ∈ e.queue, c.gid = g.gid ∧ c.isLoad = true ∧ c.fault = none) → exec (.mstat f) s = .next (stall s 2))) ∧
    (∀ f : GDForm, Clear s g (.mstepGet f) → EngineReady s g f.g true →
      ((∀ x, g.mctx = some x → ∀ c ∈ e.queue, c.x = x → c.overRow e = false) →
        Advances (s.updGroup g.gid fun h => h.setUreg f.d.toNat (match g.mctx with
          | none => 0
          | some x => stepWord (e.ctx x).step)) (exec (.mstepGet f) s)) ∧
      ∀ x, g.mctx = some x → (∃ c ∈ e.queue, c.x = x ∧ c.overRow e = true) → exec (.mstepGet f) s = .next (stall s 2)) ∧
    (∀ f : GAForm, Clear s g (.mstepSet f) → EngineReady s g f.g true →
      (g.mctx = none → Advances s (exec (.mstepSet f) s)) ∧
      let busy := fun (c : MCmd) => c.phase = .running ∨ (c.isDrain = true ∧ c.fault.isSome = true)
      ∀ x, g.mctx = some x → ((∀ c ∈ e.queue, c.x = x → ¬ busy c) →
        Advances (s.updMctx g.core x fun m => { m with step := stepOf (g.ureg f.a.toNat) }) (exec (.mstepSet f) s)) ∧
        ((∃ c ∈ e.queue, c.x = x ∧ busy c) → exec (.mstepSet f) s = .next (stall s 2))) ∧
    (∀ f : GDAForm, Clear s g (.mmovv f) → EngineReady s g f.g true →
      (g.mctx = none → exec (.mmovv f) s = .next (raiseAll s 0x07)) ∧
      ∀ x, g.mctx = some x → (∀ c ∈ openCmds e x, ∀ t ∈ c.tiles, ∀ l, l < 32 → ((g.lane l).reg f.a.toNat).extractLsb' 14 2 ≠ BitVec.ofNat 2 t) →
        (∀ c ∈ openCmds e x, ∀ t ∈ c.tiles, t < 4) → ∃ t, exec (.mmovv f) s = .next t ∧ ThreadsBecome s t fun _ y =>
          let w := y.reg f.a.toNat
          { y.setReg f.d.toNat (tileWord (e.ctx x) (w.extractLsb' 14 2).toNat (w.extractLsb' 8 6).toNat (w.extractLsb' 0 8).toNat)
            with pc := s.nextPc }) ∧
    ∀ r : StepReg, r.row < 64 → r.plane < 4 → r.drow < 64 → stepOf (stepWord r) = r

/-- R231: the fields of the status word. -/
def Clauses.StatusWord : Prop :=
  ∀ (s : State) (g : Group) (x : Nat),
    let e := s.engine g.core
    let w := mstatWord s g
    let open_ := openCmds e x
    e.shadow.planes < 8 → e.live.planes < 8 → open_.length < 256 → (∀ c ∈ open_, ∀ t ∈ c.tiles, t < 4) →
    w.extractLsb' 0 3 = BitVec.ofNat 3 e.shadow.planes ∧ w.extractLsb' 3 3 = BitVec.ofNat 3 e.live.planes ∧
    w.getLsbD 6 = e.live.sparse ∧ w.getLsbD 7 = e.shadow.sparse ∧ w.getLsbD 24 = g.mctx.isSome ∧
    (g.mctx = some x → w.extractLsb' 8 8 = BitVec.ofNat 8 open_.length ∧
      ∀ t, t < 4 → (w.getLsbD (20 + t) = true ↔ ∃ c ∈ open_, t ∈ c.tiles) ∧
        (w.getLsbD (16 + t) = true ↔ ∃ c ∈ open_, c.isDrain = true ∧ c.fault.isSome = true ∧ t ∈ c.tiles)) ∧
    (g.mctx = none → w.extractLsb' 8 17 = 0)

/-! ## Fount and Imposer -/

/-- R208, R209, R211, R234, R236, R237: FETCH and FETCHC of a bound slot: FETCH takes the Fount's answers for its lanes, or is held
until the Fount answers; FETCHC queues a command with its lanes' coordinates and Case offsets; both take the next sequence number.
A launch's first Fount command on the cluster empties the Fount's cache. An unbound slot and a bad Case extent are the protection
fault, a misaligned offset the misaligned-address fault, an open transaction misuse; a FETCH whose translation fails enters the
operand log, or is raised at once in a handler; where no lane executes they only advance (for FETCHC a reading, log 27). -/
def Obligations.FountCommands : Prop :=
  ∀ (s : State) (g : Group) (f : FetchForm), Clear s g (.fetch f) → Clear s g (.fetchc f) → s.iss.waited = false →
    let ex := executing s g f.g
    let slot := ((s.block? g.bid).map Block.handles).bind fun hs => hs.find? fun h => h.1 == f.h.toNat
    let coord := fun l => ((g.lane l).reg f.a.toNat, (g.lane l).reg (f.a.toNat + 1))
    (ex = [] → Advances s (exec (.fetch f) s) ∧ Advances s (exec (.fetchc f) s)) ∧
    (∀ i ∈ [Instr.fetch f, .fetchc f], (∃ l ∈ ex, (g.lane l).inTx = true) → ∃ ls, exec i s = .next (raiseIn s 0x0C ls)) ∧
    (ex ≠ [] → (∀ l ∈ ex, (g.lane l).inTx = false) → slot = none → exec (.fetch f) s = .next (raiseIn s 0x07 ex) ∧
      ((∀ l ∈ ex, ((g.lane l).reg f.d.toNat).extractLsb' 0 5 = 0) → exec (.fetchc f) s = .next (raiseIn s 0x07 ex))) ∧
    (ex ≠ [] → (∀ l ∈ ex, (g.lane l).inTx = false) → (∃ l ∈ ex, ((g.lane l).reg f.d.toNat).extractLsb' 0 5 ≠ 0) →
      exec (.fetchc f) s = .next (raiseIn s 0x08 (ex.filter fun l => ((g.lane l).reg f.d.toNat).extractLsb' 0 5 != 0))) ∧
    ∀ h, ex ≠ [] → (∀ l ∈ ex, (g.lane l).inTx = false) → slot = some (f.h.toNat, h) → g.fl.walks = [] → s.defer.walk = false →
      let u := if (s.cluster (g.core / 4)).lastFount = some g.lid then s
        else s.updCluster (g.core / 4) fun c => { c with fcache := [], lastFount := some g.lid }
      (∃ m : MemOp, m.kind = .fetch ∧ m.handle = h.entry ∧ m.dst = f.d.toNat ∧ m.seq = (nextSeq g.seq).toNat ∧
        m.threads.map (fun t => (t.t, t.coords)) = ex.map (fun l => (l, coord l)) ∧
        (m.failing u g .translation = [] → s.defer.fetch = true →
          Advances (u.updGroup g.gid fun k => { k with seq := nextSeq g.seq, fl := { k.fl with fetches := k.fl.fetches ++ [m] } })
            (exec (.fetch f) s)) ∧
        (m.failing u g .translation = [] → s.defer.fetch = false → (fetchValues u g m).2.held = none →
          Advances ((takeFetch (fetchValues u g m).1 g m (fetchValues u g m).2).updGroup g.gid fun k => { k with seq := nextSeq g.seq })
            (exec (.fetch f) s)) ∧
        (m.failing u g .translation ≠ [] → g.priv = .user → ∃ t k o, exec (.fetch f) s = .next t ∧ t.cur = some k ∧
          { t with groups := s.groups, cores := s.cores } = { u with groups := s.groups, cores := s.cores } ∧
          k.seq = nextSeq g.seq ∧ k.fl.opLog = g.fl.opLog ++ [o] ∧ o.kind = .fetch ∧ o.fails = m.failing u g .translation ∧
          o.seq = m.seq ∧ ∀ l ∈ s.iss.active, k.lane l = { g.lane l with pc := s.nextPc }) ∧
        (m.failing u g .translation ≠ [] → g.priv ≠ .user → g.fl.fetches = [] → ∃ w r, exec (.fetch f) s =
          .next ((raiseNow w r).updGroup g.gid fun k => { k with seq := nextSeq g.seq }) ∧ r.cls = 0x06 ∧
          r.vas = m.failing u g .translation ∧ w.groups = s.groups ∧ w.mem = s.mem)) ∧
      (let bad := ex.filter fun l => caseRun u g (((g.lane l).reg f.d.toNat).extractLsb' 0 22).toNat 32 == .bad
       (∀ l ∈ ex, ((g.lane l).reg f.d.toNat).extractLsb' 0 5 = 0) → bad ≠ [] → exec (.fetchc f) s = .next (raiseIn u 0x07 bad)) ∧
      ((∀ l ∈ ex, ((g.lane l).reg f.d.toNat).extractLsb' 0 5 = 0 ∧
          caseRun s g (((g.lane l).reg f.d.toNat).extractLsb' 0 22).toNat 32 = .ok) → ∃ c : FetchC,
        Advances ((u.updEngine g.core fun e => { e with fetchcs := e.fetchcs ++ [c] }).updGroup g.gid
          fun k => { k with seq := nextSeq g.seq }) (exec (.fetchc f) s) ∧
        c.gid = g.gid ∧ c.seq = nextSeq g.seq ∧ c.h = h ∧ c.failed = none ∧
        c.lanes = ex.map fun l => (l, (coord l).1, (coord l).2, (((g.lane l).reg f.d.toNat).extractLsb' 0 22).toNat))

/-- R211, R234, R235: HBIND of an aligned, legal entry that can be read binds the slot to a copy of it with its counted barrier; an
undeclared counted barrier is barrier misuse, a misaligned entry the misaligned-address fault, a slot from 64 on the protection
fault. The model's choices: the barrier's number is checked only where its bit is set (log 54), and an entry that fails R235's
alignment is the misaligned-address fault (log 26). -/
def Clauses.BindResults : Prop :=
  ∀ (s : State) (g : Group) (f : HbindForm) (l : Launch), Clear s g (.hbind f) → EngineReady s g f.g false →
    s.launch? g.lid = some l →
    let ea := g.ureg f.e1.toNat
    let slot := (g.ureg f.e2.toNat).toNat
    let bar := g.ureg f.e3.toNat
    let number := (bar.extractLsb' 0 4).toNat
    let barOk := bar.getLsbD 8 = true → number < l.lr.bbar
    let fault := fun cls => ∃ r : Raise, exec (.hbind f) s = .next (raiseNow s r) ∧ r.cls = cls ∧ r.recVa = ea ∧
      ∀ k, k < 32 → (r.mask.getLsbD k = true ↔ k ∈ s.iss.active)
    (¬ barOk → fault 0x0D) ∧
    (barOk → ea.extractLsb' 0 5 ≠ 0 → fault 0x08) ∧
    (barOk → ea.extractLsb' 0 5 = 0 → (64 ≤ slot ∨ bar.extractLsb' 9 55 ≠ 0 ∨ bar.extractLsb' 4 4 ≠ 0) → fault 0x07) ∧
    ∀ p, barOk → Reaches s g (readNeed g) 32 ea p → slot < 64 → bar.extractLsb' 9 55 = 0 → bar.extractLsb' 4 4 = 0 →
      waitsHome s p 32 false = false → redPending s g.gid p 32 = false → poisonedAt s p 32 = false →
      let e := loadNum s g (s.groupTag g) p 32
      (fentryAligned e = false → fault 0x08) ∧ (fentryAligned e = true → fentryLegal e = false → fault 0x07) ∧
      (fentryAligned e = true → fentryLegal e = true → Advances (s.updBlock g.bid fun b =>
        { b with handles := listPut b.handles slot { entry := e, cnt := bar.getLsbD 8, bar := number } }) (exec (.hbind f) s))

/-- R211, R238, R240, R393: IMPOSE reads its request of 32 bytes at its Case offset and, where the request is legal and the
queue has room, queues it with the next sequence number, in page mode with the line frames it is to copy, the writes past the write
point to its source frames performed first; rows that are no whole
number of words at a bank in FIFO mode are the misaligned-address fault; a request whose rows lie at a bank that is being switched
waits (the model's choice, log 52), and the barrier's number is checked only where its bit is set (log 54); IMPSTAT raises a deferred fault of the group's open
copies and FETCHC commands, and otherwise gives their number and the sequence number of the oldest of them. -/
def Clauses.ImposeResults : Prop :=
  ∀ (s : State) (g : Group),
    (∀ (f : GAForm) (p : Place) (l : Launch), Clear s g (.impose f) → EngineReady s g f.g false → s.launch? g.lid = some l →
      let off := ((g.ureg f.a.toNat).extractLsb' 0 22).toNat
      (off % 32 ≠ 0 → exec (.impose f) s = .next (raiseAll s 0x08)) ∧
      (off % 32 = 0 → caseRun s g off 32 = .bad → exec (.impose f) s = .next (raiseAll s 0x07)) ∧
      (off % 32 = 0 → caseRun s g off 32 = .ok → blockPlace s g.bid off = some p →
        redPending s g.gid p 32 = false →
        let r := loadNum s g none p 32
        let c := copyReq r
        let barOk := r.testBit 180 = true → r / 2 ^ 176 % 16 < l.lr.bbar
        (¬ barOk → exec (.impose f) s = .next (raiseAll s 0x0D)) ∧
        let even := c.page = true ∨ copyOdd s g c = false
        (barOk → ¬ even → exec (.impose f) s = .next (raiseAll s 0x08)) ∧
        (barOk → even → (copyValues r = false ∨ (c.page = true ∧ pageLegal g c = false)) →
          exec (.impose f) s = .next (raiseAll s 0x07)) ∧
        (barOk → even → copyValues r = true → c.page = false → copyExtent s g c = .bad →
          exec (.impose f) s = .next (raiseAll s 0x07)) ∧
        (barOk → even → copyValues r = true → c.page = true → pageLegal g c = true → 64 ≤ (s.engine g.core).imps.length →
          exec (.impose f) s = .next (stall s 11)) ∧
        (barOk → even → copyValues r = true → c.page = true → pageLegal g c = true → (s.engine g.core).imps.length < 64 →
          sourceHeld s c = none →
          ∃ q : ImpReq, q.gid = g.gid ∧ q.req = r ∧ q.pos = 0 ∧ q.seq = nextSeq g.seq ∧ q.failed = none ∧
            let lines : List (Nat × Nat × Bool) := c.frames.map fun x => (x.1, x.2, false)
            let copy : Migr := { core := g.core, gid := g.gid, seq := nextSeq g.seq, lines := lines }
            Advances ((({ performWhere s (inSource c) with migr := s.migr ++ [copy] } : State).updEngine g.core
              fun e => { e with imps := e.imps ++ [q] }).updGroup g.gid fun h => { h with seq := nextSeq h.seq }) (exec (.impose f) s)) ∧
        (barOk → even → copyValues r = true → c.page = false → copyExtent s g c = .busy → exec (.impose f) s = .next (stall s 11)) ∧
        (barOk → even → copyValues r = true → c.page = false → copyExtent s g c = .ok →
          (64 ≤ (s.engine g.core).imps.length → exec (.impose f) s = .next (stall s 11)) ∧
          ((s.engine g.core).imps.length < 64 → ∃ q : ImpReq,
            Advances ((s.updEngine g.core fun e => { e with imps := e.imps ++ [q] }).updGroup g.gid
              fun h => { h with seq := nextSeq g.seq }) (exec (.impose f) s) ∧
            q.gid = g.gid ∧ q.req = r ∧ q.pos = 0 ∧ q.seq = nextSeq g.seq ∧ q.failed = none)))) ∧
    ∀ f : GDForm, Clear s g (.impstat f) → EngineReady s g f.g false →
      (∀ r, copyFault s g (fun _ => true) = some r → exec (.impstat f) s = .next (raiseDeferred s g r)) ∧
      (copyFault s g (fun _ => true) = none →
      let seqs := ((s.engine g.core).imps.filter fun r => r.gid == g.gid).map (·.seq) ++
        ((s.engine g.core).fetchcs.filter fun r => r.gid == g.gid).map (·.seq)
      ∃ w : DWord, Advances (s.updGroup g.gid fun h => h.setUreg f.d.toNat w) (exec (.impstat f) s) ∧
        w.extractLsb' 0 16 = BitVec.ofNat 16 seqs.length ∧ w.extractLsb' 16 16 = 0 ∧
        (seqs = [] → w.extractLsb' 32 32 = 0) ∧
        ∀ q ∈ seqs, w.extractLsb' 32 32 ∈ seqs ∧ (g.seq - q).toNat ≤ (g.seq - w.extractLsb' 32 32).toNat)

/-! ## One step -/

/-- R12, R40, R412, R413, R425, R435: after reset no group, launch or block exists, HBM reads zero, %clock is 0, no queue is
enabled, DEVNUM, RESYNC, EVENT, CTXBASE, PEERACC, the routes, the pool ranges and the event selects and counters read 0, and PTIME
reads 4,000. The model's choices:
host, pool and peer memory that nothing has written reads zero too (log 5), and the device starts in D0 at 900 MHz (log 3). -/
def Obligations.ResetValues : Prop :=
  let s := State.reset
  s.clock = 0 ∧ s.groups = [] ∧ s.blocks = [] ∧ s.launches = [] ∧ (∀ a, cellGet s.mem a = 0) ∧ s.sq = [] ∧ s.wp = [] ∧
  (∀ q, q < 64 → (s.queue q).en = false ∧ (s.queue q).read = 0 ∧ (s.queue q).done = 0 ∧ (s.queue q).last = 0) ∧
  deviceRuns s = true ∧ s.fw.mhz = 900 ∧ s.host.devnum = 0 ∧ s.host.resync = false ∧ s.host.event = 0 ∧
  s.host.ptime = 4000 ∧ s.host.ctxbase = 0 ∧ s.host.peeracc = 0 ∧
  (∀ k, k < 16 → vget 0 s.host.poolrng k = 0) ∧ (∀ k, k < 256 → vget 0 s.host.routes k = 0) ∧
  ∀ c k, k < 8 → vget 0 (s.coreRegs c).evsel k = 0 ∧ vget 0 (s.coreRegs c).evcnt k = 0

/-- Reset memory is canonical. -/
def Obligations.ResetCanonical : Prop := State.reset.Canonical

/-- Model invariant: every step keeps device, host, pool and peer memory and the Case in canonical form. -/
def Obligations.StepKeepsCanonical : Prop := ∀ s t : State, s.Canonical → step s = .next t → t.Canonical

/-- R25, R27, R110, R262, R426: a group or helper set that the next step issues, with nothing to be raised or replayed first: the bytes
at its issue address that decode to an instruction run as that instruction, with its address, length and words, on the lanes of
the issue choice; what follows an issue is added. Words that do not decode run as the illegal encoding. Where a comparator matches
(R426), an instruction that would issue raises its event, with the comparator's code and the threads it matches, and nothing else
happens, also where it would have presented a batch or begun to switch a bank and waited then; one that has to wait with no effect
waits. -/
def Obligations.StepRunsDecoded : Prop :=
  ∀ (s : State) (w : Who) (rest : List Item) (g : Group) (x : Sel) (bits len : Nat),
    s.agenda = .issue w :: rest →
    let s0 : State := { s with agenda := rest }
    deviceRuns s = true → s.group? w.gid = some g → (if w.helper then helperReady g else groupReady s g) = true →
    (w.helper = false → g.fl.deferred = [] ∧ (g.priv = .user → g.fl.replay = false ∧ g.dbg.due = false)) →
    let s1 : State := { s0 with iss := { Issue.none with gid := w.gid, helper := w.helper } }
    selOf g w.helper = some x → fetchAt s1 g x.addr = .ok bits len →
    let t : State := { fetchTouch s1 g x.addr len with iss :=
      { gid := w.gid, helper := w.helper, addr := x.addr, len := len, word := (wordsIn bits len).1,
        konst := (wordsIn bits len).2, active := x.active, waited := false, faulted := false } }
    ∀ i, (∃ n, decode bits = .ok (i, n)) ∨ ((∃ r, decode bits = .error r) ∧ i = .illegalEncoding) → ∀ u, exec i t = .next u →
      (breakpoint g w.helper x = none → step s = .next (afterIssue whyNot s0 u w)) ∧
      ∀ n ts, breakpoint g w.helper x = some (n, ts) →
        let idle := u.iss.waited = true ∧ u.batches = t.batches ∧ u.clusters = t.clusters
        (idle → step s = .next (afterIssue whyNot s0 u w)) ∧
        (¬ idle → ∃ r : Raise, step s = .next (afterIssue whyNot s0 (raiseNow t r) w) ∧ r.cls = 0x10 ∧
          r.code = BitVec.ofNat 8 (0x40 + n) ∧ ∀ k, k < 32 → (r.mask.getLsbD k = true ↔ k ∈ ts))

/-- R110, R111, R186, R262: the issue choice: the active lanes are the live lanes that are not lent, nor stopped by the
translation fault that aborted their transaction, and stand at one address: the least PC of any of them, or, when the choice is
forced or a lane's age has reached 4064, the PC of a lane of the greatest age. Such an issue is one in the sense of the
statements about instructions. -/
def Obligations.IssueChoice : Prop :=
  (∀ (g : Group) (x : Sel), groupSel g = some x →
    (∀ l, l ∈ x.active ↔ l < 32 ∧ (g.lane l).st = .live ∧ (g.lane l).lent = false ∧ (g.lane l).txStop = false ∧
      (g.lane l).pc = x.addr) ∧ x.active ≠ [] ∧
    let forced := (if g.priv = .user then g.hold.forced else g.hold.forcedPriv) = true
    ((¬ forced ∧ ∀ l, l < 32 → (g.lane l).issues = true → (g.lane l).age < 4064) →
      ∀ l, l < 32 → (g.lane l).issues = true → x.addr.toNat ≤ (g.lane l).pc.toNat) ∧
    ((forced ∨ ∃ l, l < 32 ∧ (g.lane l).issues = true ∧ 4064 ≤ (g.lane l).age) →
      ∃ l ∈ x.active, ∀ k, k < 32 → (g.lane k).issues = true → (g.lane k).age ≤ (g.lane l).age)) ∧
  (∀ g : Group, groupSel g = none ↔ ∀ l, l < 32 → (g.lane l).issues = false) ∧
  ∀ (s t : State) (w : Who) (i : Instr) (brk : Option Raise), prepare s w = .run t i brk → ∃ g, Issuing t g

/-! ## Events of groups and blocks -/

/-- R112, R129, R184, R200, R361, R374: waits that end: after a YIELD the next issue is forced, of the handler where it was the
handler that yielded, TBEGIN executes again once its back-off is over, a LIGA issues again once as many frames are free as it waits
for, a fault's handler is entered, at the entry of the vector table that was read for it, once no batch of the group holds a token or
the Quoin and no lane is lent to another group's ligature. Before, these events do not happen. -/
def Obligations.WaitsEnd : Prop :=
  ∀ (s : State) (g : Group) (n l t : Nat), s.group? n = some g →
    let wake := s.updLane n l fun x => { x with st := .live, pc := (g.lane l).pc, age := 0, wake := none }
    (g.hold.idleTo = some t →
      (t ≤ s.clock → exec (.yieldEnd n) s =
        .next (s.updGroup n fun h => { h with hold :=
          if h.hold.idlePriv = true then { h.hold with idleTo := none, idlePriv := false, forcedPriv := true }
          else { h.hold with idleTo := none, forced := true } })) ∧
      (s.clock < t → exec (.yieldEnd n) s = .refused (.notEnabled "YIELD_END"))) ∧
    ((g.lane l).st = .waiting .backoff → (g.lane l).wake = some t →
      (t ≤ s.clock → exec (.backoffExpire n l) s = .next wake) ∧
      (s.clock < t → exec (.backoffExpire n l) s = .refused (.notEnabled "BACKOFF_EXPIRE"))) ∧
    ((g.lane l).st = .waiting .liga → l < 32 → (∀ k, k < 32 → (g.lane k).st = .waiting .liga → k = l) → (g.lane l).wake = some t →
      (t ≤ framesFree s g.core → exec (.ligaFramesAvailable n) s = .next wake) ∧
      (framesFree s g.core < t → exec (.ligaFramesAvailable n) s = .refused (.notEnabled "LIGA_FRAMES_AVAILABLE"))) ∧
    ∀ r, g.fl.pend = some r →
      (g.fl.vec = none → ∀ p, vectorEntry s g r.cls = .asked p → askOnce s p 16 false = none →
        exec (.handlerEntry n) s = .refused (.notEnabled "HANDLER_ENTRY")) ∧
      (g.fl.vec = none → (∀ p, vectorEntry s g r.cls ≠ .asked p) → exec (.handlerEntry n) s = .next (enterWhenClear s n)) ∧
      ∀ cbase entry, g.fl.vec = some (cbase, entry) →
        let closed := (∀ k, k < 32 → (g.lane k).tx.isOpen = false ∧ (g.lane k).tx.speculative = false) ∧ g.lig = none
        (holdsBatch s n = true → exec (.handlerEntry n) s = .refused (.notEnabled "HANDLER_ENTRY")) ∧
        (lentAway s n = true → closed → exec (.handlerEntry n) s = .refused (.notEnabled "HANDLER_ENTRY")) ∧
        (holdsBatch s n = false → lentAway s n = false → exec (.handlerEntry n) s = .next (enterWhenClear s n)) ∧
        ((∀ b ∈ s.batches, b.gid ≠ n) → lentAway s n = false → closed →
          exec (.handlerEntry n) s = .next (enterHandler s n r cbase entry))

/-- R205, R358, R397: a ligature at its lifetime limit is forced to end, its recruiter resuming at LIGA with status 1; a user
group with no page walk or FETCH on its way whose stall counter has reached its limit, also one that waits to enter a handler or
for its pre-emption, raises the stall-time fault, its counter starting again and its waiting LDVs ending (R361); 2^36 is the limit of a
deterministic launch that gives none. -/
def Obligations.LimitsRaise : Prop :=
  ∀ (s : State) (g : Group) (n : Nat), s.group? n = some g →
    (∀ lig, g.lig = some lig → lig.lane < 32 → g.hold.park = false →
      (lig.limit ≤ lig.life → ∃ t h, exec (.ligatureLifetimeLimit n) s = .next t ∧ t.group? n = some h ∧ h.lig = none ∧
        h.endstat = 1 ∧ (h.lane lig.lane).st = .live ∧ (h.lane lig.lane).pc = lig.addr) ∧
      (lig.life < lig.limit → exec (.ligatureLifetimeLimit n) s = .refused (.notEnabled "LIGATURE_LIFETIME_LIMIT"))) ∧
    ∀ l, s.launch? g.lid = some l → g.priv = .user → g.hold.park = false → g.hold.host = false →
      (g.hold.stopped = true → ∃ b, s.block? g.bid = some b ∧ b.phase = .draining) → openOps g = none →
      let k := l.lr.stall
      let limit := if k = 0 then 2 ^ 36 else if k < 16 then 2 ^ 16 else if 47 < k then 2 ^ 47 else 2 ^ k
      ((k ≠ 0 ∨ l.lr.det = true) →
        let drop := fun (h : Group) => { h with fl := { h.fl with ldvs := h.fl.ldvs.filter MemOp.helper } }
        let u := (s.updGroup n fun h => { h with stallCnt := 0 }).updGroup n drop
        (limit ≤ g.stallCnt → ∃ r, exec (.stallTimeLimit n) s = .next (raise u n r) ∧
          r.cls = 0x0E ∧ r.deferred = false ∧ r.helper = none) ∧
        (g.stallCnt < limit → exec (.stallTimeLimit n) s = .refused (.notEnabled "STALL_TIME_LIMIT"))) ∧
      (k = 0 → l.lr.det = false → exec (.stallTimeLimit n) s = .refused (.notEnabled "STALL_TIME_LIMIT"))

/-- R127, R159, R270, R289, R361, R433: a group whose lanes have all exited ends, its writes performed first, and with it its
marks, its batches and its place in the block; a block whose groups have ended and whose engine commands are complete ends, its
banks zero and owned by nobody; a grid that an asynchronous error ends has every lane exited that is not in a batch with a token
or the Quoin, which commits first; a sample moves the rotation on. -/
def Obligations.GroupsEnd : Prop :=
  (∀ (s : State) (g : Group) (n : Nat), s.group? n = some g →
    ((∀ l, l < 32 → (g.lane l).st = .exited ∧ (g.lane l).lent = false) → g.fl.ldvs = [] → g.priv = .user → g.fl.pend = none →
      g.hold.stopped = false → flushBlocked s n g.core (onBoth 3) = none → ∃ t, exec (.groupEnd n) s = .next t ∧ t.group? n = none ∧
        (∀ e ∈ t.sq, e.gid ≠ n) ∧ (∀ b ∈ t.blocks, b.bid = g.bid → g.grp ∉ b.left) ∧ (∀ m ∈ t.marks, m.gid ≠ n) ∧ ∀ b ∈ t.batches, b.gid ≠ n) ∧
    (∀ l, l < 32 → (g.lane l).st ≠ .exited → exec (.groupEnd n) s = .refused (.notEnabled "GROUP_END"))) ∧
  (∀ (s : State) (b : Block) (n : Nat), s.block? n = some b → b.left = [] → blockBusy s b = false →
    (b.phase = .resident ∨ b.phase = .draining ∨ b.phase = .gang) → ∃ t, exec (.blockEnd n) s = .next t ∧ t.block? n = none ∧
      (∀ l, s.launch? b.lid = some l → t.launch? b.lid = some { l with done := l.done + 1 }) ∧
      ∀ k ∈ b.banks, t.bank (b.core / 4) k = Bank.reset ∧
        (k < 64 → ∀ o, o < 2 ^ 16 → cellGet t.caseMem (caseKey (b.core / 4) k o) = 0)) ∧
  (∀ (s : State) (l : Nat) (site : AsyncSite) (x : Launch), (∃ w ∈ s.async, w.lid = l ∧ w.site = site) → s.launch? l = some x →
    ∃ t y, exec (.gridEnd l site) s = .next t ∧ t.launch? l = some y ∧ y.how.isSome = true ∧
      ∀ g ∈ t.groups, g.lid = l → ∀ k, k < 32 → k ∈ batchLanes s g.gid ∨ (g.lane k).st = .exited) ∧
  ∀ (s : State) (core ctx : Nat), (s.ctx ctx).sample = true → (s.ctx ctx).trSize ≠ 0 → s.clock % 2 ^ (s.ctx ctx).sper = 0 →
    (ctx, s.clock) ∉ (s.coreRegs core).sampled → (∃ g ∈ s.groups, g.core = core ∧ g.ctx = ctx) →
    ∃ t g, exec (.traceSample core ctx) s = .next t ∧ g ∈ s.groups ∧ g.core = core ∧ g.ctx = ctx ∧
      listGet 0 (t.coreRegs core).rot ctx = (g.slot + 1) % 192 ∧ (ctx, s.clock) ∈ (t.coreRegs core).sampled

/-- R144, R196, R236, R386, R387: an outstanding load's values reach their registers and no other lane changes; a FETCH takes the
Fount's answers, or enters the operand log where its translation fails; a waiting LDV takes the bytes of its sealed impressions, or
is kept as a deferred fault where they are missing; an instruction whose page walk succeeds takes its effect or raises its fault as
it would have at issue (R178), that of its address class where a bank has changed its mode meanwhile, and waits while a bank it names
is switching (R160); one whose walk fails enters the operand log with those behind it. -/
def Obligations.Completions : Prop :=
  ∀ (s : State) (g : Group) (n : Nat), s.group? n = some g →
    (∀ k l, g.fl.loads[k]? = some l → l.vals ≠ [] → l.helper = false → g.lig = none → (l.vals.map (·.t)).Nodup →
      ∃ t h, exec (.loadComplete n k) s = .next t ∧ t.group? n = some h ∧ h.fl.loads = g.fl.loads.eraseIdx k ∧
        (∀ v ∈ l.vals, v.t < 32 → h.lane v.t =
          if l.pair then (g.lane v.t).setPair l.dst v.val else (g.lane v.t).setReg l.dst (loWord v.val)) ∧
        ∀ j, j < 32 → (∀ v ∈ l.vals, v.t ≠ j) → h.lane j = g.lane j) ∧
    (∀ k m, g.fl.fetches[k]? = some m →
      let drop := fun (u : State) => u.updGroup n fun h => { h with fl := { h.fl with fetches := h.fl.fetches.eraseIdx k } }
      (m.failing s g .translation = [] → (fetchValues s g m).2.held = none → exec (.fetchComplete n k) s =
        .next (raiseStanding (closeLig (takeFetch (drop (fetchValues s g m).1) g m (fetchValues s g m).2) n) n)) ∧
      (m.failing s g .translation ≠ [] → g.priv = .user → exec (.fetchComplete n k) s =
        .next (enterLog (drop s) g m (m.failing s g .translation)))) ∧
    (∀ m, g.fl.ldvs = [m] → m.helper = false → g.lig = none → m.threads ≠ [] → (m.placed s g).map Placed.th = m.threads →
      (m.threads.map MemThread.t).Nodup →
      let at_ := fun (p : Placed) => ldvAt (loadSector s g p.x).2 m.num (sectorOff p.x) m.size
      ((∀ p ∈ m.placed s g, at_ p = .waits) → exec (.ldvWaitEnd n 0) s = .refused (.notEnabled "LDV_WAIT_END")) ∧
      ((∀ p ∈ m.placed s g, waitsHome s p.x.place m.size false = false) →
      ((∀ p ∈ m.placed s g, (∃ v, at_ p = .val v) ∧ sectorPoison s p.x = false) → ∃ t h, exec (.ldvWaitEnd n 0) s = .next t ∧ t.group? n = some h ∧
        h.fl.ldvs = [] ∧ ∀ p ∈ m.placed s g, ∀ v, at_ p = .val v → p.th.t < 32 → h.lane p.th.t =
          if m.size = 8 then (g.lane p.th.t).setPair m.dst (BitVec.ofNat 64 v)
          else (g.lane p.th.t).setReg m.dst (BitVec.ofNat 32 v)) ∧
      ((∀ p ∈ m.placed s g, at_ p = .missing) → (∃ l, l < 32 ∧ (g.lane l).st ≠ .exited) →
        ∃ t h r, exec (.ldvWaitEnd n 0) s = .next t ∧ t.group? n = some h ∧ h.fl.ldvs = [] ∧
          h.fl.deferred = g.fl.deferred ++ [r] ∧ r.cls = 0x0A ∧ r.deferred = true ∧ r.addr = m.pc))) ∧
    ∀ m r, g.fl.walks = m :: r → (switching s g m = true → exec (.pageWalk n) s = .refused (.notEnabled "PAGE_WALK")) ∧
      (switching s g m = false → m.held s g = none →
      let bad := rowClass s g m
      let u := s.updGroup n fun h => { h with fl := { h.fl with walks := h.fl.walks.drop 1 } }
      let fails := m.failing s g .translation
      (∀ h, bad = [] → fails = [] → u.group? n = some h →
        (∀ t, conclude u h m = .ok t → exec (.pageWalk n) s = .next (raiseStanding (closeLig t n) n)) ∧
        (∀ t f stay, conclude u h m = .fault t f stay → m.helper = false →
          (g.fl.fetches ≠ [] → exec (.pageWalk n) s = .refused (.notEnabled "PAGE_WALK")) ∧
          let back := { m with active := m.active.filter stay.contains }
          (g.fl.fetches = [] → exec (.pageWalk n) s = .next (raiseStanding (closeLig (raise (t.updGroup n fun k => { k with fl :=
            { k.fl with walks := back :: k.fl.walks } }) n f) n) n)))) ∧
      (bad ≠ [] → m.helper = false → g.fl.fetches = [] → ∃ f, f.cls = 0x07 ∧ f.vas = bad ∧ f.addr = m.pc ∧
        exec (.pageWalk n) s = .next (raiseStanding (closeLig (raise (u.updGroup n fun k => { k with fl :=
          { k.fl with walks := m :: k.fl.walks } }) n f) n) n)) ∧
      (bad = [] → fails ≠ [] → m.helper = false → g.priv = .user → (∀ f ∈ fails, (m.lane g f.1).tx.speculative = false) →
        ∃ t h o, exec (.pageWalk n) s = .next t ∧ t.group? n = some h ∧ o ∈ h.fl.opLog ∧ o.pc = m.pc ∧ o.fails = fails ∧ ∀ q ∈ h.fl.walks, q.helper = true))

/-! ## Events of memory -/

/-- R146, R150, R152, R291: a group's oldest queued write passes its write point: it leaves the queue, and a plain store is past the
write point, seen by its core; a RED is performed: its place holds the operation's result of its data and the operand, or, where it
meets poison, nothing is written and its site is recorded. A write past the write point that is performed
at the scope of the device or wider is past it no more; at cluster scope it is seen by the cluster, and memory is unchanged. -/
def Obligations.QueuedWrites : Prop :=
  (∀ (s : State) (n : Nat) (e : SqEntry), s.sq.find? (fun q => q.gid == n) = some e → heldPlace s e = none →
    let rest := s.sq.filter fun q => q.id != e.id
    (∀ bs, e.kind = .store bs → exec (.redPerform n) s = .refused (.notEnabled "RED_PERFORM") ∧
      (∃ t, exec (.storeWritePoint n) s = .next t ∧ t.sq = rest) ∧
      (e.sync = false → e.rel = false → s.detTag e.lid e.bidx = none → e.migrating s = false → (∀ q ∈ s.wp, q.gid = n → q.heldBack = false) →
        exec (.storeWritePoint n) s = .next { s with sq := rest, wp := s.wp ++ [{ e with vis := 1 }] })) ∧
    (∀ op u k x, e.kind = .red op u k x → exec (.storeWritePoint n) s = .refused (.notEnabled "STORE_WRITE_POINT") ∧
      (∃ t, exec (.redPerform n) s = .next t ∧ t.sq = rest) ∧
      (e.rel = false → (∀ q ∈ s.wp, q.overlaps e = false ∧ (q.gid = n → q.heldBack = false)) → linkCode s e.place = none →
        let tag := s.detTag e.lid e.bidx
        let v := atomOp op.toNat u k (placeNum s tag e.place k) x.toNat 0
        let u0 : State := { s with sq := rest }
        let went := fun (w : State) => exec (.redPerform n) s = .next (w.updGroup n fun g => { g with stallCnt := 0 })
        (poisonedAt s e.place k = true → went (asyncError u0 e.lid 1 e.pc e.seq e.va e.bidx e.core e.grp)) ∧
        (poisonedAt s e.place k = false → v.2 = false → went u0) ∧
        (poisonedAt s e.place k = false → v.2 = true →
          went (writeHome u0 tag (coreDie e.core) (some (e.writer s)) e.place (numBytes k v.1)) ∧
          ∀ a, s.Canonical → e.place = .mem a → tag = none → redirect s a = a → fenced s a = false →
            ∃ t, exec (.redPerform n) s = .next t ∧ ∀ j, j < k → cellGet t.mem (a + j) = BitVec.ofNat 8 (v.1 >>> (8 * j)))))) ∧
  ∀ (s : State) (k : Nat) (e : SqEntry) (scope : BitVec 3), s.wp[k]? = some e → 2 ≤ scope.toNat → scope.toNat ≤ 4 →
    (e.heldBack = true → e.scope.toNat ≤ scope.toNat) →
    (3 ≤ scope.toNat → (mustPerform s e).findSome? (SqEntry.waitPlace s) = none →
      ∃ t, exec (.storePerformedAtScope k scope) s = .next t ∧ ∀ f ∈ t.wp, f.id ≠ e.id) ∧
    (scope = 2 → e.vis < 2 → ∃ t, exec (.storePerformedAtScope k scope) s = .next t ∧ t.mem = s.mem ∧ t.caseMem = s.caseMem ∧
      ∀ f ∈ t.wp, f.id = e.id → 2 ≤ f.vis ∧ f.heldBack = false)

/-- R160, R341, R392: a bank's switch ends in its new mode, empty and zero; an evicted stamp is recorded and the frame's next
stamp is the slice's record plus one; a sector is poisoned. -/
def Obligations.MemoryEvents : Prop :=
  ∀ s : State,
    (∀ clu bank md w, (s.bank clu bank).switch = some (md, w) → ∃ t, exec (.casemodeComplete clu bank) s = .next t ∧
      (t.bank clu bank).mode = md ∧ (t.bank clu bank).switch = none ∧ (t.bank clu bank).fifo = [] ∧
      (t.bank clu bank).owner = (s.bank clu bank).owner ∧ t.mem = s.mem ∧
      (bank < 64 → ∀ o, o < 2 ^ 16 → cellGet t.caseMem (caseKey clu bank o) = 0)) ∧
    (∀ clu bank, (s.bank clu bank).switch = none →
      exec (.casemodeComplete clu bank) s = .refused (.notEnabled "CASEMODE_COMPLETE")) ∧
    (∀ frame, inHbm (frame * 256) = true → ∃ t, exec (.stampEviction frame) s = .next t ∧
      let n := max (listGet 0 s.evicted (homeSlice (frame * 256))) (stampOf s frame)
      listGet 0 t.evicted (homeSlice (frame * 256)) = n ∧ stampOf t frame = n + 1 ∧
      ∀ f, f ≠ frame → stampOf t f = stampOf s f) ∧
    ∀ sector, inHbm (sector * 32) = true → sector ∉ s.poison → ∃ t, exec (.sectorPoisoned sector) s = .next t ∧
      ∀ x, x ∈ t.poison ↔ x = sector ∨ x ∈ s.poison

/-! ## Events of engines -/

/-- R217, R221, R222, R224, R225, R228, R312 to R314: the matrix engine's commands, where the engine takes them up in its order:
an MSWAP exchanges the sets, and so does a stream with its swap bit before it starts, loads fill the shadow set, a stream binds the
live set or fails with code 5 where the set does not suit it, one step accumulates one tile row, a drain acts on its next row, MZERO
clears a tile and MMOVA writes its elements; a complete command leaves the queue and its group makes progress. The model's choices:
a suitable stream holds a valid position from its start on (log 30), and where residual and destination of a drain overlap but do
not coincide, its rows go one by one, so that a later row reads what an earlier one stored (log 56). -/
def Obligations.MatrixEvents : Prop :=
  ∀ (s : State) (core : Nat) (c : MCmd), s.Canonical →
    let e := s.engine core
    let done := fun (u : State) => (u.updEngine core fun q => { q with queue := q.queue.filter fun d =>
      !(d.gid == c.gid && d.seq == c.seq) }).updGroup c.gid fun h => { h with stallCnt := 0 }
    c.x < 2 → ctxRuns s e c.x = true → (e.ctx c.x).holder = some c.gid → (s.group? c.gid).isSome = true →
    (let u := s.updEngine core fun q => { q with live := q.shadow, shadow := q.live }
     swappable e = some c →
       (c.isSwap = true → exec (.swapTakeEffect core) s = .next (done u)) ∧
       (c.isSwap = false → exec (.swapTakeEffect core) s = .next (u.updCmd core c fun d => { d with swapped := true }))) ∧
    (∀ f, loadable e = some c → c.ins = .mload f → exec (.mloadComplete core) s =
      .next (done (s.updEngine core fun q => { q with shadow := denseSet s c f }))) ∧
    (∀ f, loadable e = some c → c.ins = .mloads f → c.phase = .queued →
      let p := countedSet s c f
      let u := s.updEngine core fun q => { q with shadow := PlaneSet.reset }
      (loadsFault u (u.issuerOf c.gid c.bid 0 c.prv) c p = none → exec (.mloadsCountPhase core) s =
        .next (u.updCmd core c fun d => { d with phase := .counted, set := some p })) ∧
      (∀ a, loadsFault u (u.issuerOf c.gid c.bid 0 c.prv) c p = some a → ∃ r : Raise, r.cls = 0x07 ∧ r.deferred = true ∧
        r.recPc = c.pc ∧ r.recVa = a ∧
        exec (.mloadsCountPhase core) s = .next ((u.updCmd core c fun d => { d with phase := .failed r }).updGroup c.gid
          fun h => { h with stallCnt := 0 }))) ∧
    (∀ f p, loadable e = some c → c.ins = .mloads f → c.phase = .counted → c.set = some p → exec (.mloadsComplete core) s =
      .next (done (s.updEngine core fun q => { q with shadow := packedSet s c p }))) ∧
    (∀ a, startable e c.x = some c → c.stream? = some a →
      let p := e.live
      let r := (e.ctx c.x).step
      let ends := suitable a p = true ∧ r.sv = true ∧ r.within p.planes (rowCtl c.u2).m = false
      (¬ ends → ∃ t d, exec (.streamStart core c.x) s = .next t ∧ d ∈ (t.engine core).queue ∧ d.gid = c.gid ∧ d.seq = c.seq ∧
        (t.engine core).live = p ∧
        (suitable a p = true → d.phase = .running ∧ d.set = some p ∧ ((t.engine core).ctx c.x).step.sv = true) ∧
        (suitable a p = false → ∃ r : Raise, d.phase = .failed r ∧ r.cls = 0x12 ∧ r.code = 5)) ∧
      (ends → ∃ t, exec (.streamStart core c.x) s = .next t ∧ ((t.engine core).ctx c.x).step = { r with sv := false } ∧
        ((t.engine core).ctx c.x).tiles = (e.ctx c.x).tiles ∧ ∀ d ∈ (t.engine core).queue, ¬ (d.gid = c.gid ∧ d.seq = c.seq))) ∧
    (∀ a p n fa fb, runningStream e = some c → c.stream? = some a → c.set = some p → pendingStep s (e.ctx c.x).step c = some n →
      fmtOfCode a.fmt = some fa → fmtOfCode p.fmt = some fb → ∃ t, exec (.matrixStep core) s = .next t ∧
        let i := n % (rowCtl c.u2).m
        let r := (rowCtl c.u2).row0 + i
        let sa := rowScales c.scales a.bs (scaleBlocks a.fmt a.win) i
        let y := (t.engine core).ctx c.x
        (∀ col, col < 256 → tileWord y a.tile r col =
          (accumulate fa fb a.sat (tileWord (e.ctx c.x) a.tile r col)
            (stepPairs (fmtWidth fa) (streamRow s c a i) (p.slots (n / (rowCtl c.u2).m) col)) fun j =>
              (scaleOf a.sc sa (j / 32), scaleOf p.scaled (p.scales.getD col []) (j / 32))).1) ∧
        ∀ k i' col, k < 4 → col < 256 → (k ≠ a.tile ∨ i' ≠ r) → tileWord y k i' col = tileWord (e.ctx c.x) k i' col) ∧
    (∀ f, drainable e c.x = some c → c.ins = .mdrain f →
      let d := drainCtl c.u3 c.u3a c.u3b
      let i := drainPos (e.ctx c.x).step
      let g := s.issuerOf c.gid c.bid 0 c.prv
      let outs := rowPieces c.tr s g (engineNeed true c.prv) (c.u1 + BitVec.ofNat 64 (i * d.dpitch)) (rowBytes f.dfmt)
      let ins := if f.res then rowPieces c.tr s g (engineNeed false c.prv) (c.u2 + BitVec.ofNat 64 (i * d.rpitch)) (rowBytes f.rfmt)
        else []
      (d.m ≤ i → exec (.drainRow core c.x) s =
        .next (done (s.updMctx core c.x fun m => { m with step := { m.step with dv := false } }))) ∧
      (∀ x, i < d.m → rowHeld s g c f i = none → drainRowFault s g c f i = some x → ∃ t q r, exec (.drainRow core c.x) s = .next t ∧
        ((t.engine core).ctx c.x).step = { (e.ctx c.x).step with dv := true, drow := i } ∧ q ∈ (t.engine core).queue ∧
        q.gid = c.gid ∧ q.seq = c.seq ∧ q.phase = .failed r ∧ r.cls = x.1.cls ∧ r.deferred = true ∧ r.recVa = x.2.1 ∧ t.wp = s.wp) ∧
      (i < d.m → rowHeld s g c f i = none → drainRowFault s g c f i = none →
        (∀ p ∈ outs, writeWaits s (s.groupTag g) p.2 32 = false ∧ engineError s p.2 32 true = none) →
        (∀ p ∈ ins, waitsHome s p.2 32 false = false ∧ engineError s p.2 32 false = none) →
        let res := ofLeBytes (ins.flatMap (residualBytes s g c))
        let rw := rowBytes f.rfmt / 32
        let codes := (List.range 256).map fun col =>
          (drainElem c f d i col (tileWord (e.ctx c.x) f.tile.toNat (d.row0 + i) col)
            (if f.res then (fmtOfCode f.rfmt).map fun r => decodeElem r (res / 2 ^ (rw * col) % 2 ^ rw) else none)).1
        let bytes := packCodes (rowBytes f.dfmt / 32) codes
        let w := (outs.mapIdx fun k p => (k, p)).foldl
          (fun u (k, p) => engineWrite u g (c.site p.1) p.2 ((bytes.drop (32 * k)).take 32)) (engineTouch s g (ins.map (·.2)))
        ∃ t, exec (.drainRow core c.x) s = .next t ∧ t.wp = w.wp ∧ t.mem = w.mem ∧ t.caseMem = w.caseMem ∧
          ((t.engine core).ctx c.x).step = { (e.ctx c.x).step with dv := decide (i + 1 ≠ d.m), drow := i + 1 } ∧
          (f.zr = false → ((t.engine core).ctx c.x).tiles = (e.ctx c.x).tiles) ∧
          (f.zr = true → ∀ k r col, k < 4 → col < 256 → tileWord ((t.engine core).ctx c.x) k r col =
            if k = f.tile.toNat ∧ r = d.row0 + i then 0 else tileWord (e.ctx c.x) k r col) ∧
          (i + 1 = d.m → ∀ q ∈ (t.engine core).queue, ¬ (q.gid = c.gid ∧ q.seq = c.seq)))) ∧
    (∀ f, tileCompletable s e c.x = some c → c.ins = .mzero f → exec (.tileCommandComplete core c.x) s =
      .next (done (s.updMctx core c.x fun m => { m with tiles := vset m.tiles f.tile.toNat [] }))) ∧
    (∀ f, tileCompletable s e c.x = some c → c.ins = .mmova f → exec (.tileCommandComplete core c.x) s =
      .next (done (s.updMctx core c.x fun m => c.vals.foldl (fun m v => setTileWord m (v.1.extractLsb' 14 2).toNat
        (v.1.extractLsb' 8 6).toNat (v.1.extractLsb' 0 8).toNat v.2) m))) ∧
    (∀ a, tileCompletable s e c.x = some c → c.stream? = some a → ∃ t, exec (.tileCommandComplete core c.x) s = .next t ∧
      ((t.engine core).ctx c.x).step.sv = false ∧ ((t.engine core).ctx c.x).tiles = (e.ctx c.x).tiles ∧
      ∀ d ∈ (t.engine core).queue, ¬ (d.gid = c.gid ∧ d.seq = c.seq))

/-- R237, R239, R394: bytes of a copy arrive in the model's order (log 55), each read at its source and written at its
destination; a lane of FETCHC writes its 32 bytes to its Case offset and counts them down on its barrier; a line of a migrating
page moves whole, bytes and stamp, in one step. -/
def Obligations.CopyEvents : Prop :=
  (∀ (s : State) (core k : Nat) (r : ImpReq) (p q : Xlat), (s.engine core).imps[k]? = some r → r.failed = none →
    (copyReq r.req).page = false →
    let g := s.issuerOf r.gid r.bid r.grp r.prv
    xlateIn r.tr s g (engineNeed false r.prv) ((copyReq r.req).addrs r.pos).1 = .ok p →
    xlateIn r.tr s g (engineNeed true r.prv) ((copyReq r.req).addrs r.pos).2 = .ok q →
    fifoAt s p.place = none → fifoAt s q.place = none → switchingAt s p.place = false → switchingAt s q.place = false →
    xlateHeld r.tr s g ((copyReq r.req).addrs r.pos).1 = none → xlateHeld r.tr s g ((copyReq r.req).addrs r.pos).2 = none →
    waitsHome s p.place 1 false = false → writeWaits s (s.groupTag g) q.place 1 = false →
    engineError s p.place 1 false = none → engineError s q.place 1 true = none →
    let site : EngineSite := { path := 3, pc := r.pc, seq := r.seq, va := ((copyReq r.req).addrs r.pos).2, bar := r.bar }
    exec (.imposerBytesArrive core k 1) s =
      .next (impMoved (engineWrite (engineTouch s g [p.place]) g site q.place [imposerByte s g p.place]) core r 1)) ∧
  (∀ (s : State) (core k : Nat) (r : FetchC) (l : Nat) (x y : Word) (off : Nat) (rest : List (Nat × Word × Word × Nat)) (t : State)
    (v : Nat) (p : Place), (s.engine core).fetchcs[k]? = some r → r.failed = none → r.lanes = (l, x, y, off) :: rest →
    let g := s.issuerOf r.gid r.bid r.grp r.prv
    fountFetch r.tr s g r.prv r.h.entry 256 x y = (t, .ok v) → blockPlace t r.bid off = some p →
    let u := engineWrite t g { path := 2, pc := r.pc, seq := r.seq, va := 0x01FFFFFFFF000000 + BitVec.ofNat 64 off, bar := r.bar } p
      (leBytes 32 v)
    let w := match r.bar with
      | some b => countDown u r.bid b 32
      | none => u
    let upd := fun (f : FetchC → Option FetchC) => w.updEngine core fun e => { e with
      fetchcs := e.fetchcs.filterMap fun q => if q.gid == r.gid && q.seq == r.seq then f q else some q }
    (rest = [] → exec (.fetchcBytesArrive core k) s =
      .next ((upd fun _ => none).updGroup r.gid fun h => { h with stallCnt := 0 })) ∧
    (rest ≠ [] → exec (.fetchcBytesArrive core k) s = .next (upd fun q => some { q with lanes := rest }))) ∧
  ∀ (s : State) (k : Nat) (m : Migr) (a b : Nat) (r : ImpReq), s.Canonical → s.migr[k]? = some m →
    m.lines.find? (fun l => !l.2.2) = some (a, b, false) → a ≠ b →
    (s.engine m.core).imps.find? (fun r => r.gid == m.gid && r.seq == m.seq) = some r → tokenHeld s (.mem (a * 256)) 256 = false →
    hostHolds s (.mem (a * 256)) 256 true = false → hostHolds s (.mem (b * 256)) 256 true = false →
    let u := performWhere s fun e => e.inFrame a || e.inFrame b
    ∃ v, exec (.migrationLineCopy k) s = .next (impMoved v m.core r 256) ∧
      (∀ o, o < 256 → cellGet v.mem (b * 256 + o) = cellGet u.mem (a * 256 + o)) ∧
      (∀ x, x / 256 ≠ b → cellGet v.mem x = cellGet u.mem x) ∧ stampOf v b = stampOf u a ∧
      v.migr = s.migr.map fun z => if z.gid == m.gid && z.seq == m.seq then
        { z with lines := z.lines.map fun l => if l.1 == a then (l.1, l.2.1, true) else l } else z

/-! ## Commits -/

/-- R153, R187, R342, R345, R191, R192: a batch that asks takes the lowest slice it needs and does not hold when its token is free and
no batch asked for it before; with the last it commits. A free Quoin is taken by the batch of the lowest key that no group obstructs
(batches of handlers take none, R401), one that its group keeps by the group's retry; an ATOM or RED is performed as its batch takes it, and passes it on. A lane whose
domain's token has come reruns in order after SPBEGIN, commits its ordered rerun, or presents its iteration's batch. -/
def Obligations.CommitEvents : Prop :=
  (∀ (s : State) (b : Batch), s.batches.find? (fun c => c.id == b.id) = some b →
    (b.kind = .spend ∨ (b.kind = .tend ∧ (batchDet s b = false ∨ b.quoin = true))) →
    (∀ w ∈ batchWords s b, hostHolds s (.mem w) 4 true = false) → (∀ w ∈ batchWrites s b, spillFull s w.1 (.mem w.2) 4 = false) →
    let left := b.need.filter fun k => !b.held.contains k
    (left = [] → exec (.commitTokenGrant b.id) s = .next (commitBatch s b)) ∧
    ∀ k r, left = k :: r →
      let free := ∀ c ∈ s.batches, c.id ≠ b.id →
        k ∉ c.held ∧ ¬ (c.asks s = true ∧ c.need.find? (fun j => !c.held.contains j) = some k ∧ c.ask < b.ask)
      (¬ free → exec (.commitTokenGrant b.id) s = .refused (.notEnabled "COMMIT_TOKEN_GRANT")) ∧
      (free → (∀ j ∈ r, j = k) → exec (.commitTokenGrant b.id) s = .next (commitBatch s b)) ∧
      (free → (∃ j ∈ r, j ≠ k) → exec (.commitTokenGrant b.id) s =
        .next { s with nextId := s.nextId + 1, batches := s.batches.map fun c =>
          if c.id = b.id then { c with held := c.held ++ [k], ask := s.nextId } else c })) ∧
  (∀ (s : State) (b : Batch) (g : Group) (l : Launch), s.batches.find? (fun c => c.id == b.id) = some b →
    s.group? b.gid = some g → s.launch? b.lid = some l → b.quoin = false → b.kind ≠ .spend → l.lr.det = true → g.priv = .user →
    let first := l.quoin = none ∧ (∀ c ∈ s.batches, c.lid = b.lid → c.kind ≠ .spend → ∀ h, s.group? c.gid = some h → h.priv = .user →
        keyLt (quoinKey s h) (quoinKey s g) = false ∧ (c.gid = b.gid → b.id ≤ c.id)) ∧
      ∀ h ∈ launchGroups s b.lid, obstructs s (quoinKey s g) h = false
    let again := l.quoin = some b.gid ∧ b.kind = .tend ∧ (∃ k ∈ b.lanes, (g.lane k).tx.retry = true) ∧ inTurn s g b = true ∧
      ∀ c ∈ s.batches, c.gid = b.gid → c.quoin = false
    (¬ (first ∨ again) → exec (.quoinTake b.id) s = .refused (.notEnabled "QUOIN_TAKE")) ∧
    (first ∨ again → b.op = none →
      ∃ t, exec (.quoinTake b.id) s = .next t ∧ t.launch? b.lid = some { l with quoin := some b.gid } ∧
        t.batches = s.batches.map fun c => if c.id = b.id then { c with quoin := true, ask := s.nextId } else c) ∧
    ∀ m, first ∨ again → b.op = some m →
      let passes := rowClass s g m = [] ∧ m.failing s g .translation = [] ∧ m.denied s g = [] ∧ rowHome s g m = []
      (switching s g m = true → exec (.quoinTake b.id) s = .refused (.notEnabled "QUOIN_TAKE")) ∧
      (switching s g m = false → ¬ passes → exec (.quoinTake b.id) s = .next { s with batches := s.batches.filter fun c => c.id != b.id }) ∧
      ∀ t, switching s g m = false → passes → m.held s g = none → runAtom (holdQuoin s b) g b m = (t, false) → exec (.quoinTake b.id) s =
        .next (settleQuoin { t with batches := t.batches.filter fun c => c.id != b.id } b.lid)) ∧
  ∀ (s : State) (g : Group) (n l : Nat) (p : WaitPoint), s.group? n = some g → (g.lane l).st = .waiting p →
    (p = .spend ∨ p = .rerun) →
    let x := (g.lane l).tx
    let u := recallWords s [x.domain]
    let next := domainNext u x.domain
    waitsHome s (.mem x.domain) 4 (p == .spend && x.ordered) = false → recallBlocked s [x.domain] = none →
    (next ≠ x.iter.toNat → exec (.spendTokenReached n l) s = .refused (.notEnabled "SPEND_TOKEN_REACHED")) ∧
    (next = x.iter.toNat →
      (p = .rerun → exec (.spendTokenReached n l) s = .next (u.updLane n l fun y => { y with
        st := .live, pc := x.start + 4, age := 0, wake := none,
        tx := { y.tx with spec := true, ordered := true, squashed := false } })) ∧
      (p = .spend → x.ordered = true → exec (.spendTokenReached n l) s = .next (commitSpend u n l)) ∧
      (p = .spend → x.ordered = false → spendPresented u n l = false → exec (.spendTokenReached n l) s =
        .next (present u g .spend [l] (slicesOf u (x.domain :: x.words)))))

/-! ## Events of the management window and of the queues -/

/-- R389, R407, R410 to R415, R420: management writes: a window that is not live ignores every write. A doorbell within QLAST (after a clear of
overrun QREAD) and QREAD + 2^Z makes records visible, any other puts the queue in overrun, and in overrun none is taken. QCTL and its
action bits, event acknowledgement, single registers (DEVNUM while no launch stands, a pool range but for the device's fields, in
which a 1 ends the fence, PEERACC by 64 bits, the peer routes), the same registers written at their offsets, the fence clear, the replay
doorbell, and the summary, behind whose write the busy bit is clear again. The model's choices: a write of one of QCTL's bits is one of
the whole register, so that hold clears evict and abort (log 36), and RESYNC of an unaligned address or one in pool memory writes
nothing but sets event bit 5 (log 32). -/
def Obligations.WindowEvents : Prop :=
  ∀ (s : State) (q : BitVec 6) (w : DWord) (v : BitVec 32), s.Canonical →
    let x := s.queue q.toNat
    (windowLive s = false → ∀ i ∈ [Instr.qdoor q w, .qctlEn q v, .qctlHold q true, .qctlEvict q, .qctlAbort q, .qctlClearOverrun q,
      .resync w, .creplay q, .poolrngFencedClear 3, .mgmtRegisterWrite 0x18 w], exec i s = .next s) ∧
    (windowLive s = true →
      (x.overrun = true → exec (.qdoor q w) s = .next s) ∧
      (x.overrun = false →
        let low := if x.anyDoor then x.read else x.last
        let fits := low ≤ w.toNat ∧ x.read ≤ w.toNat ∧ w.toNat ≤ x.read + 2 ^ x.z
        (fits → exec (.qdoor q w) s = .next (s.updQueue q.toNat fun y => { y with last := w.toNat, anyDoor := false })) ∧
        (¬ fits → exec (.qdoor q w) s = .next (mgmtEvent (s.updQueue q.toNat fun y => { y with overrun := true }) 0) ∧
          (s.late = [] → ∃ t, exec (.qdoor q w) s = .next t ∧ t.queue q.toNat = { x with overrun := true } ∧
            t.host.event.getLsbD 0 = true ∧ t.host.msix = s.host.msix ++ [0]))) ∧
      (v.getLsbD 26 = false → v.getLsbD 27 = false → v.getLsbD 28 = false →
        let z := if x.en then x.z else (v.extractLsb' 0 5).toNat
        exec (.qctlEn q v) s = .next (s.updQueue q.toNat fun y => { y with
          z := z, cls := (v.extractLsb' 8 2).toNat, ctx := (v.extractLsb' 16 6).toNat,
          en := v.getLsbD 24 && (decide (4 ≤ z) && decide (z ≤ 16)), hold := v.getLsbD 25, evict := false, abort := false })) ∧
      (∀ on, exec (.qctlHold q on) s = .next (s.updQueue q.toNat fun y => { y with hold := on, evict := false, abort := false })) ∧
      (∃ t, exec (.qctlEvict q) s = .next t ∧ (t.queue q.toNat).evict = true ∧ ∀ b ∈ t.blocks,
        (b.phase = .resident ∨ b.phase = .gang) → (∃ l ∈ s.launches, l.q = q.toNat ∧ l.lid = b.lid) → b.preempt = true) ∧
      (∃ t, exec (.qctlAbort q) s = .next t ∧ ∀ l ∈ x.lids, ∀ y, t.launch? l = some y → y.how.isSome = true) ∧
      (x.overrun = true → ∃ t, exec (.qctlClearOverrun q) s = .next t ∧ (t.queue q.toNat).overrun = false ∧
        (t.queue q.toNat).anyDoor = true ∧ (t.queue q.toNat).read = x.read) ∧
      exec (.mgmtRegisterWrite 0x18 w) s = .next (s.updHost fun h => { h with event := h.event &&& ~~~w }) ∧
      exec (.mgmtRegisterWrite 0x20 w) s = .next (s.updHost fun h => { h with ptime := loWord w }) ∧
      exec (.mgmtRegisterWrite 0x28 w) s = .next (s.updHost fun h => { h with ctxbase := w }) ∧
      (∀ c, c < 64 → exec (.mgmtRegisterWrite (0x2004 + 16 * c) w) s = .next (s.updCtx c fun y => { y with tail := loWord w })) ∧
      (∀ k, k < 64 → (s.queue k).en = false →
        exec (.mgmtRegisterWrite (0x1000 + 64 * k) w) s = .next (s.updQueue k fun y => { y with base := w })) ∧
      (s.launches = [] → exec (.mgmtRegisterWrite 0x08 w) s = .next (s.updHost fun h => { h with devnum := loWord w })) ∧
      (s.launches ≠ [] → exec (.mgmtRegisterWrite 0x08 w) s = .next s) ∧
      (∀ i, i < 16 → ∃ t, exec (.mgmtRegisterWrite (0x100 + 8 * i) w) s = .next t ∧
        { t with host := { t.host with poolrng := s.host.poolrng } } = s ∧
        ∀ j b, j < 16 → (vget 0 t.host.poolrng j).getLsbD b =
          let old := (vget 0 s.host.poolrng j).getLsbD b
          if j ≠ i then old else if b = 62 then old && !w.getLsbD b else if 56 ≤ b ∧ b < 62 then old
          else if 24 ≤ b ∧ b < 28 then false else w.getLsbD b) ∧
      (∀ i, i < 4 → ∃ t, exec (.mgmtRegisterWrite (0x3000 + 8 * i) w) s = .next t ∧
        { t with host := { t.host with peeracc := s.host.peeracc } } = s ∧
        ∀ d, t.host.peeracc.getLsbD d = if d / 64 = i then w.getLsbD (d % 64) else s.host.peeracc.getLsbD d) ∧
      (∀ d, d < 256 → ∃ t, exec (.mgmtRegisterWrite (0x3100 + 2 * d) w) s = .next t ∧
        { t with host := { t.host with routes := s.host.routes } } = s ∧
        ∀ j, j < 256 → vget 0 t.host.routes j = if j = d then w.setWidth 16 else vget 0 s.host.routes j) ∧
      exec (.mgmtRegisterWrite 0x10 w) s = exec (.resync w) s ∧
      exec (.mgmtRegisterWrite (0x1008 + 64 * q.toNat) w) s = exec (.qctlEn q (loWord w)) s ∧
      exec (.mgmtRegisterWrite (0x1010 + 64 * q.toNat) w) s = exec (.qdoor q w) s ∧
      exec (.mgmtRegisterWrite (0x2008 + 16 * q.toNat) w) s = exec (.creplay q) s ∧
      (∀ k : BitVec 4, ∃ t, exec (.poolrngFencedClear k) s = .next t ∧
        ∀ j b, j < 16 → (vget 0 t.host.poolrng j).getLsbD b =
          ((vget 0 s.host.poolrng j).getLsbD b && !(j == k.toNat && b == 62))) ∧
      (s.host.resync = true → exec (.resync w) s = .next s) ∧
      (s.host.resync = false →
        let toMemory := w.toNat % 4096 = 0 ∧ (inHbm w.toNat = true ∨ inHost w.toNat = true)
        (¬ toMemory → exec (.resync w) s = .next (mgmtEvent s 5)) ∧
        (toMemory →
          let u := deviceWrite (s.updHost fun h => { h with resync := true }) w.toNat (summary s)
          (summary s).length = 4096 ∧
          exec (.resync w) s = .next (msix (lateDo (lateDo u .resyncDone) (.event 5)) 0) ∧
          (s.late = [] → waitsHome s (.mem w.toNat) 4096 true = false → ∃ t, exec (.resync w) s = .next t ∧ t.mem = u.mem ∧
            t.host.resync = false ∧ t.host.event.getLsbD 5 = true ∧ t.host.msix = s.host.msix ++ [0] ∧
            (s.migr = [] → ∀ o, o < 4096 → cellGet t.mem (w.toNat + o) = (summary s).getD o 0)))) ∧
      ((∀ g ∈ s.groups, ¬ (g.ctx = q.toNat ∧ g.hold.host = true)) → exec (.creplay q) s = .next (retryEngines s q.toNat)) ∧
      ∀ g, (s.groups.filter fun g => g.ctx == q.toNat && g.hold.host) = [g] → s.group? g.gid = some g →
        (∀ m ∈ g.fl.opLog, m.failing (retryEngines s q.toNat) g .translation = []) →
        exec (.creplay q) s = .next (raiseStanding ((retryEngines s q.toNat).updGroup g.gid fun h => { h with
          hold := { h.hold with host := false }, fl := { h.fl with replay := !h.fl.opLog.isEmpty, hostPath := !h.fl.opLog.isEmpty } }) g.gid))

/-- R248, R251, R269, R413, R414, R416, R417: the next visible record is fetched, at most two ahead of QDONE, decoded, and refused
at once where a check fails; a record that cannot be read puts the queue in overrun; a queue's oldest launch whose blocks are gone
and whose writes are performed completes: the versions of a deterministic launch are folded, its completion block is written at
compl, QDONE advances, its interrupt is raised. -/
def Obligations.QueueEvents : Prop :=
  (∀ (s : State) (q : BitVec 6), deviceRuns s = true → (s.queue q.toNat).en = true → (s.queue q.toNat).overrun = false →
    (s.queue q.toNat).anyDoor = false → (s.queue q.toNat).read < (s.queue q.toNat).last →
    let x := s.queue q.toNat
    let a := x.base.toNat / 4096 * 4096 + 128 * (x.read % 2 ^ x.z)
    (x.done + 2 ≤ x.read → exec (.recordFetch q) s = .refused (.notEnabled "RECORD_FETCH")) ∧
    (x.read < x.done + 2 → (inMemory a = false ∨ (waitsHome s (.mem a) 128 false = false ∧ poisonedAt s (.mem a) 128 = true)) →
      exec (.recordFetch q) s = .next (mgmtEvent (s.updQueue q.toNat fun y => { y with overrun := true }) 0)) ∧
    (x.read < x.done + 2 → inMemory a = true → poisonedAt s (.mem a) 128 = false → waitsHome s (.mem a) 128 false = false →
      ∃ t l, exec (.recordFetch q) s = .next t ∧ t.launches = s.launches ++ [l] ∧ l.lid = s.nextId ∧ l.q = q.toNat ∧
        t.queue q.toNat = { x with read := x.read + 1, lids := x.lids ++ [l.lid] } ∧
        l.lr = launchRec (physNum s a 128) ∧ l.how = (refusal s (physNum s a 128)).map LaunchEnd.refused)) ∧
  (∀ (s : State) (l : Nat) (x : Launch) (r : List Nat), deviceRuns s = true → s.launch? l = some x → x.q < 64 →
    (s.queue x.q).lids = l :: r → launchDone s x = true → launchQuiet s x = true → s.late = [] →
    let a := x.lr.compl.toNat
    waitsHome s (.mem a) 64 true = false → ∃ t, exec (.launchRetire l) s = .next t ∧ t.launch? l = none ∧
      (let u := foldVersions s l
       (inMemory a = true → t.mem = (deviceWrite u a (completionBlock x)).mem ∧
         (inHbm a = true → s.Canonical → s.migr = [] → ∀ o, o < 64 → cellGet t.mem (a + o) = (completionBlock x).getD o 0)) ∧
       (inMemory a = false → t.mem = u.mem)) ∧
      (t.queue x.q).done = (s.queue x.q).done + 1 ∧ l ∉ (t.queue x.q).lids ∧
      (x.lr.irq = true → t.host.msix = s.host.msix ++ [1 + x.q]) ∧ (x.lr.irq = false → t.host.msix = s.host.msix)) ∧
  ∀ (l : Launch), (completionBlock l).length = 64 ∧ (completionBlock l).take 4 = leBytes 4 l.lr.cval.toNat ∧
    (l.how = none → ((completionBlock l).drop 4).take 2 = [0, 0]) ∧
    (∀ d, l.how = some (.refused d) → ((completionBlock l).drop 4).take 2 = [1, BitVec.ofNat 8 d]) ∧
    (∀ c r, l.how = some (.fault c r) → ((completionBlock l).drop 4).take 2 = [2, BitVec.ofNat 8 c] ∧
      (completionBlock l).drop 32 = leBytes 32 r) ∧
    (l.how = some .aborted → ((completionBlock l).drop 4).take 2 = [3, 0])

/-! ## Dispatch and pre-emption -/

/-- R249, R256 to R258: a die reports its room; the dispatcher sends a launch that may be served, and fits, a batch of its next
blocks; a batch is placed whole on the cores that the die has room on, or returned whole with a fresh report; a co-resident launch
that fits reserves, in its turn, a core for every block before any is sent. Its turn has come where no launch served before it can
place a block, and no other co-resident launch of its class or a lower number waits for want of a placement. -/
def Obligations.DispatchEvents : Prop :=
  (∀ (s : State) (d : BitVec 3), (∀ p ∈ s.disp.reports, p.1 = d.toNat → p.2 ≠ dieReport s d.toNat) →
    ∃ t, exec (.dieReport d) s = .next t ∧ ∀ z k, listGet z t.disp.reports k =
      if k = d.toNat then dieReport s d.toNat else listGet z s.disp.reports k) ∧
  (∀ (s : State) (l : Launch) (ls : List Launch) (d : Nat) (r : Report), deviceRuns s = true → serveOrder s = l :: ls →
    gangAllows s l = true → l.pending 1 ≠ [] → (l.lr.det = true → ∀ x ∈ s.disp.sends, x.lid ≠ l.lid) →
    l.lr.coresident = false → l.lr.clusterdim ≤ 1 → d < 8 → dieRoom s d = some r →
    (r.placeMany l.lr (fun c => openCore s l c && setOk r l.lr c) 1).isSome = true →
    ∃ t x, exec .dispatchBatch s = .next t ∧ t.disp.sends = s.disp.sends ++ [x] ∧ x.lid = l.lid ∧ x.die < 8 ∧ x.blocks ≠ [] ∧
      x.blocks = l.pending x.blocks.length ∧ t.blocks = s.blocks) ∧
  (∀ (s : State) (die : BitVec 3) (d : Send) (l : Launch), s.disp.sends.find? (fun x => x.die == die.toNat) = some d →
    s.launch? d.lid = some l → l.how = none →
    let u : State := { s with disp := { s.disp with sends := s.disp.sends.erase d } }
    let room := lessReserved u (dieReport u die.toNat) fun lid i => lid == d.lid && d.blocks.any fun b => b.idx == i
    (∀ cs, acceptCores u l room d.blocks = some cs → contextHeld u l.ctx = none → ∃ t, exec (.batchReceive die) s = .next t ∧
      t.disp.sends = s.disp.sends.erase d ∧
      (t.blocks.drop s.blocks.length).map (fun b => (b.lid, b.idx, b.core)) = (d.blocks.zip cs).map fun z => (l.lid, z.1.idx, z.2)) ∧
    (acceptCores u l room d.blocks = none → ∃ t y, exec (.batchReceive die) s = .next t ∧ t.blocks = s.blocks ∧
      t.groups = s.groups ∧ t.launch? d.lid = some y ∧ (∀ b ∈ d.blocks, b ∈ y.again) ∧
      ∀ z, listGet z t.disp.reports die.toNat = dieReport s die.toNat)) ∧
  ∀ (s : State) (n : Nat) (l : Launch) (cs : List Nat), deviceRuns s = true → s.launch? n = some l → gangWaits s l = true →
    (∃ ms ls, serveOrder s = ms ++ l :: ls ∧
      ∀ m ∈ ms, gangAllows s m = false ∨ (gangWaits s m = true ∧ gangPlace s m = none) ∨ (gangWaits s m = false ∧ serve s m = none)) →
    (∀ g ∈ s.launches, g.lid ≠ n → g.cls ≤ l.cls → gangWaits s g = true → gangPlace s g ≠ none) →
    (∀ b ∈ s.blocks, b.lid ≠ n) → 8 ≤ s.disp.reports.length →
    (l.lr.dbar ≠ 0 → (s.launches.filter Launch.gridSet).length < 16) →
    let r := lessReserved s (joinReports (s.disp.reports.map (·.2))) fun _ _ => false
    gangFits l.lr (openCore s l) r l.unplaced = some cs →
    ∃ t y, exec (.gangDispatch n) s = .next t ∧ t.launch? n = some y ∧ y.ganged = true ∧ y.gridSet = (l.lr.dbar != 0) ∧
      y.reserve.map (fun z => (z.idx, z.core)) = (cs.zip l.unplaced).map fun z => (z.2, some z.1)

/-- R265 to R268, R363: a victim that can be pre-empted is stopped with the blocks that go with it; a restartable block that has
drained is discarded and rejoins its launch; another enters the save handler in every group, at the entry taken when it was chosen;
a saved block returns to its core, where no new block of a lower class number goes before it (log 73), every group at the start of
the restore handler. -/
def Obligations.PreemptionEvents : Prop :=
  ∀ (s : State) (n : Nat) (b : Block), s.block? n = some b →
    (deviceRuns s = true → b.phase = .resident → canPreempt s b = true → b.preempt = true →
      (discardable s b = true ∨ handlerHeld s b 0x18 = none) →
      exec (.preemptDecide n) s = .next (stopBlocks s ((together s b).filter fun c => c.phase == .resident))) ∧
    (deviceRuns s = true → b.phase = .draining → discardable s b = true → masked s b = false →
      ∃ t l r, exec (.preemptDecide n) s = .next t ∧ t.block? n = none ∧ (∀ g ∈ t.groups, g.bid ≠ n) ∧
        t.launch? b.lid = some l ∧ r ∈ l.again ∧ r.idx = b.idx ∧ l.ganged = false) ∧
    (deviceRuns s = true → b.phase = .draining → (discardable s b = false ∨ masked s b = true) →
      exec (.preemptDecide n) s = .refused (.notEnabled "PREEMPT_DECIDE")) ∧
    (∀ c e, b.entry = some (c, e) → b.phase = .draining → discardable s b = false → masked s b = false →
      (∃ g ∈ s.groups, g.bid = n) → ∃ t y, exec (.saveHandlerEntry n) s = .next t ∧ t.block? n = some y ∧ y.phase = .saving ∧
        ∀ g ∈ s.groups, g.bid = n → ∃ h ∈ t.groups, h.gid = g.gid ∧ h.priv = .save ∧ h.trap.tcause = 0x18 ∧
          (∀ l, l < 32 → (h.lane l).st = .live ∧ (h.lane l).pc = e) ∧
          (g.lig = none → (∀ l, l < 32 → (g.lane l).tx.isOpen = false ∧ (g.lane l).tx.speculative = false) →
            ∀ l, l < 32 → (h.lane l).tpc = (g.lane l).pc)) ∧
    ∀ l c e, s.launch? b.lid = some l → deviceRuns s = true → (s.queue l.q).hold = false → l.lr.coresident = false →
      b.phase = .saved → b.saved ≠ [] → newAhead s b = false → handlerOf s b 0x19 = some (c, e) → contextHeld s b.ctx = none →
      (∀ d ∈ s.blocks.takeWhile (fun d => d.bid != b.bid), ¬ (d.phase = .saved ∧ d.core = b.core)) →
      restoreFits l.lr (lessReserved s (joinReports ((List.range 8).map (dieReport s))) fun _ _ => false) [b] = true →
      ∃ t y, exec (.blockRestore n) s = .next t ∧ t.block? n = some y ∧ y.phase = .restoring ∧
        ∀ g ∈ b.saved, ∃ h ∈ t.groups, h.gid = g.gid ∧ h.priv = .restore ∧ h.trap.tcause = 0x19 ∧
          ∀ k, k < 32 → (h.lane k).st = .live ∧ (h.lane k).pc = e

/-! ## Links and peers -/

/-- R404, R405, R406: a host read is served with the line's bytes, in each sector those of the newest sealed impression where it
keeps impressions; a host write is performed at home (on a page that a
leaf of a context's page tables makes a galley page, or that impression instructions have accessed, it is discarded and event bit 3
set: the model's reading, log 40); the answer to a back-invalidation ends
its wait, and data it brings are the line's bytes from then on; snoops and evictions of the device cache, after which the home holds the data of a line that was dirty. -/
def Obligations.HostEvents : Prop :=
  ∀ s : State, s.Canonical → deviceRuns s = true →
    (∀ pa keep, pa % 64 = 0 → inHbm pa = true → lineWaits s pa 64 = false → tokenHeld s (.mem pa) 64 = false →
      bytesBlocked s pa 64 = none →
      let u := recallBytes s pa 64
      ∃ t m, exec (.hostRead pa keep) s = .next t ∧ t.host.outbox = u.host.outbox ++ [m] ∧ t.mem = u.mem ∧
        (poisonedAt u (.mem pa) 64 = true → m = .hostPoison pa) ∧
        (poisonedAt u (.mem pa) 64 = false → ∃ lo hi, m = .hostData pa (lo ++ hi) ∧ ∀ q ∈ [(pa / 32, lo), (pa / 32 + 1, hi)],
          let kept := u.imps.find? fun c => c.sector == redirect u (q.1 * 32) / 32
          (∀ c i, kept = some c → c.newestSealed (fun _ => true) = some i → q.2 = i.bytes) ∧
          (kept = none → q.2 = (List.range 32).map fun o => homeByte u none (q.1 * 32 + o))) ∧
        (keep ≠ .nothing → (pa / 64, keep) ∈ t.host.hostHeld)) ∧
    (∀ pa (bytes : List Byte), bytes ≠ [] →
      let n := bytes.length
      (inHbm pa = true → inHbm (pa + n - 1) = true → lineWaits s pa n = false →
        tokenHeld s (.mem pa) n = false →
        (onGalleyPage s pa n = true → exec (.hostWrite pa bytes) s = .next (mgmtEvent s 3)) ∧
        (onGalleyPage s pa n = false → bytesBlocked s pa n = none → exec (.hostWrite pa bytes) s =
          .next (writeRun (recallBytes s pa n) none 0 none (.mem pa) bytes))) ∧
      (inHost pa = true → inHost (pa + n - 1) = true → (∀ o, o < n → lineOut s ((pa + o) / 64) = true) →
        ∃ t, exec (.hostWrite pa bytes) s = .next t ∧ (∀ o, o < n → cellGet t.mem (pa + o) = bytes.getD o 0) ∧
          ∀ a, (a < pa ∨ pa + n ≤ a) → cellGet t.mem a = cellGet s.mem a)) ∧
    (∀ line (data : Option (List Byte)), line ∈ s.host.snoops → ∃ t, exec (.birsp line data) s = .next t ∧
      line ∉ t.host.snoops ∧ (data = none → t.mem = s.mem) ∧
      ∀ bs : List Byte, data = some bs → fenced s (redirect s (line * 64)) = false →
        (∀ o, o < 64 → o < bs.length → cellGet t.mem (redirect s (line * 64 + o)) = bs.getD o 0) ∧
        ∀ a, (∀ o, o < 64 → o < bs.length → a ≠ redirect s (line * 64 + o)) → cellGet t.mem a = cellGet s.mem a) ∧
    (∀ line, ∀ e ∈ ([(.snpData line, inHost (line * 64), 0), (.snpCur line, inHost (line * 64), 1), (.snpInv line, inHost (line * 64), 2),
        (.bisnpData line, inPool (line * 64), 0), (.bisnpCur line, inPool (line * 64), 1), (.bisnpInv line, inPool (line * 64), 2)] :
        List (Instr × Bool × Nat)), e.2.1 = true →
      (s.host.l3.find? (fun x => x.line == line) = none → exec e.1 s =
        .next (s.updHost fun h => { h with outbox := h.outbox ++ [.snoopReply line .i] })) ∧
      ∀ x, s.host.l3.find? (fun x => x.line == line) = some x →
        let st : L3St := if x.st = .i then .i else if e.2.2 = 2 then .i else if e.2.2 = 1 ∧ x.st = .e then .e else .s
        let u := if x.st = .m ∨ x.st = .o ∨ e.2.2 = 2 then recallBytes s (line * 64) 64 else s
        ∃ t, exec e.1 s = .next t ∧ (∀ y ∈ t.host.l3, y.line = line → y.st = st) ∧
          t.host.outbox.getLast? = some (.snoopReply line st) ∧ t.mem = u.mem ∧
          ((x.st = .m ∨ x.st = .o) → (∀ y ∈ s.host.l3, y.home.length ≤ 64) →
            ∀ o, o < 64 → cellGet (homesMem t) (line * 64 + o) = cellGet u.mem (line * 64 + o))) ∧
    ∀ line x,
      let u := recallBytes s (line * 64) 64
      u.host.l3.find? (fun y => y.line == line) = some x → x.st ≠ .i →
      ∃ t m, exec (.deviceCacheEviction line) s = .next t ∧ (∀ y ∈ t.host.l3, y.line ≠ line) ∧ t.host.outbox.getLast? = some m ∧
        t.mem = u.mem ∧
        ((∀ y ∈ s.host.l3, y.home.length ≤ 64) →
          ∀ o, o < 64 → cellGet (homesMem t) (line * 64 + o) = cellGet u.mem (line * 64 + o)) ∧
        m = (match x.st with
          | .i => .cleanEvictNoData line
          | .s => .cleanEvictNoData line
          | .e => .cleanEvict line
          | .o => .dirtyEvict line
          | .m => .dirtyEvict line)

/-- R14, R408 to R411: a peer that PEERACC admits is served at home, another refused; a lost request is reported against its
site; a peer port that goes down leaves every route; a pool range that fails by poison, timeout or its port is fenced with its
cause, 1 to 3, also where dirty lines are dropped (cause 4 is never written: the model's choice, log 39), and a request that timed out
ends its grid; a failed core takes no new group and its column's repair word names it. -/
def Obligations.FailureEvents : Prop :=
  ∀ s : State, deviceRuns s = true →
    (∀ (dev : BitVec 8) (r : PeerReq), (peerSpan r).2.1 ≠ 0 → inHbm (peerSpan r).1 = true →
      inHbm ((peerSpan r).1 + (peerSpan r).2.1 - 1) = true →
      (s.host.peeracc.getLsbD dev.toNat = false → exec (.peerRequest dev r) s =
        .next (s.updHost fun h => { h with outbox := h.outbox ++ [.peerRefused dev.toNat] })) ∧
      (s.host.peeracc.getLsbD dev.toNat = true → waitsHome s (.mem (peerSpan r).1) (peerSpan r).2.1 (peerSpan r).2.2 = false →
        bytesBlocked s (peerSpan r).1 (peerSpan r).2.1 = none →
        (∀ pa len, r = .read pa len →
          let u := recallBytes s pa len
          exec (.peerRequest dev r) s = .next (u.updHost fun h => { h with
            outbox := h.outbox ++ [.peerData dev.toNat ((List.range len).map fun o => homeByte u none (pa + o))] })) ∧
        (∀ pa bytes, r = .write pa bytes → exec (.peerRequest dev r) s =
          .next (writeRun (recallBytes s pa bytes.length) none 0 none (.mem pa) bytes)) ∧
        ∃ t, exec (.peerRequest dev r) s = .next t)) ∧
    (∀ (l : Nat) (site : AsyncSite), site.code = 2 → ∀ i ∈ [Instr.peerRequestTimeout l site, .peerRefusalReceived l site],
      ∃ t w, exec i s = .next t ∧ t.async = s.async ++ [w] ∧ w.lid = l ∧ w.site = site ∧ t.mem = s.mem ∧
        (∀ q ∈ t.sq ++ t.wp, q.isSite s l site inPeer = false) ∧
        ∀ q ∈ s.sq, q.isSite s l site inPeer = false → q ∈ t.sq) ∧
    (∀ (port : BitVec 4) (hit : List Nat), s.host.peerUp.getLsbD port.toNat = true → ∃ t, exec (.peerPortDown port hit) s = .next t ∧
      (∀ k, t.host.peerUp.getLsbD k = (s.host.peerUp.getLsbD k && k != port.toNat)) ∧
      (∀ d k, d < 256 → (vget 0 t.host.routes d).getLsbD k = ((vget 0 s.host.routes d).getLsbD k && k != port.toNat)) ∧
      ∀ e ∈ s.sq, e.id ∈ hit → onPort s port.toNat e = true → (∀ q ∈ t.sq, q.id ≠ e.id) ∧ ∃ a ∈ t.async, a.lid = e.lid ∧ a.site.code = 2 ∧
        a.site.seq = e.seq) ∧
    (∀ k : BitVec 4, (vget 0 s.host.poolrng k.toNat).getLsbD 63 = true →
      (∃ t, exec (.poolPoison k) s = .next t ∧ (vget 0 t.host.poolrng k.toNat).extractLsb' 56 7 = 0x41 ∧
        t.host.event.getLsbD 1 = true) ∧
      ∀ (l : Nat) (site : AsyncSite), site.code = 3 → ∃ t, exec (.poolRequestTimeout k l site) s = .next t ∧
        (∀ x, s.launch? l = some x → ∃ y, t.launch? l = some y ∧
          y.how = x.how.orElse fun _ => some (.fault 0x12 (siteRecord site true))) ∧ (vget 0 t.host.poolrng k.toNat).extractLsb' 56 7 = 0x42 ∧ t.host.event.getLsbD 1 = true) ∧
    (∀ port : BitVec 1, s.host.poolUp.getLsbD port.toNat = true → ∃ t, exec (.poolPortDown port) s = .next t ∧
      t.host.poolUp.getLsbD port.toNat = false ∧ ∀ k, k < 16 → (vget 0 s.host.poolrng k).getLsbD 63 = true →
        rangePort (vget 0 s.host.poolrng k) = port.toNat → (vget 0 t.host.poolrng k).extractLsb' 56 7 = 0x43) ∧
    ∀ core, corePresent s core = true → (s.coreRegs core).failed = false → ∃ t, exec (.coreFailure core) s = .next t ∧
      (t.coreRegs core).failed = true ∧ t.host.event.getLsbD 2 = true ∧ core ∉ dieCores t (core / 80) ∧
      let col := 4 * (core / 80) + core % 80 / 20
      (vget 0 t.fw.repair col).getLsbD (failBit (vget 0 s.fw.applied col) (core % 20)) = true

/-! ## Boot and power -/

/-- R435, R437 to R441: reset boots a verified image, or stands in recovery; an update from a staged image in device HBM that verifies
is written to flash and changes nothing else; in recovery the first image within the staging window that verifies is booted and
written to flash; attestation signs the nonce of 32 bytes; D3hot keeps the contents of HBM and the management registers, and back;
the clock throttled in steps of 50 MHz; with power gone only flash and fuses stay, and the cause is recorded but for a loss of main
power. Whether an image verifies rests on the hash and the signature, which the model leaves open (R437). The model's choices: the
order of the parts that attestation signs (log 43), that the flash holds no image that verifies while it is rewritten and what D3hot
does with launches (log 44), and that memory outside the device keeps its bytes (log 48). -/
def Obligations.PowerEvents : Prop :=
  ∀ s : State,
    (imageOk s.fw s.fw.image = true → ∃ t, exec .reset s = .next t ∧ t = bootWith s s.fw.image ∧ t.clock = 0 ∧ t.groups = [] ∧
      t.launches = [] ∧ (∀ a, inHbm a = true → cellGet t.mem a = 0) ∧ t.fw.image = s.fw.image ∧ t.fw.repair = s.fw.repair ∧ t.fw.power = .d0 ∧
      (t.fw.boot = .running → t.fw.applied = s.fw.repair ∧ t.fw.bootCause = s.fw.cause)) ∧
    (imageOk s.fw s.fw.image = false → ∃ t, exec .reset s = .next t ∧ t.fw.boot = .recovery ∧ t.groups = [] ∧
      (∀ a, inHbm a = true → cellGet t.mem a = 0) ∧ t.fw.image = s.fw.image) ∧
    (∀ pa len, deviceRuns s = true → s.fw.rewrite = none → 0 < len → inHbm (pa + len - 1) = true →
      waitsHome s (.mem pa) len false = false →
      let u := performWhere s fun e => (List.range len).any fun o => e.covers (.mem (pa + o))
      let img := stagedBytes u pa len
      let good := poisonedAt u (.mem pa) len = false ∧ imageOk u.fw img = true
      (good → exec (.firmwareUpdate { pa := pa, len := len }) s = .next { u with fw := { u.fw with image := [], rewrite := some img } }) ∧
      (¬ good → exec (.firmwareUpdate { pa := pa, len := len }) s = .next u)) ∧
    (∀ img, s.fw.rewrite = some img → flashDone s = { s with fw := { s.fw with image := img, rewrite := none } }) ∧
    (∀ img, s.fw.boot = .recovery → s.fw.power ≠ .off →
      (2 ^ 24 < img.length → exec (.recoveryImageStaged img) s = .refused (.notEnabled "RECOVERY_IMAGE_STAGED")) ∧
      (img.length ≤ 2 ^ 24 → imageOk s.fw img = true → ∃ u : State, u = bootWith s img ∧ exec (.recoveryImageStaged img) s =
        .next { u with fw := { u.fw with image := [], rewrite := some img } }) ∧
      (img.length ≤ 2 ^ 24 → imageOk s.fw img = false → exec (.recoveryImageStaged img) s = .next s)) ∧
    (∀ nonce : List Byte, s.fw.boot = .running → s.fw.power ≠ .off →
      (nonce.length = 32 → ∃ sig, exec (.attestationRequest nonce) s = .next (s.updHost fun h => { h with
        outbox := h.outbox ++ [.attestation (attestBody s nonce ++ sig)] }) ∧ (attestBody s nonce).take 32 = nonce) ∧
      (nonce.length ≠ 32 → exec (.attestationRequest nonce) s = .refused (.notEnabled "ATTESTATION_REQUEST"))) ∧
    (deviceRuns s = true → ∃ t, exec .d3hotEntry s = .next t ∧ t.fw = { s.fw with power := .d3hot } ∧ t.groups = [] ∧
      t.blocks = [] ∧ t.caseMem = [] ∧ t.engines = [] ∧ t.sq = [] ∧ t.wp = [] ∧ t.mem = homesMem s ∧ t.queues = s.queues ∧
      t.host = { s.host with resync := false, l3 := [], hostHeld := [], snoops := [] } ∧ t.clock = s.clock ∧
      t.launches.map Launch.lid = s.launches.map Launch.lid ∧ ∀ l ∈ t.launches, settled s l = true ∨ (l.next = 0 ∧ l.done = 0)) ∧
    (s.fw.power = .d3hot → exec .returnToD0 s = .next { s with fw := { s.fw with power := .d0 } }) ∧
    (∀ mhz, deviceRuns s = true →
      (450 ≤ mhz → mhz ≤ 900 → mhz % 50 = 0 → exec (.throttle mhz) s = .next { s with fw := { s.fw with mhz := mhz } }) ∧
      ((mhz < 450 ∨ 900 < mhz ∨ mhz % 50 ≠ 0) → exec (.throttle mhz) s = .refused (.notEnabled "THROTTLE"))) ∧
    (s.fw.power ≠ .off → ∀ e ∈ ([(.orderlyPowerOff, 0), (.dieOverTemperature, 1), (.coolantFlowLost, 2), (.mainPowerLoss, s.fw.cause)] :
        List (Instr × BitVec 8)), ∃ t, exec e.1 s = .next t ∧ t.fw.power = .off ∧ t.fw.cause = e.2 ∧ t.fw.image = s.fw.image ∧
      t.fw.repair = s.fw.repair ∧ t.fw.keyDigest = s.fw.keyDigest ∧ t.fw.minSvn = s.fw.minSvn ∧ t.fw.secret = s.fw.secret ∧
      t.groups = [] ∧ t.blocks = [] ∧ t.launches = [] ∧ t.caseMem = [] ∧ t.host = HostSide.reset ∧
      (∀ a, inHbm a = true → cellGet t.mem a = 0) ∧ (s.host.l3 = [] → ∀ a, inHbm a = false → cellGet t.mem a = cellGet s.mem a))

/-! ## The statements made of several parts -/

/-- What decodes is well formed and has a length of R25; a guard value that is no guard is refused. -/
def Obligations.DecodingChecked : Prop :=
  Clauses.DecodedIsWellFormed ∧ Clauses.GuardFieldRefused ∧ Clauses.IllegalEncodingRaises

/-- R82, R83, R84, R87, R88: integer arithmetic, logic and shifts on 32 and 64 bits, and the encodings of logic and shifts. -/
def Obligations.IntegerArithmetic : Prop :=
  Clauses.IntegerResults ∧ Clauses.WideResults ∧ Clauses.BitwiseEncodings

/-- Bit fields, the short forms, and moves. -/
def Obligations.BitsAndMoves : Prop :=
  Clauses.BitFieldResults ∧ Clauses.ShortResults ∧ Clauses.MoveResults

/-- Comparison, selection and predicate logic. -/
def Obligations.ComparisonsAndPredicates : Prop :=
  Clauses.CompareAndSelect ∧ Clauses.PredicateResults ∧ Clauses.CompareEncodings

/-- Binary32 and packed binary16 arithmetic, the short forms, the functions of one operand, and comparison. -/
def Obligations.FloatingPoint : Prop :=
  Clauses.FloatResults ∧ Clauses.ShortFloatResults ∧ Clauses.UnaryFloatResults ∧ Clauses.PackedAndCompareResults

/-- The uniform instructions, and the transfers between lanes and uniform registers. -/
def Obligations.UniformAndTransfer : Prop :=
  Clauses.UniformResults ∧ Clauses.TransferResults

/-- Exchanges between lanes, votes and ballots. -/
def Obligations.ShufflesAndVotes : Prop :=
  Clauses.ShuffleResults ∧ Clauses.VoteResults

/-- Reductions and prefixes across lanes. -/
def Obligations.ReductionsAndPrefixes : Prop :=
  Clauses.ReduceResults ∧ Clauses.PrefixResults

/-- Branches, calls and returns, by lane and for the group. -/
def Obligations.Branches : Prop :=
  Clauses.BranchResults ∧ Clauses.UniformBranchResults

/-- SPLIT, WAIT, JOIN and the settling of the stack. -/
def Obligations.DivergenceStack : Prop :=
  Clauses.StackResults ∧ Clauses.StackReleases

/-- EXIT, and the instructions without an effect on registers. -/
def Obligations.ExitAndIdle : Prop :=
  Clauses.ExitResults ∧ Clauses.NopYieldRegion

/-- What comes before an instruction's own effect: a group guard, register fields, helper code, the scoreboard, the operand log. -/
def Obligations.IssueChecks : Prop :=
  Clauses.GroupGuard ∧ Clauses.IllegalRegisters ∧ Clauses.HelperFault ∧ Clauses.ScoreboardWaits ∧ Clauses.OperandLogStops

/-- Breakpoints and traps, the entry of a handler, and the return from it. -/
def Obligations.TrapsAndReturn : Prop :=
  Clauses.TrapsRaise ∧ Clauses.HandlerEntry ∧ Clauses.EretResults

/-- Special and system registers, read and written. -/
def Obligations.SpecialRegisterAccess : Prop :=
  Clauses.SpecialRegisters ∧ Clauses.SysReads ∧ Clauses.SysWrites ∧ Clauses.SysWriteThenRead

/-- The registers that save and load images, the group image, and migration release. -/
def Obligations.SavedImages : Prop :=
  Clauses.ImageRegisters ∧ Clauses.GroupImageLayout ∧ Clauses.MigrelResults

/-- The checks of the barrier instructions, arrival, the end of a phase, and the byte counter. -/
def Obligations.BarrierArrivals : Prop :=
  Clauses.BarrierChecks ∧ Clauses.ArrivalResults ∧ Clauses.BarrierPhase ∧ Clauses.ByteCountResults

/-- Atomics, their operations, and reductions. -/
def Obligations.Atomics : Prop :=
  Clauses.AtomicResults ∧ Clauses.AtomicOperations ∧ Clauses.ReductionResults

/-- Misaligned accesses, and translations that fail. -/
def Obligations.AccessFaults : Prop :=
  Clauses.AlignmentFaults ∧ Clauses.TranslationFaults

/-- Address classes and the page walk. -/
def Obligations.AddressTranslation : Prop :=
  Clauses.AddressClasses ∧ Clauses.PageWalk

/-- Writes at home, flushes, fences and cache control. -/
def Obligations.HomesAndFences : Prop :=
  Clauses.HomeWrites ∧ Clauses.FlushPerforms ∧ Clauses.FenceResults ∧ Clauses.CacheControl

/-- TBEGIN, TEND, TABORT, TSTAT, and which lanes of a commit survive. -/
def Obligations.TransactionBounds : Prop :=
  Clauses.BeginResults ∧ Clauses.EndAbortStatus ∧ Clauses.SurvivorsConflictFree

/-- SPBEGIN and SPEND, and what a commit does. -/
def Obligations.SpeculationAndCommit : Prop :=
  Clauses.SpeculationResults ∧ Clauses.CommitResults

/-- LDV, VPROBE, STV, SEALV, FLOORV and the impressions of a sector. -/
def Obligations.Impressions : Prop :=
  Clauses.ImpressionLoads ∧ Clauses.ImpressionProbes ∧ Clauses.ImpressionWrites ∧ Clauses.SectorContents

/-- LIGA, LIGNXT and LIGX. -/
def Obligations.Ligatures : Prop :=
  Clauses.LigatureGrant ∧ Clauses.LigatureWork

/-- The checks of the engine instructions, and the matrix commands. -/
def Obligations.MatrixIssue : Prop :=
  Clauses.EngineChecks ∧ Clauses.MatrixCommands

/-- The words an engine is read by. -/
def Obligations.EngineWords : Prop :=
  Clauses.EngineReads ∧ Clauses.StatusWord

/-- HBIND, IMPOSE and IMPSTAT. -/
def Obligations.BindAndImpose : Prop :=
  Clauses.BindResults ∧ Clauses.ImposeResults
end

