-- ==== Sys2Proof/Laws/Cells.lean ====
section
/-!
SUPPORT. Laws of sparse storage: every operation keeps the canonical form, a read after a write to the same key gives the
value written, a write leaves every other key alone, and two canonical storages that read alike are equal.
-/

namespace Sys2Proof.Machine

/-! ## The canonical form -/

theorem cellsAbove_mono {n : Nat} {lo lo' : Nat} (h : lo' ≤ lo) :
    ∀ {m : List (Nat × BitVec n)}, cellsAbove lo m = true → cellsAbove lo' m = true
  | [], _ => rfl
  | (k, b) :: r, w => by
    simp only [cellsAbove, Bool.and_eq_true, decide_eq_true_eq] at w ⊢
    exact ⟨⟨by omega, w.1.2⟩, w.2⟩

theorem cellsWf_of_above {n : Nat} {lo : Nat} :
    ∀ {m : List (Nat × BitVec n)}, cellsAbove lo m = true → cellsWf m = true
  | [], _ => rfl
  | (k, b) :: r, w => by
    simp only [cellsAbove, cellsWf, Bool.and_eq_true] at w ⊢
    exact ⟨w.1.2, w.2⟩

theorem cellPut_above {n : Nat} {lo a : Nat} {b : BitVec n} (ha : lo < a) :
    ∀ {m : List (Nat × BitVec n)}, cellsAbove lo m = true → cellsAbove lo (cellPut m a b) = true
  | [], _ => by
    unfold cellPut
    split
    · rfl
    · simp_all [cellsAbove]
  | (k, c) :: r, w => by
    simp only [cellsAbove, Bool.and_eq_true, decide_eq_true_eq, bne_iff_ne, ne_eq] at w
    unfold cellPut
    split
    · split
      · simp_all [cellsAbove]
      · simp_all [cellsAbove]
    · split
      · subst_vars
        split
        · exact cellsAbove_mono (by omega) w.2
        · simp_all [cellsAbove]
      · simp only [cellsAbove, Bool.and_eq_true, decide_eq_true_eq, bne_iff_ne, ne_eq]
        exact ⟨w.1, cellPut_above (by omega) w.2⟩

@[simp] theorem cellPut_wf {n : Nat} {m : List (Nat × BitVec n)} (a : Nat) (b : BitVec n) (w : cellsWf m = true) :
    cellsWf (cellPut m a b) = true := by
  cases m with
  | nil =>
    unfold cellPut
    split
    · rfl
    · simp_all [cellsWf, cellsAbove]
  | cons h r =>
    obtain ⟨k, c⟩ := h
    simp only [cellsWf, Bool.and_eq_true, bne_iff_ne, ne_eq] at w
    unfold cellPut
    split
    · split
      · simp_all [cellsWf]
      · simp_all [cellsWf, cellsAbove]
    · split
      · subst_vars
        split
        · exact cellsWf_of_above w.2
        · simp_all [cellsWf]
      · simp only [cellsWf, Bool.and_eq_true, bne_iff_ne, ne_eq]
        exact ⟨w.1, cellPut_above (by omega) w.2⟩

@[simp] theorem bytesPut_wf {m : List Host.Cell} (a : Nat) (bs : List Byte) (w : cellsWf m = true) :
    cellsWf (bytesPut m a bs) = true := by
  induction bs generalizing m a with
  | nil => exact w
  | cons b bs ih => exact ih (a + 1) (cellPut_wf a b w)

@[simp] theorem offsetsPut_wf {m : List Host.Cell} (a : Nat) (bs : List (Nat × Byte)) (w : cellsWf m = true) :
    cellsWf (offsetsPut m a bs) = true := by
  induction bs generalizing m with
  | nil => exact w
  | cons b bs ih => exact ih (cellPut_wf _ _ w)

theorem filter_above {n : Nat} (c : Nat × BitVec n → Bool) {lo : Nat} :
    ∀ {m : List (Nat × BitVec n)}, cellsAbove lo m = true → cellsAbove lo (m.filter c) = true
  | [], _ => rfl
  | (k, b) :: r, w => by
    simp only [cellsAbove, Bool.and_eq_true, decide_eq_true_eq] at w
    by_cases h : c (k, b) = true
    · simp only [List.filter_cons_of_pos h, cellsAbove, Bool.and_eq_true, decide_eq_true_eq]
      exact ⟨w.1, filter_above c w.2⟩
    · rw [List.filter_cons_of_neg (by simpa using h)]
      exact cellsAbove_mono (by omega) (filter_above c w.2)

@[simp] theorem filter_wf {n : Nat} {m : List (Nat × BitVec n)} (c : Nat × BitVec n → Bool) (w : cellsWf m = true) :
    cellsWf (m.filter c) = true := by
  cases m with
  | nil => rfl
  | cons h r =>
    obtain ⟨k, b⟩ := h
    simp only [cellsWf, Bool.and_eq_true] at w
    by_cases h : c (k, b) = true
    · simp only [List.filter_cons_of_pos h, cellsWf, Bool.and_eq_true]
      exact ⟨w.1, filter_above c w.2⟩
    · rw [List.filter_cons_of_neg (by simpa using h)]
      exact cellsWf_of_above (filter_above c w.2)

/-! ## Reads after writes -/

theorem cellGet_above {n : Nat} {lo a : Nat} (h : a ≤ lo) :
    ∀ {m : List (Nat × BitVec n)}, cellsAbove lo m = true → cellGet m a = 0
  | [], _ => rfl
  | (k, b) :: r, w => by
    simp only [cellsAbove, Bool.and_eq_true, decide_eq_true_eq] at w
    rw [cellGet, if_neg (by omega)]
    exact cellGet_above (by omega) w.2

/-- A read of the key written. -/
theorem cellGet_put_same {n : Nat} {m : List (Nat × BitVec n)} (a : Nat) (b : BitVec n) (w : cellsWf m = true) :
    cellGet (cellPut m a b) a = b := by
  induction m with
  | nil =>
    unfold cellPut
    split
    · simp_all [cellGet]
    · simp [cellGet]
  | cons h r ih =>
    obtain ⟨k, c⟩ := h
    simp only [cellsWf, Bool.and_eq_true] at w
    unfold cellPut
    split
    · split
      · rw [cellGet, if_neg (by omega), cellGet_above (by omega) w.2]
        simp_all
      · simp [cellGet]
    · split
      · subst_vars
        split
        · rw [cellGet_above (Nat.le_refl _) w.2]
          simp_all
        · simp [cellGet]
      · rw [cellGet, if_neg (by omega)]
        exact ih (cellsWf_of_above w.2)

/-- A read of another key. -/
theorem cellGet_put_other {n : Nat} {m : List (Nat × BitVec n)} {a c : Nat} (b : BitVec n) (h : c ≠ a) :
    cellGet (cellPut m a b) c = cellGet m c := by
  induction m with
  | nil =>
    unfold cellPut
    split
    · rfl
    · simp [cellGet, Ne.symm h]
  | cons p r ih =>
    obtain ⟨k, d⟩ := p
    unfold cellPut
    split
    · split
      · rfl
      · rw [cellGet, if_neg (Ne.symm h)]
    · split
      · subst_vars
        split
        · simp only [cellGet, if_neg (Ne.symm h)]
        · simp only [cellGet, if_neg (Ne.symm h)]
      · simp only [cellGet, ih]

/-- Bytes written at offsets leave every address that is none of theirs. -/
theorem cellGet_offsetsPut_other {m : List Host.Cell} {a c : Nat} (bs : List (Nat × Byte)) (h : ∀ p ∈ bs, c ≠ a + p.1) :
    cellGet (offsetsPut m a bs) c = cellGet m c := by
  induction bs generalizing m with
  | nil => rfl
  | cons p r ih =>
    rw [offsetsPut, ih fun q hq => h q (List.mem_cons_of_mem _ hq), cellGet_put_other _ (h p List.mem_cons_self)]

/-- A run of bytes leaves every address outside it. -/
theorem cellGet_bytesPut_other {m : List Host.Cell} {a c : Nat} (bs : List Byte) (h : c < a ∨ a + bs.length ≤ c) :
    cellGet (bytesPut m a bs) c = cellGet m c := by
  induction bs generalizing m a with
  | nil => rfl
  | cons b r ih =>
    simp only [List.length_cons] at h
    rw [bytesPut, ih (by omega), cellGet_put_other _ (by omega)]

/-- Every address of a run reads the byte written there. -/
theorem cellGet_bytesPut_same {m : List Host.Cell} {a : Nat} (bs : List Byte) (w : cellsWf m = true) {i : Nat}
    (h : i < bs.length) : cellGet (bytesPut m a bs) (a + i) = bs[i] := by
  induction bs generalizing m a i with
  | nil => simp at h
  | cons b r ih =>
    rw [bytesPut]
    cases i with
    | zero => rw [cellGet_bytesPut_other _ (by omega), Nat.add_zero, cellGet_put_same a b w]; rfl
    | succ j =>
      have := ih (m := cellPut m a b) (a := a + 1) (i := j) (cellPut_wf a b w) (by simpa using h)
      rw [show a + (j + 1) = a + 1 + j by omega, this]; rfl

/-- Two canonical storages that read alike are equal. -/
theorem cells_ext {n : Nat} : ∀ {m k : List (Nat × BitVec n)}, cellsWf m = true → cellsWf k = true →
    (∀ a, cellGet m a = cellGet k a) → m = k
  | [], [], _, _, _ => rfl
  | [], (a, b) :: r, _, wk, h => by
    simp only [cellsWf, Bool.and_eq_true, bne_iff_ne, ne_eq] at wk
    exact absurd (by simpa [cellGet] using (h a).symm) wk.1
  | (a, b) :: r, [], wm, _, h => by
    simp only [cellsWf, Bool.and_eq_true, bne_iff_ne, ne_eq] at wm
    exact absurd (by simpa [cellGet] using h a) wm.1
  | (a, b) :: r, (c, d) :: q, wm, wk, h => by
    simp only [cellsWf, Bool.and_eq_true, bne_iff_ne, ne_eq] at wm wk
    have hac : a = c := by
      rcases Nat.lt_trichotomy a c with l | l | l
      · have := h a
        rw [cellGet, if_pos rfl, cellGet, if_neg (by omega), cellGet_above (by omega) wk.2] at this
        exact absurd this wm.1
      · exact l
      · have := h c
        rw [cellGet, if_neg (by omega), cellGet, if_pos rfl, cellGet_above (by omega) wm.2] at this
        exact absurd this.symm wk.1
    subst hac
    have hbd : b = d := by simpa [cellGet] using h a
    subst hbd
    have : r = q := cells_ext (cellsWf_of_above wm.2) (cellsWf_of_above wk.2) fun e => by
      by_cases he : a = e
      · subst he
        rw [cellGet_above (Nat.le_refl _) wm.2, cellGet_above (Nat.le_refl _) wk.2]
      · simpa [cellGet, he] using h e
    rw [this]

/-! ## Numbered lists and vectors -/

theorem listGet_put_same {α : Type} (d : α) (l : List (Nat × α)) (a : Nat) (x : α) : listGet d (listPut l a x) a = x := by
  induction l with
  | nil => simp [listPut, listGet]
  | cons p r ih =>
    obtain ⟨k, y⟩ := p
    unfold listPut
    split
    · simp [listGet]
    · split
      · simp [listGet]
      · rw [listGet, if_neg (by omega)]
        exact ih

theorem listGet_put_other {α : Type} (d : α) (l : List (Nat × α)) {a c : Nat} (x : α) (h : c ≠ a) :
    listGet d (listPut l a x) c = listGet d l c := by
  induction l with
  | nil => simp [listPut, listGet, Ne.symm h]
  | cons p r ih =>
    obtain ⟨k, y⟩ := p
    unfold listPut
    split
    · rw [listGet, if_neg (Ne.symm h)]
    · split
      · subst_vars
        simp only [listGet, if_neg (Ne.symm h)]
      · simp only [listGet, ih]

theorem vget_vset_same {α : Type} {n : Nat} (d : α) (v : Vector α n) {i : Nat} (x : α) (h : i < n) :
    vget d (vset v i x) i = x := by
  simp [vget, vset, h]

theorem vget_vset_other {α : Type} {n : Nat} (d : α) (v : Vector α n) {i j : Nat} (x : α) (h : j ≠ i) :
    vget d (vset v i x) j = vget d v j := by
  simp only [vget, vset, Vector.getElem?_setIfInBounds, if_neg (Ne.symm h)]

end Sys2Proof.Machine
end

