-- ==== Sys2Proof/Laws/Dispatch.lean ====
section
/-!
SUPPORT. The meaning the dispatcher gives each instruction and event, one equation for each.
-/

namespace Sys2Proof.Machine

@[simp] theorem exec_movShort (f : ShortF) (s : State) : exec (.movShort f) s = execMovShort f s := rfl
@[simp] theorem exec_iaddShort (f : ShortF) (s : State) : exec (.iaddShort f) s = execIaddShort f s := rfl
@[simp] theorem exec_isubShort (f : ShortF) (s : State) : exec (.isubShort f) s = execIsubShort f s := rfl
@[simp] theorem exec_imulShort (f : ShortF) (s : State) : exec (.imulShort f) s = execImulShort f s := rfl
@[simp] theorem exec_andShort (f : ShortF) (s : State) : exec (.andShort f) s = execAndShort f s := rfl
@[simp] theorem exec_orShort (f : ShortF) (s : State) : exec (.orShort f) s = execOrShort f s := rfl
@[simp] theorem exec_xorShort (f : ShortF) (s : State) : exec (.xorShort f) s = execXorShort f s := rfl
@[simp] theorem exec_shlShort (f : ShortF) (s : State) : exec (.shlShort f) s = execShlShort f s := rfl
@[simp] theorem exec_shrShort (f : ShortF) (s : State) : exec (.shrShort f) s = execShrShort f s := rfl
@[simp] theorem exec_sarShort (f : ShortF) (s : State) : exec (.sarShort f) s = execSarShort f s := rfl
@[simp] theorem exec_iminShort (f : ShortF) (s : State) : exec (.iminShort f) s = execIminShort f s := rfl
@[simp] theorem exec_imaxShort (f : ShortF) (s : State) : exec (.imaxShort f) s = execImaxShort f s := rfl
@[simp] theorem exec_faddShort (f : ShortF) (s : State) : exec (.faddShort f) s = execFaddShort f s := rfl
@[simp] theorem exec_fsubShort (f : ShortF) (s : State) : exec (.fsubShort f) s = execFsubShort f s := rfl
@[simp] theorem exec_fmulShort (f : ShortF) (s : State) : exec (.fmulShort f) s = execFmulShort f s := rfl
@[simp] theorem exec_fmaxShort (f : ShortF) (s : State) : exec (.fmaxShort f) s = execFmaxShort f s := rfl
@[simp] theorem exec_iadd (f : AForm) (s : State) : exec (.iadd f) s = execIadd f s := rfl
@[simp] theorem exec_iaddI64 (f : AForm) (s : State) : exec (.iaddI64 f) s = execIaddI64 f s := rfl
@[simp] theorem exec_isub (f : AForm) (s : State) : exec (.isub f) s = execIsub f s := rfl
@[simp] theorem exec_isubI64 (f : AForm) (s : State) : exec (.isubI64 f) s = execIsubI64 f s := rfl
@[simp] theorem exec_imul (f : AForm) (s : State) : exec (.imul f) s = execImul f s := rfl
@[simp] theorem exec_imulI64 (f : AForm) (s : State) : exec (.imulI64 f) s = execImulI64 f s := rfl
@[simp] theorem exec_imulh (f : AForm) (s : State) : exec (.imulh f) s = execImulh f s := rfl
@[simp] theorem exec_imulhZ32 (f : AForm) (s : State) : exec (.imulhZ32 f) s = execImulhZ32 f s := rfl
@[simp] theorem exec_imad (f : AForm) (s : State) : exec (.imad f) s = execImad f s := rfl
@[simp] theorem exec_imadZ64 (f : AForm) (s : State) : exec (.imadZ64 f) s = execImadZ64 f s := rfl
@[simp] theorem exec_imin (f : AForm) (s : State) : exec (.imin f) s = execImin f s := rfl
@[simp] theorem exec_iminZ32 (f : AForm) (s : State) : exec (.iminZ32 f) s = execIminZ32 f s := rfl
@[simp] theorem exec_imax (f : AForm) (s : State) : exec (.imax f) s = execImax f s := rfl
@[simp] theorem exec_imaxZ32 (f : AForm) (s : State) : exec (.imaxZ32 f) s = execImaxZ32 f s := rfl
@[simp] theorem exec_icmp (f : CmpForm) (s : State) : exec (.icmp f) s = execIcmp f s := rfl
@[simp] theorem exec_icmpZ32 (f : CmpForm) (s : State) : exec (.icmpZ32 f) s = execIcmpZ32 f s := rfl
@[simp] theorem exec_sel (f : AForm) (s : State) : exec (.sel f) s = execSel f s := rfl
@[simp] theorem exec_selB64 (f : AForm) (s : State) : exec (.selB64 f) s = execSelB64 f s := rfl
@[simp] theorem exec_lea (f : AForm) (s : State) : exec (.lea f) s = execLea f s := rfl
@[simp] theorem exec_leaZ32 (f : AForm) (s : State) : exec (.leaZ32 f) s = execLeaZ32 f s := rfl
@[simp] theorem exec_and (f : AForm) (s : State) : exec (.and f) s = execAnd f s := rfl
@[simp] theorem exec_andn (f : AForm) (s : State) : exec (.andn f) s = execAndn f s := rfl
@[simp] theorem exec_or (f : AForm) (s : State) : exec (.or f) s = execOr f s := rfl
@[simp] theorem exec_xor (f : AForm) (s : State) : exec (.xor f) s = execXor f s := rfl
@[simp] theorem exec_shl (f : AForm) (s : State) : exec (.shl f) s = execShl f s := rfl
@[simp] theorem exec_shr (f : AForm) (s : State) : exec (.shr f) s = execShr f s := rfl
@[simp] theorem exec_sar (f : AForm) (s : State) : exec (.sar f) s = execSar f s := rfl
@[simp] theorem exec_rot (f : AForm) (s : State) : exec (.rot f) s = execRot f s := rfl
@[simp] theorem exec_bfx (f : AForm) (s : State) : exec (.bfx f) s = execBfx f s := rfl
@[simp] theorem exec_bfxI32 (f : AForm) (s : State) : exec (.bfxI32 f) s = execBfxI32 f s := rfl
@[simp] theorem exec_bfi (f : AForm) (s : State) : exec (.bfi f) s = execBfi f s := rfl
@[simp] theorem exec_fadd (f : AForm) (s : State) : exec (.fadd f) s = execFadd f s := rfl
@[simp] theorem exec_fsub (f : AForm) (s : State) : exec (.fsub f) s = execFsub f s := rfl
@[simp] theorem exec_fmul (f : AForm) (s : State) : exec (.fmul f) s = execFmul f s := rfl
@[simp] theorem exec_ffma (f : AForm) (s : State) : exec (.ffma f) s = execFfma f s := rfl
@[simp] theorem exec_fmin (f : AForm) (s : State) : exec (.fmin f) s = execFmin f s := rfl
@[simp] theorem exec_fmax (f : AForm) (s : State) : exec (.fmax f) s = execFmax f s := rfl
@[simp] theorem exec_fcmp (f : CmpForm) (s : State) : exec (.fcmp f) s = execFcmp f s := rfl
@[simp] theorem exec_hadd2 (f : AForm) (s : State) : exec (.hadd2 f) s = execHadd2 f s := rfl
@[simp] theorem exec_hmul2 (f : AForm) (s : State) : exec (.hmul2 f) s = execHmul2 f s := rfl
@[simp] theorem exec_hfma2 (f : AForm) (s : State) : exec (.hfma2 f) s = execHfma2 f s := rfl
@[simp] theorem exec_movi (f : MoviForm) (s : State) : exec (.movi f) s = execMovi f s := rfl
@[simp] theorem exec_iaddImm (f : ImmForm) (s : State) : exec (.iaddImm f) s = execIaddImm f s := rfl
@[simp] theorem exec_uadd (f : UForm) (s : State) : exec (.uadd f) s = execUadd f s := rfl
@[simp] theorem exec_usub (f : UForm) (s : State) : exec (.usub f) s = execUsub f s := rfl
@[simp] theorem exec_umul (f : UForm) (s : State) : exec (.umul f) s = execUmul f s := rfl
@[simp] theorem exec_uand (f : UForm) (s : State) : exec (.uand f) s = execUand f s := rfl
@[simp] theorem exec_uor (f : UForm) (s : State) : exec (.uor f) s = execUor f s := rfl
@[simp] theorem exec_ushl (f : UForm) (s : State) : exec (.ushl f) s = execUshl f s := rfl
@[simp] theorem exec_umov (f : DAForm) (s : State) : exec (.umov f) s = execUmov f s := rfl
@[simp] theorem exec_ucmp (f : UCmpForm) (s : State) : exec (.ucmp f) s = execUcmp f s := rfl
@[simp] theorem exec_cvt (f : CvtForm) (s : State) : exec (.cvt f) s = execCvt f s := rfl
@[simp] theorem exec_cvtpk (f : CvtForm) (s : State) : exec (.cvtpk f) s = execCvtpk f s := rfl
@[simp] theorem exec_cvtunpk (f : CvtForm) (s : State) : exec (.cvtunpk f) s = execCvtunpk f s := rfl
@[simp] theorem exec_mov (f : DAForm) (s : State) : exec (.mov f) s = execMov f s := rfl
@[simp] theorem exec_movB64 (f : DAForm) (s : State) : exec (.movB64 f) s = execMovB64 f s := rfl
@[simp] theorem exec_not (f : DAForm) (s : State) : exec (.not f) s = execNot f s := rfl
@[simp] theorem exec_ineg (f : DAForm) (s : State) : exec (.ineg f) s = execIneg f s := rfl
@[simp] theorem exec_iabs (f : DAForm) (s : State) : exec (.iabs f) s = execIabs f s := rfl
@[simp] theorem exec_popc (f : DAForm) (s : State) : exec (.popc f) s = execPopc f s := rfl
@[simp] theorem exec_clz (f : DAForm) (s : State) : exec (.clz f) s = execClz f s := rfl
@[simp] theorem exec_ctz (f : DAForm) (s : State) : exec (.ctz f) s = execCtz f s := rfl
@[simp] theorem exec_brev (f : DAForm) (s : State) : exec (.brev f) s = execBrev f s := rfl
@[simp] theorem exec_frcp (f : DAForm) (s : State) : exec (.frcp f) s = execFrcp f s := rfl
@[simp] theorem exec_frsq (f : DAForm) (s : State) : exec (.frsq f) s = execFrsq f s := rfl
@[simp] theorem exec_fsqrt (f : DAForm) (s : State) : exec (.fsqrt f) s = execFsqrt f s := rfl
@[simp] theorem exec_fexp2 (f : DAForm) (s : State) : exec (.fexp2 f) s = execFexp2 f s := rfl
@[simp] theorem exec_flog2 (f : DAForm) (s : State) : exec (.flog2 f) s = execFlog2 f s := rfl
@[simp] theorem exec_shflXor (f : ShflForm) (s : State) : exec (.shflXor f) s = execShflXor f s := rfl
@[simp] theorem exec_shfl (f : ShflForm) (s : State) : exec (.shfl f) s = execShfl f s := rfl
@[simp] theorem exec_shflIdx (f : DAForm) (s : State) : exec (.shflIdx f) s = execShflIdx f s := rfl
@[simp] theorem exec_qswz (f : QuadForm) (s : State) : exec (.qswz f) s = execQswz f s := rfl
@[simp] theorem exec_qbcst (f : QuadForm) (s : State) : exec (.qbcst f) s = execQbcst f s := rfl
@[simp] theorem exec_voteAll (f : VoteForm) (s : State) : exec (.voteAll f) s = execVoteAll f s := rfl
@[simp] theorem exec_voteAny (f : VoteForm) (s : State) : exec (.voteAny f) s = execVoteAny f s := rfl
@[simp] theorem exec_voteUni (f : VoteForm) (s : State) : exec (.voteUni f) s = execVoteUni f s := rfl
@[simp] theorem exec_ballot (f : BallotForm) (s : State) : exec (.ballot f) s = execBallot f s := rfl
@[simp] theorem exec_lreduceAddI32 (f : DAForm) (s : State) : exec (.lreduceAddI32 f) s = execLreduceAddI32 f s := rfl
@[simp] theorem exec_lreduceAddF32 (f : DAForm) (s : State) : exec (.lreduceAddF32 f) s = execLreduceAddF32 f s := rfl
@[simp] theorem exec_lreduceMinI32 (f : DAForm) (s : State) : exec (.lreduceMinI32 f) s = execLreduceMinI32 f s := rfl
@[simp] theorem exec_lreduceMaxI32 (f : DAForm) (s : State) : exec (.lreduceMaxI32 f) s = execLreduceMaxI32 f s := rfl
@[simp] theorem exec_lreduceMinF32 (f : DAForm) (s : State) : exec (.lreduceMinF32 f) s = execLreduceMinF32 f s := rfl
@[simp] theorem exec_lreduceMaxF32 (f : DAForm) (s : State) : exec (.lreduceMaxF32 f) s = execLreduceMaxF32 f s := rfl
@[simp] theorem exec_lreduceOrB32 (f : DAForm) (s : State) : exec (.lreduceOrB32 f) s = execLreduceOrB32 f s := rfl
@[simp] theorem exec_lreduceAndB32 (f : DAForm) (s : State) : exec (.lreduceAndB32 f) s = execLreduceAndB32 f s := rfl
@[simp] theorem exec_prefixAddI32 (f : DAForm) (s : State) : exec (.prefixAddI32 f) s = execPrefixAddI32 f s := rfl
@[simp] theorem exec_prefixAddI32Ex (f : DAForm) (s : State) : exec (.prefixAddI32Ex f) s = execPrefixAddI32Ex f s := rfl
@[simp] theorem exec_prefixAddF32 (f : DAForm) (s : State) : exec (.prefixAddF32 f) s = execPrefixAddF32 f s := rfl
@[simp] theorem exec_prefixAddF32Ex (f : DAForm) (s : State) : exec (.prefixAddF32Ex f) s = execPrefixAddF32Ex f s := rfl
@[simp] theorem exec_umovv (f : DAForm) (s : State) : exec (.umovv f) s = execUmovv f s := rfl
@[simp] theorem exec_ubcst (f : DAForm) (s : State) : exec (.ubcst f) s = execUbcst f s := rfl
@[simp] theorem exec_bmand (f : DAForm) (s : State) : exec (.bmand f) s = execBmand f s := rfl
@[simp] theorem exec_popcp (f : DAForm) (s : State) : exec (.popcp f) s = execPopcp f s := rfl
@[simp] theorem exec_isect (f : IsectForm) (s : State) : exec (.isect f) s = execIsect f s := rfl
@[simp] theorem exec_pand (f : PForm) (s : State) : exec (.pand f) s = execPand f s := rfl
@[simp] theorem exec_por (f : PForm) (s : State) : exec (.por f) s = execPor f s := rfl
@[simp] theorem exec_pxor (f : PForm) (s : State) : exec (.pxor f) s = execPxor f s := rfl
@[simp] theorem exec_ld (f : MemForm) (s : State) : exec (.ld f) s = execLd f s := rfl
@[simp] theorem exec_ldDisp (f : MemDForm) (s : State) : exec (.ldDisp f) s = execLdDisp f s := rfl
@[simp] theorem exec_ldSext (f : MemDForm) (s : State) : exec (.ldSext f) s = execLdSext f s := rfl
@[simp] theorem exec_st (f : MemForm) (s : State) : exec (.st f) s = execSt f s := rfl
@[simp] theorem exec_stDisp (f : MemDForm) (s : State) : exec (.stDisp f) s = execStDisp f s := rfl
@[simp] theorem exec_atom (f : AtomForm) (s : State) : exec (.atom f) s = execAtom f s := rfl
@[simp] theorem exec_atomCas (f : CasForm) (s : State) : exec (.atomCas f) s = execAtomCas f s := rfl
@[simp] theorem exec_red (f : RedForm) (s : State) : exec (.red f) s = execRed f s := rfl
@[simp] theorem exec_fence (f : FenceForm) (s : State) : exec (.fence f) s = execFence f s := rfl
@[simp] theorem exec_fenceSc (f : FenceForm) (s : State) : exec (.fenceSc f) s = execFenceSc f s := rfl
@[simp] theorem exec_fencex (f : FencexForm) (s : State) : exec (.fencex f) s = execFencex f s := rfl
@[simp] theorem exec_pref (f : PrefForm) (s : State) : exec (.pref f) s = execPref f s := rfl
@[simp] theorem exec_cwb (f : CwbForm) (s : State) : exec (.cwb f) s = execCwb f s := rfl
@[simp] theorem exec_cinv (f : CinvForm) (s : State) : exec (.cinv f) s = execCinv f s := rfl
@[simp] theorem exec_casemode (f : CaseForm) (s : State) : exec (.casemode f) s = execCasemode f s := rfl
@[simp] theorem exec_fpush (f : CaseForm) (s : State) : exec (.fpush f) s = execFpush f s := rfl
@[simp] theorem exec_fpop (f : CaseForm) (s : State) : exec (.fpop f) s = execFpop f s := rfl
@[simp] theorem exec_bra (f : BForm) (s : State) : exec (.bra f) s = execBra f s := rfl
@[simp] theorem exec_bru (f : BForm) (s : State) : exec (.bru f) s = execBru f s := rfl
@[simp] theorem exec_brd (f : BrForm) (s : State) : exec (.brd f) s = execBrd f s := rfl
@[simp] theorem exec_brx (f : GAForm) (s : State) : exec (.brx f) s = execBrx f s := rfl
@[simp] theorem exec_callx (f : GDAForm) (s : State) : exec (.callx f) s = execCallx f s := rfl
@[simp] theorem exec_ret (f : GAForm) (s : State) : exec (.ret f) s = execRet f s := rfl
@[simp] theorem exec_call (f : BrForm) (s : State) : exec (.call f) s = execCall f s := rfl
@[simp] theorem exec_split (f : BForm) (s : State) : exec (.split f) s = execSplit f s := rfl
@[simp] theorem exec_nop (f : GForm) (s : State) : exec (.nop f) s = execNop f s := rfl
@[simp] theorem exec_join (f : GForm) (s : State) : exec (.join f) s = execJoin f s := rfl
@[simp] theorem exec_wait (f : GForm) (s : State) : exec (.wait f) s = execWait f s := rfl
@[simp] theorem exec_exit (f : GForm) (s : State) : exec (.exit f) s = execExit f s := rfl
@[simp] theorem exec_yield (f : GForm) (s : State) : exec (.yield f) s = execYield f s := rfl
@[simp] theorem exec_region (f : GForm) (s : State) : exec (.region f) s = execRegion f s := rfl
@[simp] theorem exec_bkpt (f : CodeForm) (s : State) : exec (.bkpt f) s = execBkpt f s := rfl
@[simp] theorem exec_trap (f : CodeForm) (s : State) : exec (.trap f) s = execTrap f s := rfl
@[simp] theorem exec_eret (f : GForm) (s : State) : exec (.eret f) s = execEret f s := rfl
@[simp] theorem exec_mload (f : MloadForm) (s : State) : exec (.mload f) s = execMload f s := rfl
@[simp] theorem exec_mloads (f : MloadsForm) (s : State) : exec (.mloads f) s = execMloads f s := rfl
@[simp] theorem exec_mstream (f : MstreamForm) (s : State) : exec (.mstream f) s = execMstream f s := rfl
@[simp] theorem exec_mstreams (f : MstreamsForm) (s : State) : exec (.mstreams f) s = execMstreams f s := rfl
@[simp] theorem exec_mdrain (f : MdrainForm) (s : State) : exec (.mdrain f) s = execMdrain f s := rfl
@[simp] theorem exec_mctxAcq (f : GForm) (s : State) : exec (.mctxAcq f) s = execMctxAcq f s := rfl
@[simp] theorem exec_mctxRel (f : GForm) (s : State) : exec (.mctxRel f) s = execMctxRel f s := rfl
@[simp] theorem exec_mswap (f : GForm) (s : State) : exec (.mswap f) s = execMswap f s := rfl
@[simp] theorem exec_mzero (f : TileForm) (s : State) : exec (.mzero f) s = execMzero f s := rfl
@[simp] theorem exec_mmova (f : GDAForm) (s : State) : exec (.mmova f) s = execMmova f s := rfl
@[simp] theorem exec_mmovv (f : GDAForm) (s : State) : exec (.mmovv f) s = execMmovv f s := rfl
@[simp] theorem exec_mwait (f : GForm) (s : State) : exec (.mwait f) s = execMwait f s := rfl
@[simp] theorem exec_mstat (f : GDForm) (s : State) : exec (.mstat f) s = execMstat f s := rfl
@[simp] theorem exec_mstepGet (f : GDForm) (s : State) : exec (.mstepGet f) s = execMstepGet f s := rfl
@[simp] theorem exec_mstepSet (f : GAForm) (s : State) : exec (.mstepSet f) s = execMstepSet f s := rfl
@[simp] theorem exec_impstat (f : GDForm) (s : State) : exec (.impstat f) s = execImpstat f s := rfl
@[simp] theorem exec_fetch (f : FetchForm) (s : State) : exec (.fetch f) s = execFetch f s := rfl
@[simp] theorem exec_fetchc (f : FetchForm) (s : State) : exec (.fetchc f) s = execFetchc f s := rfl
@[simp] theorem exec_hbind (f : HbindForm) (s : State) : exec (.hbind f) s = execHbind f s := rfl
@[simp] theorem exec_impose (f : GAForm) (s : State) : exec (.impose f) s = execImpose f s := rfl
@[simp] theorem exec_bara (f : BarForm) (s : State) : exec (.bara f) s = execBara f s := rfl
@[simp] theorem exec_barw (f : BarwForm) (s : State) : exec (.barw f) s = execBarw f s := rfl
@[simp] theorem exec_bars (f : BarsForm) (s : State) : exec (.bars f) s = execBars f s := rfl
@[simp] theorem exec_barc (f : BarcForm) (s : State) : exec (.barc f) s = execBarc f s := rfl
@[simp] theorem exec_tbeginVal (f : TbeginForm) (s : State) : exec (.tbeginVal f) s = execTbeginVal f s := rfl
@[simp] theorem exec_tbeginTs (f : TbeginForm) (s : State) : exec (.tbeginTs f) s = execTbeginTs f s := rfl
@[simp] theorem exec_tend (f : GForm) (s : State) : exec (.tend f) s = execTend f s := rfl
@[simp] theorem exec_tabort (f : GAForm) (s : State) : exec (.tabort f) s = execTabort f s := rfl
@[simp] theorem exec_tstat (f : GDForm) (s : State) : exec (.tstat f) s = execTstat f s := rfl
@[simp] theorem exec_spbegin (f : SpbeginForm) (s : State) : exec (.spbegin f) s = execSpbegin f s := rfl
@[simp] theorem exec_spend (f : GForm) (s : State) : exec (.spend f) s = execSpend f s := rfl
@[simp] theorem exec_ldv (f : ImpForm) (s : State) : exec (.ldv f) s = execLdv f s := rfl
@[simp] theorem exec_stv (f : ImpForm) (s : State) : exec (.stv f) s = execStv f s := rfl
@[simp] theorem exec_sealv (f : SealForm) (s : State) : exec (.sealv f) s = execSealv f s := rfl
@[simp] theorem exec_floorv (f : SealForm) (s : State) : exec (.floorv f) s = execFloorv f s := rfl
@[simp] theorem exec_vprobe (f : SealForm) (s : State) : exec (.vprobe f) s = execVprobe f s := rfl
@[simp] theorem exec_liga (f : LigaForm) (s : State) : exec (.liga f) s = execLiga f s := rfl
@[simp] theorem exec_lignxt (f : LignxtForm) (s : State) : exec (.lignxt f) s = execLignxt f s := rfl
@[simp] theorem exec_ligx (f : LigxForm) (s : State) : exec (.ligx f) s = execLigx f s := rfl
@[simp] theorem exec_sread (f : SreadForm) (s : State) : exec (.sread f) s = execSread f s := rfl
@[simp] theorem exec_sysr (f : SysrForm) (s : State) : exec (.sysr f) s = execSysr f s := rfl
@[simp] theorem exec_sysw (f : SyswForm) (s : State) : exec (.sysw f) s = execSysw f s := rfl
@[simp] theorem exec_syswCodebase (f : GAForm) (s : State) : exec (.syswCodebase f) s = execSyswCodebase f s := rfl
@[simp] theorem exec_syswHeapWindow (f : HeapForm) (s : State) : exec (.syswHeapWindow f) s = execSyswHeapWindow f s := rfl
@[simp] theorem exec_syswPred (f : GAForm) (s : State) : exec (.syswPred f) s = execSyswPred f s := rfl
@[simp] theorem exec_syswGsave (f : GAForm) (s : State) : exec (.syswGsave f) s = execSyswGsave f s := rfl
@[simp] theorem exec_syswGload (f : GAForm) (s : State) : exec (.syswGload f) s = execSyswGload f s := rfl
@[simp] theorem exec_syswBsave (f : GAForm) (s : State) : exec (.syswBsave f) s = execSyswBsave f s := rfl
@[simp] theorem exec_syswBload (f : GAForm) (s : State) : exec (.syswBload f) s = execSyswBload f s := rfl
@[simp] theorem exec_syswEsave (f : GAForm) (s : State) : exec (.syswEsave f) s = execSyswEsave f s := rfl
@[simp] theorem exec_syswEload (f : GAForm) (s : State) : exec (.syswEload f) s = execSyswEload f s := rfl
@[simp] theorem exec_syswMigrel (f : GAForm) (s : State) : exec (.syswMigrel f) s = execSyswMigrel f s := rfl
@[simp] theorem exec_likV (f : LikForm) (s : State) : exec (.likV f) s = execLikV f s := rfl
@[simp] theorem exec_likU (f : LikForm) (s : State) : exec (.likU f) s = execLikU f s := rfl
@[simp] theorem exec_yieldEnd (g : Nat) (s : State) : exec (.yieldEnd g) s = execYieldEnd g s := rfl
@[simp] theorem exec_loadComplete (g : Nat) (k : Nat) (s : State) : exec (.loadComplete g k) s = execLoadComplete g k s := rfl
@[simp] theorem exec_storeWritePoint (g : Nat) (s : State) : exec (.storeWritePoint g) s = execStoreWritePoint g s := rfl
@[simp] theorem exec_redPerform (g : Nat) (s : State) : exec (.redPerform g) s = execRedPerform g s := rfl
@[simp] theorem exec_pageWalk (g : Nat) (s : State) : exec (.pageWalk g) s = execPageWalk g s := rfl
@[simp] theorem exec_ldvWaitEnd (g : Nat) (k : Nat) (s : State) : exec (.ldvWaitEnd g k) s = execLdvWaitEnd g k s := rfl
@[simp] theorem exec_fetchComplete (g : Nat) (k : Nat) (s : State) : exec (.fetchComplete g k) s = execFetchComplete g k s := rfl
@[simp] theorem exec_fetchcBytesArrive (core : Nat) (k : Nat) (s : State) : exec (.fetchcBytesArrive core k) s = execFetchcBytesArrive core k s := rfl
@[simp] theorem exec_imposerBytesArrive (core : Nat) (k : Nat) (n : Nat) (s : State) : exec (.imposerBytesArrive core k n) s = execImposerBytesArrive core k n s := rfl
@[simp] theorem exec_casemodeComplete (clu : Nat) (bank : Nat) (s : State) : exec (.casemodeComplete clu bank) s = execCasemodeComplete clu bank s := rfl
@[simp] theorem exec_streamStart (core : Nat) (x : Nat) (s : State) : exec (.streamStart core x) s = execStreamStart core x s := rfl
@[simp] theorem exec_swapTakeEffect (core : Nat) (s : State) : exec (.swapTakeEffect core) s = execSwapTakeEffect core s := rfl
@[simp] theorem exec_matrixStep (core : Nat) (s : State) : exec (.matrixStep core) s = execMatrixStep core s := rfl
@[simp] theorem exec_mloadComplete (core : Nat) (s : State) : exec (.mloadComplete core) s = execMloadComplete core s := rfl
@[simp] theorem exec_mloadsCountPhase (core : Nat) (s : State) : exec (.mloadsCountPhase core) s = execMloadsCountPhase core s := rfl
@[simp] theorem exec_mloadsComplete (core : Nat) (s : State) : exec (.mloadsComplete core) s = execMloadsComplete core s := rfl
@[simp] theorem exec_drainRow (core : Nat) (x : Nat) (s : State) : exec (.drainRow core x) s = execDrainRow core x s := rfl
@[simp] theorem exec_commitTokenGrant (batch : Nat) (s : State) : exec (.commitTokenGrant batch) s = execCommitTokenGrant batch s := rfl
@[simp] theorem exec_quoinTake (batch : Nat) (s : State) : exec (.quoinTake batch) s = execQuoinTake batch s := rfl
@[simp] theorem exec_spendTokenReached (g : Nat) (l : Nat) (s : State) : exec (.spendTokenReached g l) s = execSpendTokenReached g l s := rfl
@[simp] theorem exec_backoffExpire (g : Nat) (l : Nat) (s : State) : exec (.backoffExpire g l) s = execBackoffExpire g l s := rfl
@[simp] theorem exec_ligaFramesAvailable (g : Nat) (s : State) : exec (.ligaFramesAvailable g) s = execLigaFramesAvailable g s := rfl
@[simp] theorem exec_ligatureLifetimeLimit (g : Nat) (s : State) : exec (.ligatureLifetimeLimit g) s = execLigatureLifetimeLimit g s := rfl
@[simp] theorem exec_stallTimeLimit (g : Nat) (s : State) : exec (.stallTimeLimit g) s = execStallTimeLimit g s := rfl
@[simp] theorem exec_handlerEntry (g : Nat) (s : State) : exec (.handlerEntry g) s = execHandlerEntry g s := rfl
@[simp] theorem exec_groupEnd (g : Nat) (s : State) : exec (.groupEnd g) s = execGroupEnd g s := rfl
@[simp] theorem exec_blockEnd (b : Nat) (s : State) : exec (.blockEnd b) s = execBlockEnd b s := rfl
@[simp] theorem exec_traceSample (core : Nat) (ctx : Nat) (s : State) : exec (.traceSample core ctx) s = execTraceSample core ctx s := rfl
@[simp] theorem exec_recordFetch (q : BitVec 6) (s : State) : exec (.recordFetch q) s = execRecordFetch q s := rfl
@[simp] theorem exec_batchReceive (die : BitVec 3) (s : State) : exec (.batchReceive die) s = execBatchReceive die s := rfl
@[simp] theorem exec_dieReport (die : BitVec 3) (s : State) : exec (.dieReport die) s = execDieReport die s := rfl
@[simp] theorem exec_gangDispatch (l : Nat) (s : State) : exec (.gangDispatch l) s = execGangDispatch l s := rfl
@[simp] theorem exec_preemptDecide (b : Nat) (s : State) : exec (.preemptDecide b) s = execPreemptDecide b s := rfl
@[simp] theorem exec_saveHandlerEntry (b : Nat) (s : State) : exec (.saveHandlerEntry b) s = execSaveHandlerEntry b s := rfl
@[simp] theorem exec_blockRestore (b : Nat) (s : State) : exec (.blockRestore b) s = execBlockRestore b s := rfl
@[simp] theorem exec_launchRetire (l : Nat) (s : State) : exec (.launchRetire l) s = execLaunchRetire l s := rfl
@[simp] theorem exec_gridEnd (l : Nat) (site : AsyncSite) (s : State) : exec (.gridEnd l site) s = execGridEnd l site s := rfl
@[simp] theorem exec_migrationLineCopy (k : Nat) (s : State) : exec (.migrationLineCopy k) s = execMigrationLineCopy k s := rfl
@[simp] theorem exec_illegalEncoding (s : State) : exec (.illegalEncoding) s = execIllegalEncoding s := rfl
@[simp] theorem exec_tileCommandComplete (core : Nat) (x : Nat) (s : State) : exec (.tileCommandComplete core x) s = execTileCommandComplete core x s := rfl
@[simp] theorem exec_storePerformedAtScope (k : Nat) (scope : BitVec 3) (s : State) : exec (.storePerformedAtScope k scope) s = execStorePerformedAtScope k scope s := rfl
@[simp] theorem exec_qdoor (q : BitVec 6) (w : BitVec 64) (s : State) : exec (.qdoor q w) s = execQdoor q w s := rfl
@[simp] theorem exec_qctlEn (q : BitVec 6) (v : BitVec 32) (s : State) : exec (.qctlEn q v) s = execQctlEn q v s := rfl
@[simp] theorem exec_qctlHold (q : BitVec 6) (on : Bool) (s : State) : exec (.qctlHold q on) s = execQctlHold q on s := rfl
@[simp] theorem exec_qctlEvict (q : BitVec 6) (s : State) : exec (.qctlEvict q) s = execQctlEvict q s := rfl
@[simp] theorem exec_qctlAbort (q : BitVec 6) (s : State) : exec (.qctlAbort q) s = execQctlAbort q s := rfl
@[simp] theorem exec_qctlClearOverrun (q : BitVec 6) (s : State) : exec (.qctlClearOverrun q) s = execQctlClearOverrun q s := rfl
@[simp] theorem exec_resync (addr : BitVec 64) (s : State) : exec (.resync addr) s = execResync addr s := rfl
@[simp] theorem exec_creplay (ctx : BitVec 6) (s : State) : exec (.creplay ctx) s = execCreplay ctx s := rfl
@[simp] theorem exec_poolrngFencedClear (k : BitVec 4) (s : State) : exec (.poolrngFencedClear k) s = execPoolrngFencedClear k s := rfl
@[simp] theorem exec_mgmtRegisterWrite (off : Nat) (v : BitVec 64) (s : State) : exec (.mgmtRegisterWrite off v) s = execMgmtRegisterWrite off v s := rfl
@[simp] theorem exec_dispatchBatch (s : State) : exec (.dispatchBatch) s = execDispatchBatch s := rfl
@[simp] theorem exec_hostRead (pa : Nat) (keep : HostKeep) (s : State) : exec (.hostRead pa keep) s = execHostRead pa keep s := rfl
@[simp] theorem exec_hostWrite (pa : Nat) (bytes : List Byte) (s : State) : exec (.hostWrite pa bytes) s = execHostWrite pa bytes s := rfl
@[simp] theorem exec_birsp (line : Nat) (data : Option (List Byte)) (s : State) : exec (.birsp line data) s = execBirsp line data s := rfl
@[simp] theorem exec_snpData (line : Nat) (s : State) : exec (.snpData line) s = execSnpData line s := rfl
@[simp] theorem exec_snpInv (line : Nat) (s : State) : exec (.snpInv line) s = execSnpInv line s := rfl
@[simp] theorem exec_snpCur (line : Nat) (s : State) : exec (.snpCur line) s = execSnpCur line s := rfl
@[simp] theorem exec_bisnpData (line : Nat) (s : State) : exec (.bisnpData line) s = execBisnpData line s := rfl
@[simp] theorem exec_bisnpInv (line : Nat) (s : State) : exec (.bisnpInv line) s = execBisnpInv line s := rfl
@[simp] theorem exec_bisnpCur (line : Nat) (s : State) : exec (.bisnpCur line) s = execBisnpCur line s := rfl
@[simp] theorem exec_peerRequest (dev : BitVec 8) (r : PeerReq) (s : State) : exec (.peerRequest dev r) s = execPeerRequest dev r s := rfl
@[simp] theorem exec_peerRequestTimeout (l : Nat) (site : AsyncSite) (s : State) : exec (.peerRequestTimeout l site) s = execPeerRequestTimeout l site s := rfl
@[simp] theorem exec_peerPortDown (port : BitVec 4) (hit : List Nat) (s : State) : exec (.peerPortDown port hit) s = execPeerPortDown port hit s := rfl
@[simp] theorem exec_poolRequestTimeout (k : BitVec 4) (l : Nat) (site : AsyncSite) (s : State) : exec (.poolRequestTimeout k l site) s = execPoolRequestTimeout k l site s := rfl
@[simp] theorem exec_poolPoison (k : BitVec 4) (s : State) : exec (.poolPoison k) s = execPoolPoison k s := rfl
@[simp] theorem exec_poolPortDown (port : BitVec 1) (s : State) : exec (.poolPortDown port) s = execPoolPortDown port s := rfl
@[simp] theorem exec_coreFailure (core : Nat) (s : State) : exec (.coreFailure core) s = execCoreFailure core s := rfl
@[simp] theorem exec_reset (s : State) : exec (.reset) s = execReset s := rfl
@[simp] theorem exec_firmwareUpdate (img : StagedImage) (s : State) : exec (.firmwareUpdate img) s = execFirmwareUpdate img s := rfl
@[simp] theorem exec_recoveryImageStaged (img : List Byte) (s : State) : exec (.recoveryImageStaged img) s = execRecoveryImageStaged img s := rfl
@[simp] theorem exec_attestationRequest (nonce : List Byte) (s : State) : exec (.attestationRequest nonce) s = execAttestationRequest nonce s := rfl
@[simp] theorem exec_d3hotEntry (s : State) : exec (.d3hotEntry) s = execD3hotEntry s := rfl
@[simp] theorem exec_returnToD0 (s : State) : exec (.returnToD0) s = execReturnToD0 s := rfl
@[simp] theorem exec_throttle (mhz : Nat) (s : State) : exec (.throttle mhz) s = execThrottle mhz s := rfl
@[simp] theorem exec_dieOverTemperature (s : State) : exec (.dieOverTemperature) s = execDieOverTemperature s := rfl
@[simp] theorem exec_coolantFlowLost (s : State) : exec (.coolantFlowLost) s = execCoolantFlowLost s := rfl
@[simp] theorem exec_orderlyPowerOff (s : State) : exec (.orderlyPowerOff) s = execOrderlyPowerOff s := rfl
@[simp] theorem exec_stampEviction (frame : Nat) (s : State) : exec (.stampEviction frame) s = execStampEviction frame s := rfl
@[simp] theorem exec_deviceCacheEviction (line : Nat) (s : State) : exec (.deviceCacheEviction line) s = execDeviceCacheEviction line s := rfl
@[simp] theorem exec_mainPowerLoss (s : State) : exec (.mainPowerLoss) s = execMainPowerLoss s := rfl
@[simp] theorem exec_sectorPoisoned (sector : Nat) (s : State) : exec (.sectorPoisoned sector) s = execSectorPoisoned sector s := rfl
@[simp] theorem exec_peerRefusalReceived (l : Nat) (site : AsyncSite) (s : State) : exec (.peerRefusalReceived l site) s = execPeerRefusalReceived l site s := rfl

end Sys2Proof.Machine
end

