-- ==== Sys2Proof/Laws/State.lean ====
section
/-!
SUPPORT. What each update of the state leaves alone: one lemma for each field and each update, and what the lookups read
after an update.
-/

namespace Sys2Proof.Machine

/-! ### updGroup -/

@[simp] theorem updGroup_clock (s : State) (g : Nat) (f : Group → Group) : (s.updGroup g f).clock = s.clock := rfl
@[simp] theorem updGroup_blocks (s : State) (g : Nat) (f : Group → Group) : (s.updGroup g f).blocks = s.blocks := rfl
@[simp] theorem updGroup_launches (s : State) (g : Nat) (f : Group → Group) : (s.updGroup g f).launches = s.launches := rfl
@[simp] theorem updGroup_queues (s : State) (g : Nat) (f : Group → Group) : (s.updGroup g f).queues = s.queues := rfl
@[simp] theorem updGroup_ctxs (s : State) (g : Nat) (f : Group → Group) : (s.updGroup g f).ctxs = s.ctxs := rfl
@[simp] theorem updGroup_cores (s : State) (g : Nat) (f : Group → Group) : (s.updGroup g f).cores = s.cores := rfl
@[simp] theorem updGroup_clusters (s : State) (g : Nat) (f : Group → Group) : (s.updGroup g f).clusters = s.clusters := rfl
@[simp] theorem updGroup_engines (s : State) (g : Nat) (f : Group → Group) : (s.updGroup g f).engines = s.engines := rfl
@[simp] theorem updGroup_mem (s : State) (g : Nat) (f : Group → Group) : (s.updGroup g f).mem = s.mem := rfl
@[simp] theorem updGroup_caseMem (s : State) (g : Nat) (f : Group → Group) : (s.updGroup g f).caseMem = s.caseMem := rfl
@[simp] theorem updGroup_poison (s : State) (g : Nat) (f : Group → Group) : (s.updGroup g f).poison = s.poison := rfl
@[simp] theorem updGroup_sq (s : State) (g : Nat) (f : Group → Group) : (s.updGroup g f).sq = s.sq := rfl
@[simp] theorem updGroup_wp (s : State) (g : Nat) (f : Group → Group) : (s.updGroup g f).wp = s.wp := rfl
@[simp] theorem updGroup_ver (s : State) (g : Nat) (f : Group → Group) : (s.updGroup g f).ver = s.ver := rfl
@[simp] theorem updGroup_stamps (s : State) (g : Nat) (f : Group → Group) : (s.updGroup g f).stamps = s.stamps := rfl
@[simp] theorem updGroup_evicted (s : State) (g : Nat) (f : Group → Group) : (s.updGroup g f).evicted = s.evicted := rfl
@[simp] theorem updGroup_imps (s : State) (g : Nat) (f : Group → Group) : (s.updGroup g f).imps = s.imps := rfl
@[simp] theorem updGroup_galUsed (s : State) (g : Nat) (f : Group → Group) : (s.updGroup g f).galUsed = s.galUsed := rfl
@[simp] theorem updGroup_galfloor (s : State) (g : Nat) (f : Group → Group) : (s.updGroup g f).galfloor = s.galfloor := rfl
@[simp] theorem updGroup_floors (s : State) (g : Nat) (f : Group → Group) : (s.updGroup g f).floors = s.floors := rfl
@[simp] theorem updGroup_marks (s : State) (g : Nat) (f : Group → Group) : (s.updGroup g f).marks = s.marks := rfl
@[simp] theorem updGroup_batches (s : State) (g : Nat) (f : Group → Group) : (s.updGroup g f).batches = s.batches := rfl
@[simp] theorem updGroup_migr (s : State) (g : Nat) (f : Group → Group) : (s.updGroup g f).migr = s.migr := rfl
@[simp] theorem updGroup_host (s : State) (g : Nat) (f : Group → Group) : (s.updGroup g f).host = s.host := rfl
@[simp] theorem updGroup_disp (s : State) (g : Nat) (f : Group → Group) : (s.updGroup g f).disp = s.disp := rfl
@[simp] theorem updGroup_fw (s : State) (g : Nat) (f : Group → Group) : (s.updGroup g f).fw = s.fw := rfl
@[simp] theorem updGroup_iss (s : State) (g : Nat) (f : Group → Group) : (s.updGroup g f).iss = s.iss := rfl
@[simp] theorem updGroup_async (s : State) (g : Nat) (f : Group → Group) : (s.updGroup g f).async = s.async := rfl
@[simp] theorem updGroup_late (s : State) (g : Nat) (f : Group → Group) : (s.updGroup g f).late = s.late := rfl
@[simp] theorem updGroup_agenda (s : State) (g : Nat) (f : Group → Group) : (s.updGroup g f).agenda = s.agenda := rfl
@[simp] theorem updGroup_defer (s : State) (g : Nat) (f : Group → Group) : (s.updGroup g f).defer = s.defer := rfl
@[simp] theorem updGroup_nextId (s : State) (g : Nat) (f : Group → Group) : (s.updGroup g f).nextId = s.nextId := rfl
@[simp] theorem updGroup_fresh (s : State) (g : Nat) (f : Group → Group) : (s.updGroup g f).fresh = s.fresh := rfl

/-! ### updLane -/

@[simp] theorem updLane_clock (s : State) (g l : Nat) (f : Lane → Lane) : (s.updLane g l f).clock = s.clock := rfl
@[simp] theorem updLane_blocks (s : State) (g l : Nat) (f : Lane → Lane) : (s.updLane g l f).blocks = s.blocks := rfl
@[simp] theorem updLane_launches (s : State) (g l : Nat) (f : Lane → Lane) : (s.updLane g l f).launches = s.launches := rfl
@[simp] theorem updLane_queues (s : State) (g l : Nat) (f : Lane → Lane) : (s.updLane g l f).queues = s.queues := rfl
@[simp] theorem updLane_ctxs (s : State) (g l : Nat) (f : Lane → Lane) : (s.updLane g l f).ctxs = s.ctxs := rfl
@[simp] theorem updLane_cores (s : State) (g l : Nat) (f : Lane → Lane) : (s.updLane g l f).cores = s.cores := rfl
@[simp] theorem updLane_clusters (s : State) (g l : Nat) (f : Lane → Lane) : (s.updLane g l f).clusters = s.clusters := rfl
@[simp] theorem updLane_engines (s : State) (g l : Nat) (f : Lane → Lane) : (s.updLane g l f).engines = s.engines := rfl
@[simp] theorem updLane_mem (s : State) (g l : Nat) (f : Lane → Lane) : (s.updLane g l f).mem = s.mem := rfl
@[simp] theorem updLane_caseMem (s : State) (g l : Nat) (f : Lane → Lane) : (s.updLane g l f).caseMem = s.caseMem := rfl
@[simp] theorem updLane_poison (s : State) (g l : Nat) (f : Lane → Lane) : (s.updLane g l f).poison = s.poison := rfl
@[simp] theorem updLane_sq (s : State) (g l : Nat) (f : Lane → Lane) : (s.updLane g l f).sq = s.sq := rfl
@[simp] theorem updLane_wp (s : State) (g l : Nat) (f : Lane → Lane) : (s.updLane g l f).wp = s.wp := rfl
@[simp] theorem updLane_ver (s : State) (g l : Nat) (f : Lane → Lane) : (s.updLane g l f).ver = s.ver := rfl
@[simp] theorem updLane_stamps (s : State) (g l : Nat) (f : Lane → Lane) : (s.updLane g l f).stamps = s.stamps := rfl
@[simp] theorem updLane_evicted (s : State) (g l : Nat) (f : Lane → Lane) : (s.updLane g l f).evicted = s.evicted := rfl
@[simp] theorem updLane_imps (s : State) (g l : Nat) (f : Lane → Lane) : (s.updLane g l f).imps = s.imps := rfl
@[simp] theorem updLane_galUsed (s : State) (g l : Nat) (f : Lane → Lane) : (s.updLane g l f).galUsed = s.galUsed := rfl
@[simp] theorem updLane_galfloor (s : State) (g l : Nat) (f : Lane → Lane) : (s.updLane g l f).galfloor = s.galfloor := rfl
@[simp] theorem updLane_floors (s : State) (g l : Nat) (f : Lane → Lane) : (s.updLane g l f).floors = s.floors := rfl
@[simp] theorem updLane_marks (s : State) (g l : Nat) (f : Lane → Lane) : (s.updLane g l f).marks = s.marks := rfl
@[simp] theorem updLane_batches (s : State) (g l : Nat) (f : Lane → Lane) : (s.updLane g l f).batches = s.batches := rfl
@[simp] theorem updLane_migr (s : State) (g l : Nat) (f : Lane → Lane) : (s.updLane g l f).migr = s.migr := rfl
@[simp] theorem updLane_host (s : State) (g l : Nat) (f : Lane → Lane) : (s.updLane g l f).host = s.host := rfl
@[simp] theorem updLane_disp (s : State) (g l : Nat) (f : Lane → Lane) : (s.updLane g l f).disp = s.disp := rfl
@[simp] theorem updLane_fw (s : State) (g l : Nat) (f : Lane → Lane) : (s.updLane g l f).fw = s.fw := rfl
@[simp] theorem updLane_iss (s : State) (g l : Nat) (f : Lane → Lane) : (s.updLane g l f).iss = s.iss := rfl
@[simp] theorem updLane_async (s : State) (g l : Nat) (f : Lane → Lane) : (s.updLane g l f).async = s.async := rfl
@[simp] theorem updLane_late (s : State) (g l : Nat) (f : Lane → Lane) : (s.updLane g l f).late = s.late := rfl
@[simp] theorem updLane_agenda (s : State) (g l : Nat) (f : Lane → Lane) : (s.updLane g l f).agenda = s.agenda := rfl
@[simp] theorem updLane_defer (s : State) (g l : Nat) (f : Lane → Lane) : (s.updLane g l f).defer = s.defer := rfl
@[simp] theorem updLane_nextId (s : State) (g l : Nat) (f : Lane → Lane) : (s.updLane g l f).nextId = s.nextId := rfl
@[simp] theorem updLane_fresh (s : State) (g l : Nat) (f : Lane → Lane) : (s.updLane g l f).fresh = s.fresh := rfl

/-! ### mapActive -/

@[simp] theorem mapActive_clock (s : State) (f : Nat → Lane → Lane) : (s.mapActive f).clock = s.clock := rfl
@[simp] theorem mapActive_blocks (s : State) (f : Nat → Lane → Lane) : (s.mapActive f).blocks = s.blocks := rfl
@[simp] theorem mapActive_launches (s : State) (f : Nat → Lane → Lane) : (s.mapActive f).launches = s.launches := rfl
@[simp] theorem mapActive_queues (s : State) (f : Nat → Lane → Lane) : (s.mapActive f).queues = s.queues := rfl
@[simp] theorem mapActive_ctxs (s : State) (f : Nat → Lane → Lane) : (s.mapActive f).ctxs = s.ctxs := rfl
@[simp] theorem mapActive_cores (s : State) (f : Nat → Lane → Lane) : (s.mapActive f).cores = s.cores := rfl
@[simp] theorem mapActive_clusters (s : State) (f : Nat → Lane → Lane) : (s.mapActive f).clusters = s.clusters := rfl
@[simp] theorem mapActive_engines (s : State) (f : Nat → Lane → Lane) : (s.mapActive f).engines = s.engines := rfl
@[simp] theorem mapActive_mem (s : State) (f : Nat → Lane → Lane) : (s.mapActive f).mem = s.mem := rfl
@[simp] theorem mapActive_caseMem (s : State) (f : Nat → Lane → Lane) : (s.mapActive f).caseMem = s.caseMem := rfl
@[simp] theorem mapActive_poison (s : State) (f : Nat → Lane → Lane) : (s.mapActive f).poison = s.poison := rfl
@[simp] theorem mapActive_sq (s : State) (f : Nat → Lane → Lane) : (s.mapActive f).sq = s.sq := rfl
@[simp] theorem mapActive_wp (s : State) (f : Nat → Lane → Lane) : (s.mapActive f).wp = s.wp := rfl
@[simp] theorem mapActive_ver (s : State) (f : Nat → Lane → Lane) : (s.mapActive f).ver = s.ver := rfl
@[simp] theorem mapActive_stamps (s : State) (f : Nat → Lane → Lane) : (s.mapActive f).stamps = s.stamps := rfl
@[simp] theorem mapActive_evicted (s : State) (f : Nat → Lane → Lane) : (s.mapActive f).evicted = s.evicted := rfl
@[simp] theorem mapActive_imps (s : State) (f : Nat → Lane → Lane) : (s.mapActive f).imps = s.imps := rfl
@[simp] theorem mapActive_galUsed (s : State) (f : Nat → Lane → Lane) : (s.mapActive f).galUsed = s.galUsed := rfl
@[simp] theorem mapActive_galfloor (s : State) (f : Nat → Lane → Lane) : (s.mapActive f).galfloor = s.galfloor := rfl
@[simp] theorem mapActive_floors (s : State) (f : Nat → Lane → Lane) : (s.mapActive f).floors = s.floors := rfl
@[simp] theorem mapActive_marks (s : State) (f : Nat → Lane → Lane) : (s.mapActive f).marks = s.marks := rfl
@[simp] theorem mapActive_batches (s : State) (f : Nat → Lane → Lane) : (s.mapActive f).batches = s.batches := rfl
@[simp] theorem mapActive_migr (s : State) (f : Nat → Lane → Lane) : (s.mapActive f).migr = s.migr := rfl
@[simp] theorem mapActive_host (s : State) (f : Nat → Lane → Lane) : (s.mapActive f).host = s.host := rfl
@[simp] theorem mapActive_disp (s : State) (f : Nat → Lane → Lane) : (s.mapActive f).disp = s.disp := rfl
@[simp] theorem mapActive_fw (s : State) (f : Nat → Lane → Lane) : (s.mapActive f).fw = s.fw := rfl
@[simp] theorem mapActive_iss (s : State) (f : Nat → Lane → Lane) : (s.mapActive f).iss = s.iss := rfl
@[simp] theorem mapActive_async (s : State) (f : Nat → Lane → Lane) : (s.mapActive f).async = s.async := rfl
@[simp] theorem mapActive_late (s : State) (f : Nat → Lane → Lane) : (s.mapActive f).late = s.late := rfl
@[simp] theorem mapActive_agenda (s : State) (f : Nat → Lane → Lane) : (s.mapActive f).agenda = s.agenda := rfl
@[simp] theorem mapActive_defer (s : State) (f : Nat → Lane → Lane) : (s.mapActive f).defer = s.defer := rfl
@[simp] theorem mapActive_nextId (s : State) (f : Nat → Lane → Lane) : (s.mapActive f).nextId = s.nextId := rfl
@[simp] theorem mapActive_fresh (s : State) (f : Nat → Lane → Lane) : (s.mapActive f).fresh = s.fresh := rfl

/-! ### advance -/

@[simp] theorem advance_clock (s : State) : (s.advance).clock = s.clock := rfl
@[simp] theorem advance_blocks (s : State) : (s.advance).blocks = s.blocks := rfl
@[simp] theorem advance_launches (s : State) : (s.advance).launches = s.launches := rfl
@[simp] theorem advance_queues (s : State) : (s.advance).queues = s.queues := rfl
@[simp] theorem advance_ctxs (s : State) : (s.advance).ctxs = s.ctxs := rfl
@[simp] theorem advance_cores (s : State) : (s.advance).cores = s.cores := rfl
@[simp] theorem advance_clusters (s : State) : (s.advance).clusters = s.clusters := rfl
@[simp] theorem advance_engines (s : State) : (s.advance).engines = s.engines := rfl
@[simp] theorem advance_mem (s : State) : (s.advance).mem = s.mem := rfl
@[simp] theorem advance_caseMem (s : State) : (s.advance).caseMem = s.caseMem := rfl
@[simp] theorem advance_poison (s : State) : (s.advance).poison = s.poison := rfl
@[simp] theorem advance_sq (s : State) : (s.advance).sq = s.sq := rfl
@[simp] theorem advance_wp (s : State) : (s.advance).wp = s.wp := rfl
@[simp] theorem advance_ver (s : State) : (s.advance).ver = s.ver := rfl
@[simp] theorem advance_stamps (s : State) : (s.advance).stamps = s.stamps := rfl
@[simp] theorem advance_evicted (s : State) : (s.advance).evicted = s.evicted := rfl
@[simp] theorem advance_imps (s : State) : (s.advance).imps = s.imps := rfl
@[simp] theorem advance_galUsed (s : State) : (s.advance).galUsed = s.galUsed := rfl
@[simp] theorem advance_galfloor (s : State) : (s.advance).galfloor = s.galfloor := rfl
@[simp] theorem advance_floors (s : State) : (s.advance).floors = s.floors := rfl
@[simp] theorem advance_marks (s : State) : (s.advance).marks = s.marks := rfl
@[simp] theorem advance_batches (s : State) : (s.advance).batches = s.batches := rfl
@[simp] theorem advance_migr (s : State) : (s.advance).migr = s.migr := rfl
@[simp] theorem advance_host (s : State) : (s.advance).host = s.host := rfl
@[simp] theorem advance_disp (s : State) : (s.advance).disp = s.disp := rfl
@[simp] theorem advance_fw (s : State) : (s.advance).fw = s.fw := rfl
@[simp] theorem advance_iss (s : State) : (s.advance).iss = s.iss := rfl
@[simp] theorem advance_async (s : State) : (s.advance).async = s.async := rfl
@[simp] theorem advance_late (s : State) : (s.advance).late = s.late := rfl
@[simp] theorem advance_agenda (s : State) : (s.advance).agenda = s.agenda := rfl
@[simp] theorem advance_defer (s : State) : (s.advance).defer = s.defer := rfl
@[simp] theorem advance_nextId (s : State) : (s.advance).nextId = s.nextId := rfl
@[simp] theorem advance_fresh (s : State) : (s.advance).fresh = s.fresh := rfl

/-! ### updBlock -/

@[simp] theorem updBlock_clock (s : State) (b : Nat) (f : Block → Block) : (s.updBlock b f).clock = s.clock := rfl
@[simp] theorem updBlock_groups (s : State) (b : Nat) (f : Block → Block) : (s.updBlock b f).groups = s.groups := rfl
@[simp] theorem updBlock_launches (s : State) (b : Nat) (f : Block → Block) : (s.updBlock b f).launches = s.launches := rfl
@[simp] theorem updBlock_queues (s : State) (b : Nat) (f : Block → Block) : (s.updBlock b f).queues = s.queues := rfl
@[simp] theorem updBlock_ctxs (s : State) (b : Nat) (f : Block → Block) : (s.updBlock b f).ctxs = s.ctxs := rfl
@[simp] theorem updBlock_cores (s : State) (b : Nat) (f : Block → Block) : (s.updBlock b f).cores = s.cores := rfl
@[simp] theorem updBlock_clusters (s : State) (b : Nat) (f : Block → Block) : (s.updBlock b f).clusters = s.clusters := rfl
@[simp] theorem updBlock_engines (s : State) (b : Nat) (f : Block → Block) : (s.updBlock b f).engines = s.engines := rfl
@[simp] theorem updBlock_mem (s : State) (b : Nat) (f : Block → Block) : (s.updBlock b f).mem = s.mem := rfl
@[simp] theorem updBlock_caseMem (s : State) (b : Nat) (f : Block → Block) : (s.updBlock b f).caseMem = s.caseMem := rfl
@[simp] theorem updBlock_poison (s : State) (b : Nat) (f : Block → Block) : (s.updBlock b f).poison = s.poison := rfl
@[simp] theorem updBlock_sq (s : State) (b : Nat) (f : Block → Block) : (s.updBlock b f).sq = s.sq := rfl
@[simp] theorem updBlock_wp (s : State) (b : Nat) (f : Block → Block) : (s.updBlock b f).wp = s.wp := rfl
@[simp] theorem updBlock_ver (s : State) (b : Nat) (f : Block → Block) : (s.updBlock b f).ver = s.ver := rfl
@[simp] theorem updBlock_stamps (s : State) (b : Nat) (f : Block → Block) : (s.updBlock b f).stamps = s.stamps := rfl
@[simp] theorem updBlock_evicted (s : State) (b : Nat) (f : Block → Block) : (s.updBlock b f).evicted = s.evicted := rfl
@[simp] theorem updBlock_imps (s : State) (b : Nat) (f : Block → Block) : (s.updBlock b f).imps = s.imps := rfl
@[simp] theorem updBlock_galUsed (s : State) (b : Nat) (f : Block → Block) : (s.updBlock b f).galUsed = s.galUsed := rfl
@[simp] theorem updBlock_galfloor (s : State) (b : Nat) (f : Block → Block) : (s.updBlock b f).galfloor = s.galfloor := rfl
@[simp] theorem updBlock_floors (s : State) (b : Nat) (f : Block → Block) : (s.updBlock b f).floors = s.floors := rfl
@[simp] theorem updBlock_marks (s : State) (b : Nat) (f : Block → Block) : (s.updBlock b f).marks = s.marks := rfl
@[simp] theorem updBlock_batches (s : State) (b : Nat) (f : Block → Block) : (s.updBlock b f).batches = s.batches := rfl
@[simp] theorem updBlock_migr (s : State) (b : Nat) (f : Block → Block) : (s.updBlock b f).migr = s.migr := rfl
@[simp] theorem updBlock_host (s : State) (b : Nat) (f : Block → Block) : (s.updBlock b f).host = s.host := rfl
@[simp] theorem updBlock_disp (s : State) (b : Nat) (f : Block → Block) : (s.updBlock b f).disp = s.disp := rfl
@[simp] theorem updBlock_fw (s : State) (b : Nat) (f : Block → Block) : (s.updBlock b f).fw = s.fw := rfl
@[simp] theorem updBlock_iss (s : State) (b : Nat) (f : Block → Block) : (s.updBlock b f).iss = s.iss := rfl
@[simp] theorem updBlock_async (s : State) (b : Nat) (f : Block → Block) : (s.updBlock b f).async = s.async := rfl
@[simp] theorem updBlock_late (s : State) (b : Nat) (f : Block → Block) : (s.updBlock b f).late = s.late := rfl
@[simp] theorem updBlock_agenda (s : State) (b : Nat) (f : Block → Block) : (s.updBlock b f).agenda = s.agenda := rfl
@[simp] theorem updBlock_defer (s : State) (b : Nat) (f : Block → Block) : (s.updBlock b f).defer = s.defer := rfl
@[simp] theorem updBlock_nextId (s : State) (b : Nat) (f : Block → Block) : (s.updBlock b f).nextId = s.nextId := rfl
@[simp] theorem updBlock_fresh (s : State) (b : Nat) (f : Block → Block) : (s.updBlock b f).fresh = s.fresh := rfl

/-! ### updLaunch -/

@[simp] theorem updLaunch_clock (s : State) (l : Nat) (f : Launch → Launch) : (s.updLaunch l f).clock = s.clock := rfl
@[simp] theorem updLaunch_groups (s : State) (l : Nat) (f : Launch → Launch) : (s.updLaunch l f).groups = s.groups := rfl
@[simp] theorem updLaunch_blocks (s : State) (l : Nat) (f : Launch → Launch) : (s.updLaunch l f).blocks = s.blocks := rfl
@[simp] theorem updLaunch_queues (s : State) (l : Nat) (f : Launch → Launch) : (s.updLaunch l f).queues = s.queues := rfl
@[simp] theorem updLaunch_ctxs (s : State) (l : Nat) (f : Launch → Launch) : (s.updLaunch l f).ctxs = s.ctxs := rfl
@[simp] theorem updLaunch_cores (s : State) (l : Nat) (f : Launch → Launch) : (s.updLaunch l f).cores = s.cores := rfl
@[simp] theorem updLaunch_clusters (s : State) (l : Nat) (f : Launch → Launch) : (s.updLaunch l f).clusters = s.clusters := rfl
@[simp] theorem updLaunch_engines (s : State) (l : Nat) (f : Launch → Launch) : (s.updLaunch l f).engines = s.engines := rfl
@[simp] theorem updLaunch_mem (s : State) (l : Nat) (f : Launch → Launch) : (s.updLaunch l f).mem = s.mem := rfl
@[simp] theorem updLaunch_caseMem (s : State) (l : Nat) (f : Launch → Launch) : (s.updLaunch l f).caseMem = s.caseMem := rfl
@[simp] theorem updLaunch_poison (s : State) (l : Nat) (f : Launch → Launch) : (s.updLaunch l f).poison = s.poison := rfl
@[simp] theorem updLaunch_sq (s : State) (l : Nat) (f : Launch → Launch) : (s.updLaunch l f).sq = s.sq := rfl
@[simp] theorem updLaunch_wp (s : State) (l : Nat) (f : Launch → Launch) : (s.updLaunch l f).wp = s.wp := rfl
@[simp] theorem updLaunch_ver (s : State) (l : Nat) (f : Launch → Launch) : (s.updLaunch l f).ver = s.ver := rfl
@[simp] theorem updLaunch_stamps (s : State) (l : Nat) (f : Launch → Launch) : (s.updLaunch l f).stamps = s.stamps := rfl
@[simp] theorem updLaunch_evicted (s : State) (l : Nat) (f : Launch → Launch) : (s.updLaunch l f).evicted = s.evicted := rfl
@[simp] theorem updLaunch_imps (s : State) (l : Nat) (f : Launch → Launch) : (s.updLaunch l f).imps = s.imps := rfl
@[simp] theorem updLaunch_galUsed (s : State) (l : Nat) (f : Launch → Launch) : (s.updLaunch l f).galUsed = s.galUsed := rfl
@[simp] theorem updLaunch_galfloor (s : State) (l : Nat) (f : Launch → Launch) : (s.updLaunch l f).galfloor = s.galfloor := rfl
@[simp] theorem updLaunch_floors (s : State) (l : Nat) (f : Launch → Launch) : (s.updLaunch l f).floors = s.floors := rfl
@[simp] theorem updLaunch_marks (s : State) (l : Nat) (f : Launch → Launch) : (s.updLaunch l f).marks = s.marks := rfl
@[simp] theorem updLaunch_batches (s : State) (l : Nat) (f : Launch → Launch) : (s.updLaunch l f).batches = s.batches := rfl
@[simp] theorem updLaunch_migr (s : State) (l : Nat) (f : Launch → Launch) : (s.updLaunch l f).migr = s.migr := rfl
@[simp] theorem updLaunch_host (s : State) (l : Nat) (f : Launch → Launch) : (s.updLaunch l f).host = s.host := rfl
@[simp] theorem updLaunch_disp (s : State) (l : Nat) (f : Launch → Launch) : (s.updLaunch l f).disp = s.disp := rfl
@[simp] theorem updLaunch_fw (s : State) (l : Nat) (f : Launch → Launch) : (s.updLaunch l f).fw = s.fw := rfl
@[simp] theorem updLaunch_iss (s : State) (l : Nat) (f : Launch → Launch) : (s.updLaunch l f).iss = s.iss := rfl
@[simp] theorem updLaunch_async (s : State) (l : Nat) (f : Launch → Launch) : (s.updLaunch l f).async = s.async := rfl
@[simp] theorem updLaunch_late (s : State) (l : Nat) (f : Launch → Launch) : (s.updLaunch l f).late = s.late := rfl
@[simp] theorem updLaunch_agenda (s : State) (l : Nat) (f : Launch → Launch) : (s.updLaunch l f).agenda = s.agenda := rfl
@[simp] theorem updLaunch_defer (s : State) (l : Nat) (f : Launch → Launch) : (s.updLaunch l f).defer = s.defer := rfl
@[simp] theorem updLaunch_nextId (s : State) (l : Nat) (f : Launch → Launch) : (s.updLaunch l f).nextId = s.nextId := rfl
@[simp] theorem updLaunch_fresh (s : State) (l : Nat) (f : Launch → Launch) : (s.updLaunch l f).fresh = s.fresh := rfl

/-! ### updCtx -/

@[simp] theorem updCtx_clock (s : State) (c : Nat) (f : Ctx → Ctx) : (s.updCtx c f).clock = s.clock := rfl
@[simp] theorem updCtx_groups (s : State) (c : Nat) (f : Ctx → Ctx) : (s.updCtx c f).groups = s.groups := rfl
@[simp] theorem updCtx_blocks (s : State) (c : Nat) (f : Ctx → Ctx) : (s.updCtx c f).blocks = s.blocks := rfl
@[simp] theorem updCtx_launches (s : State) (c : Nat) (f : Ctx → Ctx) : (s.updCtx c f).launches = s.launches := rfl
@[simp] theorem updCtx_queues (s : State) (c : Nat) (f : Ctx → Ctx) : (s.updCtx c f).queues = s.queues := rfl
@[simp] theorem updCtx_cores (s : State) (c : Nat) (f : Ctx → Ctx) : (s.updCtx c f).cores = s.cores := rfl
@[simp] theorem updCtx_clusters (s : State) (c : Nat) (f : Ctx → Ctx) : (s.updCtx c f).clusters = s.clusters := rfl
@[simp] theorem updCtx_engines (s : State) (c : Nat) (f : Ctx → Ctx) : (s.updCtx c f).engines = s.engines := rfl
@[simp] theorem updCtx_mem (s : State) (c : Nat) (f : Ctx → Ctx) : (s.updCtx c f).mem = s.mem := rfl
@[simp] theorem updCtx_caseMem (s : State) (c : Nat) (f : Ctx → Ctx) : (s.updCtx c f).caseMem = s.caseMem := rfl
@[simp] theorem updCtx_poison (s : State) (c : Nat) (f : Ctx → Ctx) : (s.updCtx c f).poison = s.poison := rfl
@[simp] theorem updCtx_sq (s : State) (c : Nat) (f : Ctx → Ctx) : (s.updCtx c f).sq = s.sq := rfl
@[simp] theorem updCtx_wp (s : State) (c : Nat) (f : Ctx → Ctx) : (s.updCtx c f).wp = s.wp := rfl
@[simp] theorem updCtx_ver (s : State) (c : Nat) (f : Ctx → Ctx) : (s.updCtx c f).ver = s.ver := rfl
@[simp] theorem updCtx_stamps (s : State) (c : Nat) (f : Ctx → Ctx) : (s.updCtx c f).stamps = s.stamps := rfl
@[simp] theorem updCtx_evicted (s : State) (c : Nat) (f : Ctx → Ctx) : (s.updCtx c f).evicted = s.evicted := rfl
@[simp] theorem updCtx_imps (s : State) (c : Nat) (f : Ctx → Ctx) : (s.updCtx c f).imps = s.imps := rfl
@[simp] theorem updCtx_galUsed (s : State) (c : Nat) (f : Ctx → Ctx) : (s.updCtx c f).galUsed = s.galUsed := rfl
@[simp] theorem updCtx_galfloor (s : State) (c : Nat) (f : Ctx → Ctx) : (s.updCtx c f).galfloor = s.galfloor := rfl
@[simp] theorem updCtx_floors (s : State) (c : Nat) (f : Ctx → Ctx) : (s.updCtx c f).floors = s.floors := rfl
@[simp] theorem updCtx_marks (s : State) (c : Nat) (f : Ctx → Ctx) : (s.updCtx c f).marks = s.marks := rfl
@[simp] theorem updCtx_batches (s : State) (c : Nat) (f : Ctx → Ctx) : (s.updCtx c f).batches = s.batches := rfl
@[simp] theorem updCtx_migr (s : State) (c : Nat) (f : Ctx → Ctx) : (s.updCtx c f).migr = s.migr := rfl
@[simp] theorem updCtx_host (s : State) (c : Nat) (f : Ctx → Ctx) : (s.updCtx c f).host = s.host := rfl
@[simp] theorem updCtx_disp (s : State) (c : Nat) (f : Ctx → Ctx) : (s.updCtx c f).disp = s.disp := rfl
@[simp] theorem updCtx_fw (s : State) (c : Nat) (f : Ctx → Ctx) : (s.updCtx c f).fw = s.fw := rfl
@[simp] theorem updCtx_iss (s : State) (c : Nat) (f : Ctx → Ctx) : (s.updCtx c f).iss = s.iss := rfl
@[simp] theorem updCtx_async (s : State) (c : Nat) (f : Ctx → Ctx) : (s.updCtx c f).async = s.async := rfl
@[simp] theorem updCtx_late (s : State) (c : Nat) (f : Ctx → Ctx) : (s.updCtx c f).late = s.late := rfl
@[simp] theorem updCtx_agenda (s : State) (c : Nat) (f : Ctx → Ctx) : (s.updCtx c f).agenda = s.agenda := rfl
@[simp] theorem updCtx_defer (s : State) (c : Nat) (f : Ctx → Ctx) : (s.updCtx c f).defer = s.defer := rfl
@[simp] theorem updCtx_nextId (s : State) (c : Nat) (f : Ctx → Ctx) : (s.updCtx c f).nextId = s.nextId := rfl
@[simp] theorem updCtx_fresh (s : State) (c : Nat) (f : Ctx → Ctx) : (s.updCtx c f).fresh = s.fresh := rfl

/-! ### updQueue -/

@[simp] theorem updQueue_clock (s : State) (q : Nat) (f : Queue → Queue) : (s.updQueue q f).clock = s.clock := rfl
@[simp] theorem updQueue_groups (s : State) (q : Nat) (f : Queue → Queue) : (s.updQueue q f).groups = s.groups := rfl
@[simp] theorem updQueue_blocks (s : State) (q : Nat) (f : Queue → Queue) : (s.updQueue q f).blocks = s.blocks := rfl
@[simp] theorem updQueue_launches (s : State) (q : Nat) (f : Queue → Queue) : (s.updQueue q f).launches = s.launches := rfl
@[simp] theorem updQueue_ctxs (s : State) (q : Nat) (f : Queue → Queue) : (s.updQueue q f).ctxs = s.ctxs := rfl
@[simp] theorem updQueue_cores (s : State) (q : Nat) (f : Queue → Queue) : (s.updQueue q f).cores = s.cores := rfl
@[simp] theorem updQueue_clusters (s : State) (q : Nat) (f : Queue → Queue) : (s.updQueue q f).clusters = s.clusters := rfl
@[simp] theorem updQueue_engines (s : State) (q : Nat) (f : Queue → Queue) : (s.updQueue q f).engines = s.engines := rfl
@[simp] theorem updQueue_mem (s : State) (q : Nat) (f : Queue → Queue) : (s.updQueue q f).mem = s.mem := rfl
@[simp] theorem updQueue_caseMem (s : State) (q : Nat) (f : Queue → Queue) : (s.updQueue q f).caseMem = s.caseMem := rfl
@[simp] theorem updQueue_poison (s : State) (q : Nat) (f : Queue → Queue) : (s.updQueue q f).poison = s.poison := rfl
@[simp] theorem updQueue_sq (s : State) (q : Nat) (f : Queue → Queue) : (s.updQueue q f).sq = s.sq := rfl
@[simp] theorem updQueue_wp (s : State) (q : Nat) (f : Queue → Queue) : (s.updQueue q f).wp = s.wp := rfl
@[simp] theorem updQueue_ver (s : State) (q : Nat) (f : Queue → Queue) : (s.updQueue q f).ver = s.ver := rfl
@[simp] theorem updQueue_stamps (s : State) (q : Nat) (f : Queue → Queue) : (s.updQueue q f).stamps = s.stamps := rfl
@[simp] theorem updQueue_evicted (s : State) (q : Nat) (f : Queue → Queue) : (s.updQueue q f).evicted = s.evicted := rfl
@[simp] theorem updQueue_imps (s : State) (q : Nat) (f : Queue → Queue) : (s.updQueue q f).imps = s.imps := rfl
@[simp] theorem updQueue_galUsed (s : State) (q : Nat) (f : Queue → Queue) : (s.updQueue q f).galUsed = s.galUsed := rfl
@[simp] theorem updQueue_galfloor (s : State) (q : Nat) (f : Queue → Queue) : (s.updQueue q f).galfloor = s.galfloor := rfl
@[simp] theorem updQueue_floors (s : State) (q : Nat) (f : Queue → Queue) : (s.updQueue q f).floors = s.floors := rfl
@[simp] theorem updQueue_marks (s : State) (q : Nat) (f : Queue → Queue) : (s.updQueue q f).marks = s.marks := rfl
@[simp] theorem updQueue_batches (s : State) (q : Nat) (f : Queue → Queue) : (s.updQueue q f).batches = s.batches := rfl
@[simp] theorem updQueue_migr (s : State) (q : Nat) (f : Queue → Queue) : (s.updQueue q f).migr = s.migr := rfl
@[simp] theorem updQueue_host (s : State) (q : Nat) (f : Queue → Queue) : (s.updQueue q f).host = s.host := rfl
@[simp] theorem updQueue_disp (s : State) (q : Nat) (f : Queue → Queue) : (s.updQueue q f).disp = s.disp := rfl
@[simp] theorem updQueue_fw (s : State) (q : Nat) (f : Queue → Queue) : (s.updQueue q f).fw = s.fw := rfl
@[simp] theorem updQueue_iss (s : State) (q : Nat) (f : Queue → Queue) : (s.updQueue q f).iss = s.iss := rfl
@[simp] theorem updQueue_async (s : State) (q : Nat) (f : Queue → Queue) : (s.updQueue q f).async = s.async := rfl
@[simp] theorem updQueue_late (s : State) (q : Nat) (f : Queue → Queue) : (s.updQueue q f).late = s.late := rfl
@[simp] theorem updQueue_agenda (s : State) (q : Nat) (f : Queue → Queue) : (s.updQueue q f).agenda = s.agenda := rfl
@[simp] theorem updQueue_defer (s : State) (q : Nat) (f : Queue → Queue) : (s.updQueue q f).defer = s.defer := rfl
@[simp] theorem updQueue_nextId (s : State) (q : Nat) (f : Queue → Queue) : (s.updQueue q f).nextId = s.nextId := rfl
@[simp] theorem updQueue_fresh (s : State) (q : Nat) (f : Queue → Queue) : (s.updQueue q f).fresh = s.fresh := rfl

/-! ### updCore -/

@[simp] theorem updCore_clock (s : State) (c : Nat) (f : CoreRegs → CoreRegs) : (s.updCore c f).clock = s.clock := rfl
@[simp] theorem updCore_groups (s : State) (c : Nat) (f : CoreRegs → CoreRegs) : (s.updCore c f).groups = s.groups := rfl
@[simp] theorem updCore_blocks (s : State) (c : Nat) (f : CoreRegs → CoreRegs) : (s.updCore c f).blocks = s.blocks := rfl
@[simp] theorem updCore_launches (s : State) (c : Nat) (f : CoreRegs → CoreRegs) : (s.updCore c f).launches = s.launches := rfl
@[simp] theorem updCore_queues (s : State) (c : Nat) (f : CoreRegs → CoreRegs) : (s.updCore c f).queues = s.queues := rfl
@[simp] theorem updCore_ctxs (s : State) (c : Nat) (f : CoreRegs → CoreRegs) : (s.updCore c f).ctxs = s.ctxs := rfl
@[simp] theorem updCore_clusters (s : State) (c : Nat) (f : CoreRegs → CoreRegs) : (s.updCore c f).clusters = s.clusters := rfl
@[simp] theorem updCore_engines (s : State) (c : Nat) (f : CoreRegs → CoreRegs) : (s.updCore c f).engines = s.engines := rfl
@[simp] theorem updCore_mem (s : State) (c : Nat) (f : CoreRegs → CoreRegs) : (s.updCore c f).mem = s.mem := rfl
@[simp] theorem updCore_caseMem (s : State) (c : Nat) (f : CoreRegs → CoreRegs) : (s.updCore c f).caseMem = s.caseMem := rfl
@[simp] theorem updCore_poison (s : State) (c : Nat) (f : CoreRegs → CoreRegs) : (s.updCore c f).poison = s.poison := rfl
@[simp] theorem updCore_sq (s : State) (c : Nat) (f : CoreRegs → CoreRegs) : (s.updCore c f).sq = s.sq := rfl
@[simp] theorem updCore_wp (s : State) (c : Nat) (f : CoreRegs → CoreRegs) : (s.updCore c f).wp = s.wp := rfl
@[simp] theorem updCore_ver (s : State) (c : Nat) (f : CoreRegs → CoreRegs) : (s.updCore c f).ver = s.ver := rfl
@[simp] theorem updCore_stamps (s : State) (c : Nat) (f : CoreRegs → CoreRegs) : (s.updCore c f).stamps = s.stamps := rfl
@[simp] theorem updCore_evicted (s : State) (c : Nat) (f : CoreRegs → CoreRegs) : (s.updCore c f).evicted = s.evicted := rfl
@[simp] theorem updCore_imps (s : State) (c : Nat) (f : CoreRegs → CoreRegs) : (s.updCore c f).imps = s.imps := rfl
@[simp] theorem updCore_galUsed (s : State) (c : Nat) (f : CoreRegs → CoreRegs) : (s.updCore c f).galUsed = s.galUsed := rfl
@[simp] theorem updCore_galfloor (s : State) (c : Nat) (f : CoreRegs → CoreRegs) : (s.updCore c f).galfloor = s.galfloor := rfl
@[simp] theorem updCore_floors (s : State) (c : Nat) (f : CoreRegs → CoreRegs) : (s.updCore c f).floors = s.floors := rfl
@[simp] theorem updCore_marks (s : State) (c : Nat) (f : CoreRegs → CoreRegs) : (s.updCore c f).marks = s.marks := rfl
@[simp] theorem updCore_batches (s : State) (c : Nat) (f : CoreRegs → CoreRegs) : (s.updCore c f).batches = s.batches := rfl
@[simp] theorem updCore_migr (s : State) (c : Nat) (f : CoreRegs → CoreRegs) : (s.updCore c f).migr = s.migr := rfl
@[simp] theorem updCore_host (s : State) (c : Nat) (f : CoreRegs → CoreRegs) : (s.updCore c f).host = s.host := rfl
@[simp] theorem updCore_disp (s : State) (c : Nat) (f : CoreRegs → CoreRegs) : (s.updCore c f).disp = s.disp := rfl
@[simp] theorem updCore_fw (s : State) (c : Nat) (f : CoreRegs → CoreRegs) : (s.updCore c f).fw = s.fw := rfl
@[simp] theorem updCore_iss (s : State) (c : Nat) (f : CoreRegs → CoreRegs) : (s.updCore c f).iss = s.iss := rfl
@[simp] theorem updCore_async (s : State) (c : Nat) (f : CoreRegs → CoreRegs) : (s.updCore c f).async = s.async := rfl
@[simp] theorem updCore_late (s : State) (c : Nat) (f : CoreRegs → CoreRegs) : (s.updCore c f).late = s.late := rfl
@[simp] theorem updCore_agenda (s : State) (c : Nat) (f : CoreRegs → CoreRegs) : (s.updCore c f).agenda = s.agenda := rfl
@[simp] theorem updCore_defer (s : State) (c : Nat) (f : CoreRegs → CoreRegs) : (s.updCore c f).defer = s.defer := rfl
@[simp] theorem updCore_nextId (s : State) (c : Nat) (f : CoreRegs → CoreRegs) : (s.updCore c f).nextId = s.nextId := rfl
@[simp] theorem updCore_fresh (s : State) (c : Nat) (f : CoreRegs → CoreRegs) : (s.updCore c f).fresh = s.fresh := rfl

/-! ### updCluster -/

@[simp] theorem updCluster_clock (s : State) (k : Nat) (f : Cluster → Cluster) : (s.updCluster k f).clock = s.clock := rfl
@[simp] theorem updCluster_groups (s : State) (k : Nat) (f : Cluster → Cluster) : (s.updCluster k f).groups = s.groups := rfl
@[simp] theorem updCluster_blocks (s : State) (k : Nat) (f : Cluster → Cluster) : (s.updCluster k f).blocks = s.blocks := rfl
@[simp] theorem updCluster_launches (s : State) (k : Nat) (f : Cluster → Cluster) : (s.updCluster k f).launches = s.launches := rfl
@[simp] theorem updCluster_queues (s : State) (k : Nat) (f : Cluster → Cluster) : (s.updCluster k f).queues = s.queues := rfl
@[simp] theorem updCluster_ctxs (s : State) (k : Nat) (f : Cluster → Cluster) : (s.updCluster k f).ctxs = s.ctxs := rfl
@[simp] theorem updCluster_cores (s : State) (k : Nat) (f : Cluster → Cluster) : (s.updCluster k f).cores = s.cores := rfl
@[simp] theorem updCluster_engines (s : State) (k : Nat) (f : Cluster → Cluster) : (s.updCluster k f).engines = s.engines := rfl
@[simp] theorem updCluster_mem (s : State) (k : Nat) (f : Cluster → Cluster) : (s.updCluster k f).mem = s.mem := rfl
@[simp] theorem updCluster_caseMem (s : State) (k : Nat) (f : Cluster → Cluster) : (s.updCluster k f).caseMem = s.caseMem := rfl
@[simp] theorem updCluster_poison (s : State) (k : Nat) (f : Cluster → Cluster) : (s.updCluster k f).poison = s.poison := rfl
@[simp] theorem updCluster_sq (s : State) (k : Nat) (f : Cluster → Cluster) : (s.updCluster k f).sq = s.sq := rfl
@[simp] theorem updCluster_wp (s : State) (k : Nat) (f : Cluster → Cluster) : (s.updCluster k f).wp = s.wp := rfl
@[simp] theorem updCluster_ver (s : State) (k : Nat) (f : Cluster → Cluster) : (s.updCluster k f).ver = s.ver := rfl
@[simp] theorem updCluster_stamps (s : State) (k : Nat) (f : Cluster → Cluster) : (s.updCluster k f).stamps = s.stamps := rfl
@[simp] theorem updCluster_evicted (s : State) (k : Nat) (f : Cluster → Cluster) : (s.updCluster k f).evicted = s.evicted := rfl
@[simp] theorem updCluster_imps (s : State) (k : Nat) (f : Cluster → Cluster) : (s.updCluster k f).imps = s.imps := rfl
@[simp] theorem updCluster_galUsed (s : State) (k : Nat) (f : Cluster → Cluster) : (s.updCluster k f).galUsed = s.galUsed := rfl
@[simp] theorem updCluster_galfloor (s : State) (k : Nat) (f : Cluster → Cluster) : (s.updCluster k f).galfloor = s.galfloor := rfl
@[simp] theorem updCluster_floors (s : State) (k : Nat) (f : Cluster → Cluster) : (s.updCluster k f).floors = s.floors := rfl
@[simp] theorem updCluster_marks (s : State) (k : Nat) (f : Cluster → Cluster) : (s.updCluster k f).marks = s.marks := rfl
@[simp] theorem updCluster_batches (s : State) (k : Nat) (f : Cluster → Cluster) : (s.updCluster k f).batches = s.batches := rfl
@[simp] theorem updCluster_migr (s : State) (k : Nat) (f : Cluster → Cluster) : (s.updCluster k f).migr = s.migr := rfl
@[simp] theorem updCluster_host (s : State) (k : Nat) (f : Cluster → Cluster) : (s.updCluster k f).host = s.host := rfl
@[simp] theorem updCluster_disp (s : State) (k : Nat) (f : Cluster → Cluster) : (s.updCluster k f).disp = s.disp := rfl
@[simp] theorem updCluster_fw (s : State) (k : Nat) (f : Cluster → Cluster) : (s.updCluster k f).fw = s.fw := rfl
@[simp] theorem updCluster_iss (s : State) (k : Nat) (f : Cluster → Cluster) : (s.updCluster k f).iss = s.iss := rfl
@[simp] theorem updCluster_async (s : State) (k : Nat) (f : Cluster → Cluster) : (s.updCluster k f).async = s.async := rfl
@[simp] theorem updCluster_late (s : State) (k : Nat) (f : Cluster → Cluster) : (s.updCluster k f).late = s.late := rfl
@[simp] theorem updCluster_agenda (s : State) (k : Nat) (f : Cluster → Cluster) : (s.updCluster k f).agenda = s.agenda := rfl
@[simp] theorem updCluster_defer (s : State) (k : Nat) (f : Cluster → Cluster) : (s.updCluster k f).defer = s.defer := rfl
@[simp] theorem updCluster_nextId (s : State) (k : Nat) (f : Cluster → Cluster) : (s.updCluster k f).nextId = s.nextId := rfl
@[simp] theorem updCluster_fresh (s : State) (k : Nat) (f : Cluster → Cluster) : (s.updCluster k f).fresh = s.fresh := rfl

/-! ### updBank -/

@[simp] theorem updBank_clock (s : State) (k b : Nat) (f : Bank → Bank) : (s.updBank k b f).clock = s.clock := rfl
@[simp] theorem updBank_groups (s : State) (k b : Nat) (f : Bank → Bank) : (s.updBank k b f).groups = s.groups := rfl
@[simp] theorem updBank_blocks (s : State) (k b : Nat) (f : Bank → Bank) : (s.updBank k b f).blocks = s.blocks := rfl
@[simp] theorem updBank_launches (s : State) (k b : Nat) (f : Bank → Bank) : (s.updBank k b f).launches = s.launches := rfl
@[simp] theorem updBank_queues (s : State) (k b : Nat) (f : Bank → Bank) : (s.updBank k b f).queues = s.queues := rfl
@[simp] theorem updBank_ctxs (s : State) (k b : Nat) (f : Bank → Bank) : (s.updBank k b f).ctxs = s.ctxs := rfl
@[simp] theorem updBank_cores (s : State) (k b : Nat) (f : Bank → Bank) : (s.updBank k b f).cores = s.cores := rfl
@[simp] theorem updBank_engines (s : State) (k b : Nat) (f : Bank → Bank) : (s.updBank k b f).engines = s.engines := rfl
@[simp] theorem updBank_mem (s : State) (k b : Nat) (f : Bank → Bank) : (s.updBank k b f).mem = s.mem := rfl
@[simp] theorem updBank_caseMem (s : State) (k b : Nat) (f : Bank → Bank) : (s.updBank k b f).caseMem = s.caseMem := rfl
@[simp] theorem updBank_poison (s : State) (k b : Nat) (f : Bank → Bank) : (s.updBank k b f).poison = s.poison := rfl
@[simp] theorem updBank_sq (s : State) (k b : Nat) (f : Bank → Bank) : (s.updBank k b f).sq = s.sq := rfl
@[simp] theorem updBank_wp (s : State) (k b : Nat) (f : Bank → Bank) : (s.updBank k b f).wp = s.wp := rfl
@[simp] theorem updBank_ver (s : State) (k b : Nat) (f : Bank → Bank) : (s.updBank k b f).ver = s.ver := rfl
@[simp] theorem updBank_stamps (s : State) (k b : Nat) (f : Bank → Bank) : (s.updBank k b f).stamps = s.stamps := rfl
@[simp] theorem updBank_evicted (s : State) (k b : Nat) (f : Bank → Bank) : (s.updBank k b f).evicted = s.evicted := rfl
@[simp] theorem updBank_imps (s : State) (k b : Nat) (f : Bank → Bank) : (s.updBank k b f).imps = s.imps := rfl
@[simp] theorem updBank_galUsed (s : State) (k b : Nat) (f : Bank → Bank) : (s.updBank k b f).galUsed = s.galUsed := rfl
@[simp] theorem updBank_galfloor (s : State) (k b : Nat) (f : Bank → Bank) : (s.updBank k b f).galfloor = s.galfloor := rfl
@[simp] theorem updBank_floors (s : State) (k b : Nat) (f : Bank → Bank) : (s.updBank k b f).floors = s.floors := rfl
@[simp] theorem updBank_marks (s : State) (k b : Nat) (f : Bank → Bank) : (s.updBank k b f).marks = s.marks := rfl
@[simp] theorem updBank_batches (s : State) (k b : Nat) (f : Bank → Bank) : (s.updBank k b f).batches = s.batches := rfl
@[simp] theorem updBank_migr (s : State) (k b : Nat) (f : Bank → Bank) : (s.updBank k b f).migr = s.migr := rfl
@[simp] theorem updBank_host (s : State) (k b : Nat) (f : Bank → Bank) : (s.updBank k b f).host = s.host := rfl
@[simp] theorem updBank_disp (s : State) (k b : Nat) (f : Bank → Bank) : (s.updBank k b f).disp = s.disp := rfl
@[simp] theorem updBank_fw (s : State) (k b : Nat) (f : Bank → Bank) : (s.updBank k b f).fw = s.fw := rfl
@[simp] theorem updBank_iss (s : State) (k b : Nat) (f : Bank → Bank) : (s.updBank k b f).iss = s.iss := rfl
@[simp] theorem updBank_async (s : State) (k b : Nat) (f : Bank → Bank) : (s.updBank k b f).async = s.async := rfl
@[simp] theorem updBank_late (s : State) (k b : Nat) (f : Bank → Bank) : (s.updBank k b f).late = s.late := rfl
@[simp] theorem updBank_agenda (s : State) (k b : Nat) (f : Bank → Bank) : (s.updBank k b f).agenda = s.agenda := rfl
@[simp] theorem updBank_defer (s : State) (k b : Nat) (f : Bank → Bank) : (s.updBank k b f).defer = s.defer := rfl
@[simp] theorem updBank_nextId (s : State) (k b : Nat) (f : Bank → Bank) : (s.updBank k b f).nextId = s.nextId := rfl
@[simp] theorem updBank_fresh (s : State) (k b : Nat) (f : Bank → Bank) : (s.updBank k b f).fresh = s.fresh := rfl

/-! ### updEngine -/

@[simp] theorem updEngine_clock (s : State) (c : Nat) (f : Engine → Engine) : (s.updEngine c f).clock = s.clock := rfl
@[simp] theorem updEngine_groups (s : State) (c : Nat) (f : Engine → Engine) : (s.updEngine c f).groups = s.groups := rfl
@[simp] theorem updEngine_blocks (s : State) (c : Nat) (f : Engine → Engine) : (s.updEngine c f).blocks = s.blocks := rfl
@[simp] theorem updEngine_launches (s : State) (c : Nat) (f : Engine → Engine) : (s.updEngine c f).launches = s.launches := rfl
@[simp] theorem updEngine_queues (s : State) (c : Nat) (f : Engine → Engine) : (s.updEngine c f).queues = s.queues := rfl
@[simp] theorem updEngine_ctxs (s : State) (c : Nat) (f : Engine → Engine) : (s.updEngine c f).ctxs = s.ctxs := rfl
@[simp] theorem updEngine_cores (s : State) (c : Nat) (f : Engine → Engine) : (s.updEngine c f).cores = s.cores := rfl
@[simp] theorem updEngine_clusters (s : State) (c : Nat) (f : Engine → Engine) : (s.updEngine c f).clusters = s.clusters := rfl
@[simp] theorem updEngine_mem (s : State) (c : Nat) (f : Engine → Engine) : (s.updEngine c f).mem = s.mem := rfl
@[simp] theorem updEngine_caseMem (s : State) (c : Nat) (f : Engine → Engine) : (s.updEngine c f).caseMem = s.caseMem := rfl
@[simp] theorem updEngine_poison (s : State) (c : Nat) (f : Engine → Engine) : (s.updEngine c f).poison = s.poison := rfl
@[simp] theorem updEngine_sq (s : State) (c : Nat) (f : Engine → Engine) : (s.updEngine c f).sq = s.sq := rfl
@[simp] theorem updEngine_wp (s : State) (c : Nat) (f : Engine → Engine) : (s.updEngine c f).wp = s.wp := rfl
@[simp] theorem updEngine_ver (s : State) (c : Nat) (f : Engine → Engine) : (s.updEngine c f).ver = s.ver := rfl
@[simp] theorem updEngine_stamps (s : State) (c : Nat) (f : Engine → Engine) : (s.updEngine c f).stamps = s.stamps := rfl
@[simp] theorem updEngine_evicted (s : State) (c : Nat) (f : Engine → Engine) : (s.updEngine c f).evicted = s.evicted := rfl
@[simp] theorem updEngine_imps (s : State) (c : Nat) (f : Engine → Engine) : (s.updEngine c f).imps = s.imps := rfl
@[simp] theorem updEngine_galUsed (s : State) (c : Nat) (f : Engine → Engine) : (s.updEngine c f).galUsed = s.galUsed := rfl
@[simp] theorem updEngine_galfloor (s : State) (c : Nat) (f : Engine → Engine) : (s.updEngine c f).galfloor = s.galfloor := rfl
@[simp] theorem updEngine_floors (s : State) (c : Nat) (f : Engine → Engine) : (s.updEngine c f).floors = s.floors := rfl
@[simp] theorem updEngine_marks (s : State) (c : Nat) (f : Engine → Engine) : (s.updEngine c f).marks = s.marks := rfl
@[simp] theorem updEngine_batches (s : State) (c : Nat) (f : Engine → Engine) : (s.updEngine c f).batches = s.batches := rfl
@[simp] theorem updEngine_migr (s : State) (c : Nat) (f : Engine → Engine) : (s.updEngine c f).migr = s.migr := rfl
@[simp] theorem updEngine_host (s : State) (c : Nat) (f : Engine → Engine) : (s.updEngine c f).host = s.host := rfl
@[simp] theorem updEngine_disp (s : State) (c : Nat) (f : Engine → Engine) : (s.updEngine c f).disp = s.disp := rfl
@[simp] theorem updEngine_fw (s : State) (c : Nat) (f : Engine → Engine) : (s.updEngine c f).fw = s.fw := rfl
@[simp] theorem updEngine_iss (s : State) (c : Nat) (f : Engine → Engine) : (s.updEngine c f).iss = s.iss := rfl
@[simp] theorem updEngine_async (s : State) (c : Nat) (f : Engine → Engine) : (s.updEngine c f).async = s.async := rfl
@[simp] theorem updEngine_late (s : State) (c : Nat) (f : Engine → Engine) : (s.updEngine c f).late = s.late := rfl
@[simp] theorem updEngine_agenda (s : State) (c : Nat) (f : Engine → Engine) : (s.updEngine c f).agenda = s.agenda := rfl
@[simp] theorem updEngine_defer (s : State) (c : Nat) (f : Engine → Engine) : (s.updEngine c f).defer = s.defer := rfl
@[simp] theorem updEngine_nextId (s : State) (c : Nat) (f : Engine → Engine) : (s.updEngine c f).nextId = s.nextId := rfl
@[simp] theorem updEngine_fresh (s : State) (c : Nat) (f : Engine → Engine) : (s.updEngine c f).fresh = s.fresh := rfl

/-! ### updHost -/

@[simp] theorem updHost_clock (s : State) (f : HostSide → HostSide) : (s.updHost f).clock = s.clock := rfl
@[simp] theorem updHost_groups (s : State) (f : HostSide → HostSide) : (s.updHost f).groups = s.groups := rfl
@[simp] theorem updHost_blocks (s : State) (f : HostSide → HostSide) : (s.updHost f).blocks = s.blocks := rfl
@[simp] theorem updHost_launches (s : State) (f : HostSide → HostSide) : (s.updHost f).launches = s.launches := rfl
@[simp] theorem updHost_queues (s : State) (f : HostSide → HostSide) : (s.updHost f).queues = s.queues := rfl
@[simp] theorem updHost_ctxs (s : State) (f : HostSide → HostSide) : (s.updHost f).ctxs = s.ctxs := rfl
@[simp] theorem updHost_cores (s : State) (f : HostSide → HostSide) : (s.updHost f).cores = s.cores := rfl
@[simp] theorem updHost_clusters (s : State) (f : HostSide → HostSide) : (s.updHost f).clusters = s.clusters := rfl
@[simp] theorem updHost_engines (s : State) (f : HostSide → HostSide) : (s.updHost f).engines = s.engines := rfl
@[simp] theorem updHost_mem (s : State) (f : HostSide → HostSide) : (s.updHost f).mem = s.mem := rfl
@[simp] theorem updHost_caseMem (s : State) (f : HostSide → HostSide) : (s.updHost f).caseMem = s.caseMem := rfl
@[simp] theorem updHost_poison (s : State) (f : HostSide → HostSide) : (s.updHost f).poison = s.poison := rfl
@[simp] theorem updHost_sq (s : State) (f : HostSide → HostSide) : (s.updHost f).sq = s.sq := rfl
@[simp] theorem updHost_wp (s : State) (f : HostSide → HostSide) : (s.updHost f).wp = s.wp := rfl
@[simp] theorem updHost_ver (s : State) (f : HostSide → HostSide) : (s.updHost f).ver = s.ver := rfl
@[simp] theorem updHost_stamps (s : State) (f : HostSide → HostSide) : (s.updHost f).stamps = s.stamps := rfl
@[simp] theorem updHost_evicted (s : State) (f : HostSide → HostSide) : (s.updHost f).evicted = s.evicted := rfl
@[simp] theorem updHost_imps (s : State) (f : HostSide → HostSide) : (s.updHost f).imps = s.imps := rfl
@[simp] theorem updHost_galUsed (s : State) (f : HostSide → HostSide) : (s.updHost f).galUsed = s.galUsed := rfl
@[simp] theorem updHost_galfloor (s : State) (f : HostSide → HostSide) : (s.updHost f).galfloor = s.galfloor := rfl
@[simp] theorem updHost_floors (s : State) (f : HostSide → HostSide) : (s.updHost f).floors = s.floors := rfl
@[simp] theorem updHost_marks (s : State) (f : HostSide → HostSide) : (s.updHost f).marks = s.marks := rfl
@[simp] theorem updHost_batches (s : State) (f : HostSide → HostSide) : (s.updHost f).batches = s.batches := rfl
@[simp] theorem updHost_migr (s : State) (f : HostSide → HostSide) : (s.updHost f).migr = s.migr := rfl
@[simp] theorem updHost_disp (s : State) (f : HostSide → HostSide) : (s.updHost f).disp = s.disp := rfl
@[simp] theorem updHost_fw (s : State) (f : HostSide → HostSide) : (s.updHost f).fw = s.fw := rfl
@[simp] theorem updHost_iss (s : State) (f : HostSide → HostSide) : (s.updHost f).iss = s.iss := rfl
@[simp] theorem updHost_async (s : State) (f : HostSide → HostSide) : (s.updHost f).async = s.async := rfl
@[simp] theorem updHost_late (s : State) (f : HostSide → HostSide) : (s.updHost f).late = s.late := rfl
@[simp] theorem updHost_agenda (s : State) (f : HostSide → HostSide) : (s.updHost f).agenda = s.agenda := rfl
@[simp] theorem updHost_defer (s : State) (f : HostSide → HostSide) : (s.updHost f).defer = s.defer := rfl
@[simp] theorem updHost_nextId (s : State) (f : HostSide → HostSide) : (s.updHost f).nextId = s.nextId := rfl
@[simp] theorem updHost_fresh (s : State) (f : HostSide → HostSide) : (s.updHost f).fresh = s.fresh := rfl

/-! ### countEvent -/

@[simp] theorem countEvent_clock (s : State) (k c n : Nat) : (s.countEvent k c n).clock = s.clock := by
  unfold State.countEvent; split; rfl; dsimp only; split <;> rfl
@[simp] theorem countEvent_groups (s : State) (k c n : Nat) : (s.countEvent k c n).groups = s.groups := by
  unfold State.countEvent; split; rfl; dsimp only; split <;> rfl
@[simp] theorem countEvent_blocks (s : State) (k c n : Nat) : (s.countEvent k c n).blocks = s.blocks := by
  unfold State.countEvent; split; rfl; dsimp only; split <;> rfl
@[simp] theorem countEvent_launches (s : State) (k c n : Nat) : (s.countEvent k c n).launches = s.launches := by
  unfold State.countEvent; split; rfl; dsimp only; split <;> rfl
@[simp] theorem countEvent_queues (s : State) (k c n : Nat) : (s.countEvent k c n).queues = s.queues := by
  unfold State.countEvent; split; rfl; dsimp only; split <;> rfl
@[simp] theorem countEvent_ctxs (s : State) (k c n : Nat) : (s.countEvent k c n).ctxs = s.ctxs := by
  unfold State.countEvent; split; rfl; dsimp only; split <;> rfl
@[simp] theorem countEvent_clusters (s : State) (k c n : Nat) : (s.countEvent k c n).clusters = s.clusters := by
  unfold State.countEvent; split; rfl; dsimp only; split <;> rfl
@[simp] theorem countEvent_engines (s : State) (k c n : Nat) : (s.countEvent k c n).engines = s.engines := by
  unfold State.countEvent; split; rfl; dsimp only; split <;> rfl
@[simp] theorem countEvent_mem (s : State) (k c n : Nat) : (s.countEvent k c n).mem = s.mem := by
  unfold State.countEvent; split; rfl; dsimp only; split <;> rfl
@[simp] theorem countEvent_caseMem (s : State) (k c n : Nat) : (s.countEvent k c n).caseMem = s.caseMem := by
  unfold State.countEvent; split; rfl; dsimp only; split <;> rfl
@[simp] theorem countEvent_poison (s : State) (k c n : Nat) : (s.countEvent k c n).poison = s.poison := by
  unfold State.countEvent; split; rfl; dsimp only; split <;> rfl
@[simp] theorem countEvent_sq (s : State) (k c n : Nat) : (s.countEvent k c n).sq = s.sq := by
  unfold State.countEvent; split; rfl; dsimp only; split <;> rfl
@[simp] theorem countEvent_wp (s : State) (k c n : Nat) : (s.countEvent k c n).wp = s.wp := by
  unfold State.countEvent; split; rfl; dsimp only; split <;> rfl
@[simp] theorem countEvent_ver (s : State) (k c n : Nat) : (s.countEvent k c n).ver = s.ver := by
  unfold State.countEvent; split; rfl; dsimp only; split <;> rfl
@[simp] theorem countEvent_stamps (s : State) (k c n : Nat) : (s.countEvent k c n).stamps = s.stamps := by
  unfold State.countEvent; split; rfl; dsimp only; split <;> rfl
@[simp] theorem countEvent_evicted (s : State) (k c n : Nat) : (s.countEvent k c n).evicted = s.evicted := by
  unfold State.countEvent; split; rfl; dsimp only; split <;> rfl
@[simp] theorem countEvent_imps (s : State) (k c n : Nat) : (s.countEvent k c n).imps = s.imps := by
  unfold State.countEvent; split; rfl; dsimp only; split <;> rfl
@[simp] theorem countEvent_galUsed (s : State) (k c n : Nat) : (s.countEvent k c n).galUsed = s.galUsed := by
  unfold State.countEvent; split; rfl; dsimp only; split <;> rfl
@[simp] theorem countEvent_galfloor (s : State) (k c n : Nat) : (s.countEvent k c n).galfloor = s.galfloor := by
  unfold State.countEvent; split; rfl; dsimp only; split <;> rfl
@[simp] theorem countEvent_floors (s : State) (k c n : Nat) : (s.countEvent k c n).floors = s.floors := by
  unfold State.countEvent; split; rfl; dsimp only; split <;> rfl
@[simp] theorem countEvent_marks (s : State) (k c n : Nat) : (s.countEvent k c n).marks = s.marks := by
  unfold State.countEvent; split; rfl; dsimp only; split <;> rfl
@[simp] theorem countEvent_batches (s : State) (k c n : Nat) : (s.countEvent k c n).batches = s.batches := by
  unfold State.countEvent; split; rfl; dsimp only; split <;> rfl
@[simp] theorem countEvent_migr (s : State) (k c n : Nat) : (s.countEvent k c n).migr = s.migr := by
  unfold State.countEvent; split; rfl; dsimp only; split <;> rfl
@[simp] theorem countEvent_host (s : State) (k c n : Nat) : (s.countEvent k c n).host = s.host := by
  unfold State.countEvent; split; rfl; dsimp only; split <;> rfl
@[simp] theorem countEvent_disp (s : State) (k c n : Nat) : (s.countEvent k c n).disp = s.disp := by
  unfold State.countEvent; split; rfl; dsimp only; split <;> rfl
@[simp] theorem countEvent_fw (s : State) (k c n : Nat) : (s.countEvent k c n).fw = s.fw := by
  unfold State.countEvent; split; rfl; dsimp only; split <;> rfl
@[simp] theorem countEvent_iss (s : State) (k c n : Nat) : (s.countEvent k c n).iss = s.iss := by
  unfold State.countEvent; split; rfl; dsimp only; split <;> rfl
@[simp] theorem countEvent_async (s : State) (k c n : Nat) : (s.countEvent k c n).async = s.async := by
  unfold State.countEvent; split; rfl; dsimp only; split <;> rfl
@[simp] theorem countEvent_late (s : State) (k c n : Nat) : (s.countEvent k c n).late = s.late := by
  unfold State.countEvent; split; rfl; dsimp only; split <;> rfl
@[simp] theorem countEvent_agenda (s : State) (k c n : Nat) : (s.countEvent k c n).agenda = s.agenda := by
  unfold State.countEvent; split; rfl; dsimp only; split <;> rfl
@[simp] theorem countEvent_defer (s : State) (k c n : Nat) : (s.countEvent k c n).defer = s.defer := by
  unfold State.countEvent; split; rfl; dsimp only; split <;> rfl
@[simp] theorem countEvent_nextId (s : State) (k c n : Nat) : (s.countEvent k c n).nextId = s.nextId := by
  unfold State.countEvent; split; rfl; dsimp only; split <;> rfl
@[simp] theorem countEvent_fresh (s : State) (k c n : Nat) : (s.countEvent k c n).fresh = s.fresh := by
  unfold State.countEvent; split; rfl; dsimp only; split <;> rfl

/-! ### Lookups after updates -/

theorem find_map_key {α : Type} (key : α → Nat) (f : α → α) (hf : ∀ x, key (f x) = key x) (n m : Nat) (l : List α) :
    (l.map fun x => if key x == n then f x else x).find? (fun x => key x == m) =
      if m = n then (l.find? fun x => key x == m).map f else l.find? fun x => key x == m := by
  induction l with
  | nil => simp
  | cons a r ih =>
    rw [List.map_cons, List.find?_cons, List.find?_cons, ih]
    have hk : key (if key a == n then f a else a) = key a := by split <;> simp [hf]
    rw [hk]
    by_cases ha : key a = m
    · by_cases hm : m = n
      · have e : key a = n := ha.trans hm
        simp [ha, hm]
      · have e : ¬ key a = n := fun e => hm (ha ▸ e)
        simp [ha, hm]
    · simp only [beq_eq_false_iff_ne.mpr ha]

/-- A group after an update of a group that keeps its number. -/
theorem group?_updGroup (s : State) (g h : Nat) (f : Group → Group) (hf : ∀ x, (f x).gid = x.gid) :
    (s.updGroup g f).group? h = if h = g then (s.group? h).map f else s.group? h :=
  find_map_key Group.gid f hf g h s.groups

theorem block?_updBlock (s : State) (b c : Nat) (f : Block → Block) (hf : ∀ x, (f x).bid = x.bid) :
    (s.updBlock b f).block? c = if c = b then (s.block? c).map f else s.block? c :=
  find_map_key Block.bid f hf b c s.blocks

theorem launch?_updLaunch (s : State) (l k : Nat) (f : Launch → Launch) (hf : ∀ x, (f x).lid = x.lid) :
    (s.updLaunch l f).launch? k = if k = l then (s.launch? k).map f else s.launch? k :=
  find_map_key Launch.lid f hf l k s.launches

@[simp] theorem coreRegs_updCore_same (s : State) (c : Nat) (f : CoreRegs → CoreRegs) :
    (s.updCore c f).coreRegs c = f (s.coreRegs c) := listGet_put_same _ _ _ _

theorem coreRegs_updCore_other (s : State) {c d : Nat} (f : CoreRegs → CoreRegs) (h : d ≠ c) :
    (s.updCore c f).coreRegs d = s.coreRegs d := listGet_put_other _ _ _ h

@[simp] theorem cluster_updCluster_same (s : State) (k : Nat) (f : Cluster → Cluster) :
    (s.updCluster k f).cluster k = f (s.cluster k) := listGet_put_same _ _ _ _

theorem cluster_updCluster_other (s : State) {k j : Nat} (f : Cluster → Cluster) (h : j ≠ k) :
    (s.updCluster k f).cluster j = s.cluster j := listGet_put_other _ _ _ h

@[simp] theorem engine_updEngine_same (s : State) (c : Nat) (f : Engine → Engine) :
    (s.updEngine c f).engine c = f (s.engine c) := listGet_put_same _ _ _ _

theorem engine_updEngine_other (s : State) {c d : Nat} (f : Engine → Engine) (h : d ≠ c) :
    (s.updEngine c f).engine d = s.engine d := listGet_put_other _ _ _ h

theorem ctx_updCtx_same (s : State) {c : Nat} (f : Ctx → Ctx) (h : c < 64) : (s.updCtx c f).ctx c = f (s.ctx c) :=
  vget_vset_same _ _ _ h

theorem ctx_updCtx_other (s : State) {c d : Nat} (f : Ctx → Ctx) (h : d ≠ c) : (s.updCtx c f).ctx d = s.ctx d :=
  vget_vset_other _ _ _ h

theorem queue_updQueue_same (s : State) {q : Nat} (f : Queue → Queue) (h : q < 64) :
    (s.updQueue q f).queue q = f (s.queue q) := vget_vset_same _ _ _ h

theorem queue_updQueue_other (s : State) {q r : Nat} (f : Queue → Queue) (h : r ≠ q) :
    (s.updQueue q f).queue r = s.queue r := vget_vset_other _ _ _ h

/-- A lane after every lane changes. -/
theorem lane_mapLanes (g : Group) (f : Nat → Lane → Lane) {l : Nat} (h : l < 32) :
    (g.mapLanes f).lane l = f l (g.lane l) := by
  simp [Group.mapLanes, Group.lane, vget, h]

/-- A lane past the last one. -/
theorem lane_past (g : Group) {l : Nat} (h : 32 ≤ l) : g.lane l = { Lane.reset 0 with st := .exited } := by
  simp only [Group.lane, vget]
  rw [Vector.getElem?_eq_none h, Option.getD_none]

end Sys2Proof.Machine
end

