-- ==== Sys2Proof/Laws/Ops.lean ====
section
/-!
SUPPORT. What the shared operations do: registers of a thread, changes of the issuer's threads, the issue check and the
wrappers of the meanings.
-/

namespace Sys2Proof.Machine

/-! ## Words and pairs -/

theorem getLsbD_pairOf (a b : Word) (i : Nat) :
    (pairOf a b).getLsbD i = if i < 32 then a.getLsbD i else b.getLsbD (i - 32) :=
  BitVec.getLsbD_append

@[simp] theorem loWord_pairOf (a b : Word) : loWord (pairOf a b) = a := by
  apply BitVec.eq_of_getLsbD_eq
  intro i hi
  rw [loWord, BitVec.getLsbD_extractLsb', getLsbD_pairOf]
  simp [hi]

@[simp] theorem hiWord_pairOf (a b : Word) : hiWord (pairOf a b) = b := by
  apply BitVec.eq_of_getLsbD_eq
  intro i hi
  rw [hiWord, BitVec.getLsbD_extractLsb', getLsbD_pairOf]
  simp [hi]

@[simp] theorem pairOf_halves (w : DWord) : pairOf (loWord w) (hiWord w) = w := by
  apply BitVec.eq_of_getLsbD_eq
  intro i hi
  rw [getLsbD_pairOf, loWord, hiWord, BitVec.getLsbD_extractLsb', BitVec.getLsbD_extractLsb']
  split
  · simp [*]
  · simp [show i - 32 < 32 by omega, show 32 + (i - 32) = i by omega]

/-! ## Registers of a thread -/

@[simp] theorem reg_setReg_same (x : Lane) {n : Nat} (w : Word) (h : n < 64) : (x.setReg n w).reg n = w :=
  vget_vset_same _ _ _ h

@[simp] theorem reg_setReg_other (x : Lane) {n m : Nat} (w : Word) (h : m ≠ n) : (x.setReg n w).reg m = x.reg m :=
  vget_vset_other _ _ _ h

@[simp] theorem setReg_pc (x : Lane) (n : Nat) (w : Word) : (x.setReg n w).pc = x.pc := rfl
@[simp] theorem setReg_p (x : Lane) (n : Nat) (w : Word) : (x.setReg n w).p = x.p := rfl
@[simp] theorem setReg_st (x : Lane) (n : Nat) (w : Word) : (x.setReg n w).st = x.st := rfl
@[simp] theorem setReg_tx (x : Lane) (n : Nat) (w : Word) : (x.setReg n w).tx = x.tx := rfl
@[simp] theorem setReg_fsticky (x : Lane) (n : Nat) (w : Word) : (x.setReg n w).fsticky = x.fsticky := rfl

theorem pair_setPair_same (x : Lane) {n : Nat} (w : DWord) (h : n + 1 < 64) : (x.setPair n w).pair n = w := by
  have h1 : (x.setPair n w).reg n = loWord w := by
    rw [Lane.setPair, reg_setReg_other _ _ (by omega), reg_setReg_same _ _ (by omega)]
  have h2 : (x.setPair n w).reg (n + 1) = hiWord w := by rw [Lane.setPair, reg_setReg_same _ _ h]
  rw [Lane.pair, h1, h2, pairOf_halves]

theorem reg_setPair_other (x : Lane) {n m : Nat} (w : DWord) (h : m ≠ n) (h' : m ≠ n + 1) :
    (x.setPair n w).reg m = x.reg m := by
  rw [Lane.setPair, reg_setReg_other _ _ h', reg_setReg_other _ _ h]

/-- A write to p0 is discarded. -/
@[simp] theorem setPred_zero (x : Lane) (b : Bool) : x.setPred 0 b = x := rfl

theorem pred_setPred_same (x : Lane) {p : BitVec 5} (b : Bool) (h : p ≠ 0) : (x.setPred p b).pred p = b := by
  have hp : p.toNat < 32 := p.isLt
  simp only [Lane.setPred, Lane.pred, if_neg h, beq_eq_false_iff_ne.mpr h, Bool.false_or]
  cases b <;> simp [hp]

theorem pred_setPred_other (x : Lane) {p q : BitVec 5} (b : Bool) (h : q ≠ p) : (x.setPred p b).pred q = x.pred q := by
  have hq : q.toNat < 32 := q.isLt
  have hne : q.toNat ≠ p.toNat := fun e => h (BitVec.eq_of_toNat_eq e)
  by_cases hp : p = 0
  · subst hp; rfl
  · have hb : ((1 : BitVec 32) <<< p.toNat).getLsbD q.toNat = false := by
      rw [BitVec.getLsbD_shiftLeft]
      by_cases hlt : q.toNat < p.toNat
      · simp [hlt]
      · simp [show q.toNat - p.toNat ≠ 0 by omega]
    simp only [Lane.setPred, Lane.pred, if_neg hp]
    cases b
    · simp only [Bool.false_eq_true, if_false, BitVec.getLsbD_and, BitVec.getLsbD_not, hb, hq, decide_true, Bool.not_false,
        Bool.and_self, Bool.and_true]
    · simp only [if_true, BitVec.getLsbD_or, hb, Bool.or_false]

/-! ## Changes of the issuer's threads -/

theorem mapThreads_gid (g : Group) (h : Bool) (ts : List Nat) (f : Nat → Lane → Lane) :
    (g.mapThreads h ts f).gid = g.gid := by
  cases h <;> simp [Group.mapThreads, Group.mapLanes]

theorem mapThreads_bare (g : Group) (h : Bool) (ts : List Nat) (f : Nat → Lane → Lane) :
    (g.mapThreads h ts f).bare h = g.bare h := by
  cases h
  · simp [Group.mapThreads, Group.bare, Group.mapLanes]
  · simp only [Group.mapThreads, Group.bare, if_true, Option.map_map]
    congr 1
    cases g.lig with
    | none => rfl
    | some l =>
      simp only [Option.map_some, Function.comp_apply, Lig.bare, Option.some.injEq]
      congr 1
      apply List.ext_getElem?
      intro i
      simp only [List.getElem?_map, List.getElem?_mapIdx]
      cases l.helpers[i]? with
      | none => rfl
      | some x => simp only [Option.map_some]; split <;> rfl

theorem cur_gid {s : State} {g : Group} (h : s.cur = some g) : g.gid = s.iss.gid := by
  have := List.find?_some h
  simpa using this

theorem threadLane_mapThreads (s : State) (g : Group) (ts : List Nat) (f : Nat → Lane → Lane) {k : Nat}
    (hk : k < threadCount s g) :
    threadLane s (g.mapThreads s.iss.helper ts f) k = if k ∈ ts then f k (threadLane s g k) else threadLane s g k := by
  unfold threadCount at hk
  unfold threadLane Group.mapThreads
  cases hh : s.iss.helper
  · simp only [hh, Bool.false_eq_true, if_false] at hk ⊢
    rw [lane_mapLanes _ _ hk]
    by_cases hm : k ∈ ts <;> simp [hm]
  · simp only [hh, if_true] at hk ⊢
    cases hl : g.lig with
    | none => simp [hl] at hk
    | some l =>
      simp only [hl, Option.map_some, Option.getD_some] at hk ⊢
      simp only [List.getElem?_mapIdx, List.getElem?_eq_getElem hk, Option.map_some, Option.getD_some]
      by_cases hm : k ∈ ts <;> simp [hm]

/-- Changing threads by `f` is what `AllBecome` says. -/
theorem mapThreads_becomes (s : State) (ts : List Nat) (f : Nat → Lane → Lane) :
    AllBecome s (s.updGroup s.iss.gid fun g => g.mapThreads s.iss.helper ts f) fun k x => if k ∈ ts then f k x else x := by
  refine ⟨?_, fun v p o => by cases p <;> rfl, fun g hg => ?_⟩
  · simp only [State.bare, State.updGroup, List.map_map]
    congr 1
    apply List.map_congr_left
    intro x _
    simp only [Function.comp_apply]
    by_cases hx : x.gid == s.iss.gid
    · simp [hx, mapThreads_gid, mapThreads_bare]
    · simp [hx]
  · refine ⟨g.mapThreads s.iss.helper ts f, ?_, fun k hk => ?_⟩
    · show (s.updGroup s.iss.gid _).group? s.iss.gid = _
      rw [group?_updGroup _ _ _ _ fun x => mapThreads_gid x _ _ _, if_pos rfl]
      show (s.cur).map _ = _
      rw [hg]; rfl
    · exact threadLane_mapThreads s g _ f hk

/-- Changing the active threads by `f` is what `ThreadsBecome` says. -/
theorem mapActive_becomes (s : State) (f : Nat → Lane → Lane) : ThreadsBecome s (s.mapActive f) f :=
  mapThreads_becomes s s.iss.active f

/-- Threads that change by functions which agree on the threads there are. -/
theorem AllBecome.congr {s t : State} {f f' : Nat → Lane → Lane} (h : AllBecome s t f)
    (e : ∀ g, s.cur = some g → ∀ k, k < threadCount s g → f k (threadLane s g k) = f' k (threadLane s g k)) :
    AllBecome s t f' := by
  refine ⟨h.1, h.2.1, fun g hg => ?_⟩
  obtain ⟨g', hg', ht⟩ := h.2.2 g hg
  exact ⟨g', hg', fun k hk => by rw [ht k hk, e g hg k hk]⟩

/-- Active threads that change by functions which agree on them. -/
theorem ThreadsBecome.congr {s t : State} {f f' : Nat → Lane → Lane} (h : ThreadsBecome s t f)
    (e : ∀ g, s.cur = some g → ∀ k, k ∈ s.iss.active → k < threadCount s g → f k (threadLane s g k) = f' k (threadLane s g k)) :
    ThreadsBecome s t f' :=
  AllBecome.congr h fun g hg k hk => by
    by_cases m : k ∈ s.iss.active
    · simp only [m, if_true]; exact e g hg k m hk
    · simp only [m, if_false]

/-! ## The issue check and the wrappers -/

theorem gateOf_go {s : State} {g : Group} {uses : List Use} {free helperOk : Bool}
    (h : ClearOf s g ⟨uses, free, helperOk⟩) : gateOf s g uses free helperOk = .go := by
  obtain ⟨-, hl, hh, ho, hf, hu, -⟩ := h
  dsimp only at hl hh ho hf hu
  have h1 : uses.all (fun u => u.legal s.iss.helper g.nregs) = true := List.all_eq_true.mpr hl
  have hh2 : ∀ u ∈ uses, busyUse s g s.iss.helper u = false ∧ waitUse g s.iss.helper u = false := fun u m => by
    simpa [heldUse] using hu u m
  have h5 : uses.any (waitUse g s.iss.helper) = false := List.any_eq_false.mpr fun u m => by simp [(hh2 u m).2]
  have h3 : (s.iss.helper && !helperOk && !(executing s g (issueGuard s)).isEmpty) = false := by
    cases e : s.iss.helper
    · rfl
    · simp [hh e]
  have h4 : (g.priv == .user && !s.iss.helper && ((!free && !g.fl.opLog.isEmpty) || uses.any (loggedUse g))) = false := by
    by_cases hp : g.priv = .user
    · cases e : s.iss.helper
      · obtain ⟨a, b⟩ := ho hp e
        have : uses.any (loggedUse g) = false := List.any_eq_false.mpr fun u m => by simp [b u m]
        rcases a with a | a <;> simp [a, this]
      · simp
    · simp [hp]
  have h6 : heldReason s g s.iss.helper uses = none := by
    have e : uses.flatMap (busyReasons s g s.iss.helper) = [] := List.flatMap_eq_nil_iff.mpr fun u m => by
      simpa [busyUse] using (hh2 u m).1
    simp [heldReason, e, h5, leastBy]
  simp only [gateOf, h1, h3, h4, h6, hf, Bool.not_true, Bool.false_eq_true, if_false]

/-- A memory instruction behind the issue check, when the check passes. -/
theorem gateMem_clear {s : State} {g : Group} {uses : List Use} {free helperOk : Bool} (k : Group → Out State)
    (h : ClearOf s g ⟨uses, free, helperOk⟩) : gateMem s uses free helperOk k = k g := by
  simp only [gateMem, h.1.1, gateOf_go h]

/-- Any other meaning behind the issue check, when the check passes. -/
theorem gateAs_clear {s : State} {g : Group} {uses : List Use} {free helperOk : Bool} (reason : Nat) (k : Group → Out State)
    (h : ClearOf s g ⟨uses, free, helperOk⟩) : gateAs reason s uses free helperOk k = k g := by
  simp [gateAs, gateMem_clear _ h, h.2.2.2.2.2.2]

/-- A meaning behind the issue check, when the check passes. -/
theorem gate_clear {s : State} {g : Group} {uses : List Use} {free helperOk : Bool} (k : Group → Out State)
    (h : ClearOf s g ⟨uses, free, helperOk⟩) : gate s uses free helperOk k = k g := gateAs_clear 12 k h

/-- A per-lane instruction completes: each executing thread changes by `f`, and nothing else. -/
theorem perLane_completes {s : State} {g : Group} {uses : List Use} (gd : Guard) (f : Group → Nat → Lane → Lane)
    (h : ClearOf s g ⟨uses, true, true⟩) : Completes s gd (perLane s uses gd f) (f g) :=
  ⟨_, gate_clear _ h, mapActive_becomes s _⟩

/-- Every active thread advances past the instruction, and nothing else changes. -/
theorem advance_becomes (s : State) : ThreadsBecome s s.advance fun _ x => { x with pc := s.nextPc } :=
  mapActive_becomes s _

theorem executing_eq_active {s : State} {g : Group} {gd : Guard}
    (h : ∀ k ∈ s.iss.active, guardTrue gd (threadLane s g k) = true) : executing s g gd = s.iss.active :=
  List.filter_eq_self.mpr h

/-- A group instruction whose guard holds in every active thread does its work. -/
theorem perGroupAs_all {s : State} {g : Group} {uses : List Use} {free helperOk : Bool} {gd : Guard} (reason : Nat)
    (k : Group → List Nat → State) (h : ClearOf s g ⟨uses, free, helperOk⟩) (hn : s.iss.active ≠ [])
    (hg : ∀ t ∈ s.iss.active, guardTrue gd (threadLane s g t) = true) :
    perGroupAs reason s uses free helperOk gd k = .next (k g s.iss.active) := by
  have e := executing_eq_active hg
  have n : s.iss.active.isEmpty = false := by simpa using hn
  simp only [perGroupAs, gateAs_clear _ _ h, groupGuard, e, n]
  split <;> simp

theorem perGroup_all {s : State} {g : Group} {uses : List Use} {free helperOk : Bool} {gd : Guard}
    (k : Group → List Nat → State) (h : ClearOf s g ⟨uses, free, helperOk⟩) (hn : s.iss.active ≠ [])
    (hg : ∀ t ∈ s.iss.active, guardTrue gd (threadLane s g t) = true) :
    perGroup s uses free helperOk gd k = .next (k g s.iss.active) := perGroupAs_all 12 k h hn hg

/-- A group instruction whose guard holds in no active thread only advances. -/
theorem perGroupAs_none {s : State} {g : Group} {uses : List Use} {free helperOk : Bool} {gd : Guard} (reason : Nat)
    (k : Group → List Nat → State) (h : ClearOf s g ⟨uses, free, helperOk⟩) (hn : s.iss.active ≠ [])
    (hg : ∀ t ∈ s.iss.active, guardTrue gd (threadLane s g t) = false) :
    perGroupAs reason s uses free helperOk gd k = .next s.advance := by
  have e : executing s g gd = [] := List.filter_eq_nil_iff.mpr fun t ht => by simp [hg t ht]
  have n : ¬ ([] : List Nat).length = s.iss.active.length := by
    intro c; exact hn (List.length_eq_zero_iff.mp c.symm)
  simp only [perGroupAs, gateAs_clear _ _ h, groupGuard, e, n]
  split <;> simp

theorem perGroup_none {s : State} {g : Group} {uses : List Use} {free helperOk : Bool} {gd : Guard}
    (k : Group → List Nat → State) (h : ClearOf s g ⟨uses, free, helperOk⟩) (hn : s.iss.active ≠ [])
    (hg : ∀ t ∈ s.iss.active, guardTrue gd (threadLane s g t) = false) :
    perGroup s uses free helperOk gd k = .next s.advance := perGroupAs_none 12 k h hn hg

end Sys2Proof.Machine
end

