-- ==== Sys2Proof/Laws/Lane.lean ====
section
/-!
SUPPORT. What the shared shapes of the lane instructions answer when they issue, in terms of `Completes` and `Advances`.
-/

namespace Sys2Proof.Machine

theorem alu_completes {f : AForm} {s : State} {g : Group} (h : ClearOf s g ⟨usesA f, true, true⟩)
    (op op' : Word → Word → Word) (e : ∀ a b, op a b = op' a b) :
    Completes s f.g (alu f op s) fun _ x => x.setReg f.d.toNat (op' (regA g f.m x f.a) (regB g f.m x f.b)) := by
  obtain rfl : op = op' := by funext a b; exact e a b
  exact perLane_completes f.g (fun g _ x => x.setReg f.d.toNat (op (regA g f.m x f.a) (regB g f.m x f.b))) h

theorem aluAcc_completes {f : AForm} {s : State} {g : Group} (h : ClearOf s g ⟨usesAcc f, true, true⟩)
    (op op' : Word → Word → Word → Word) (e : ∀ a b c, op a b c = op' a b c) :
    Completes s f.g (aluAcc f op s) fun _ x =>
      x.setReg f.d.toNat (op' (regA g f.m x f.a) (regB g f.m x f.b) (x.reg f.d.toNat)) := by
  obtain rfl : op = op' := by funext a b c; exact e a b c
  exact perLane_completes f.g (fun g _ x =>
    x.setReg f.d.toNat (op (regA g f.m x f.a) (regB g f.m x f.b) (x.reg f.d.toNat))) h

theorem alu64_completes {f : AForm} {s : State} {g : Group} (h : ClearOf s g ⟨usesP f, true, true⟩)
    (op op' : DWord → DWord → DWord) (e : ∀ a b, op a b = op' a b) :
    Completes s f.g (alu64 f op s) fun _ x => x.setPair f.d.toNat (op' (pairA g f.m x f.a) (pairB g f.m x f.b)) := by
  obtain rfl : op = op' := by funext a b; exact e a b
  exact perLane_completes f.g (fun g _ x => x.setPair f.d.toNat (op (pairA g f.m x f.a) (pairB g f.m x f.b))) h

theorem unary_completes {f : DAForm} {s : State} {g : Group} (h : ClearOf s g ⟨usesDA f, true, true⟩)
    (op op' : Word → Word) (e : ∀ a, op a = op' a) :
    Completes s f.g (unary f op s) fun _ x => x.setReg f.d.toNat (op' (regA g f.m x f.a)) := by
  obtain rfl : op = op' := by funext a; exact e a
  exact perLane_completes f.g (fun g _ x => x.setReg f.d.toNat (op (regA g f.m x f.a))) h

/-- A binary32 instruction completes whichever operands it declares, as `float3` and `float3Acc` do. -/
theorem float3With_completes {uses : List Use} {f : AForm} {s : State} {g : Group} (h : ClearOf s g ⟨uses, true, true⟩)
    (op : Bool → FVal → FVal → FVal → FVal × Flags) :
    Completes s f.g (float3With uses f op s) fun _ x => x.putFloat f.d.toNat (finish .f32 f.m (modeOf f.m .rn 0)
      (op (modeDown (modeOf f.m .rn 0)) (srcA f.m (f32 (regA g f.m x f.a))) (srcB f.m (f32 (regB g f.m x f.b)))
        (srcC f.m (f32 (x.reg f.d.toNat))))) :=
  perLane_completes f.g (fun g _ x => x.putFloat f.d.toNat (finish .f32 f.m (modeOf f.m .rn 0)
    (op (modeDown (modeOf f.m .rn 0)) (srcA f.m (f32 (regA g f.m x f.a))) (srcB f.m (f32 (regB g f.m x f.b)))
      (srcC f.m (f32 (x.reg f.d.toNat)))))) h

theorem float1_completes {f : DAForm} {s : State} {g : Group} (h : ClearOf s g ⟨usesDA f, true, true⟩) (fn : UnaryFn) :
    Completes s f.g (float1 f fn s) fun _ x => x.putFloat f.d.toNat
      (finish .f32 f.m (modeOf f.m .rn 0) (unaryVal fn (srcA f.m (f32 (regA g f.m x f.a))))) :=
  perLane_completes f.g (fun g _ x => x.putFloat f.d.toNat
    (finish .f32 f.m (modeOf f.m .rn 0) (unaryVal fn (srcA f.m (f32 (regA g f.m x f.a)))))) h

theorem predOp_completes {f : PForm} {s : State} {g : Group} (h : ClearOf s g ⟨modUse f.m, true, true⟩)
    (op : Bool → Bool → Bool) :
    Completes s f.g (predOp f op s) fun _ x => x.setPred f.d (op (x.pred f.a) (x.pred f.b)) :=
  perLane_completes f.g (fun _ _ x => x.setPred f.d (op (x.pred f.a) (x.pred f.b))) h

/-! ## Changes followed by the advance -/

theorem updGroup_nextPc (s : State) (n : Nat) (f : Group → Group) : (s.updGroup n f).nextPc = s.nextPc := rfl
theorem mapActive_nextPc (s : State) (f : Nat → Lane → Lane) : (s.mapActive f).nextPc = s.nextPc := rfl

/-- A change of the threads after a change of the threads. -/
theorem AllBecome.trans {s t u : State} {f h : Nat → Lane → Lane} (a : AllBecome s t f) (b : AllBecome t u h)
    (n : ∀ g g', s.cur = some g → t.cur = some g' → threadCount t g' = threadCount s g) :
    AllBecome s u fun k x => h k (f k x) := by
  refine ⟨b.1.trans a.1, fun v p o => (b.2.1 v p o).trans (a.2.1 v p o), fun g hg => ?_⟩
  obtain ⟨g', hg', ht⟩ := a.2.2 g hg
  obtain ⟨g2, hg2, ht2⟩ := b.2.2 g' hg'
  refine ⟨g2, hg2, fun k hk => ?_⟩
  rw [ht2 k (by rw [n g g' hg hg']; exact hk), ht k hk]

theorem threadCount_mapThreads (s : State) (g : Group) (ts : List Nat) (f : Nat → Lane → Lane) :
    threadCount s (g.mapThreads s.iss.helper ts f) = threadCount s g := by
  cases h : s.iss.helper
  · simp [threadCount, h]
  · cases hl : g.lig <;> simp [threadCount, Group.mapThreads, h, hl]

theorem cur_mapThreads {s : State} {g : Group} (ts : List Nat) (f : Nat → Lane → Lane) (h : s.cur = some g) :
    (s.updGroup s.iss.gid fun g => g.mapThreads s.iss.helper ts f).cur = some (g.mapThreads s.iss.helper ts f) := by
  show (s.updGroup s.iss.gid _).group? s.iss.gid = _
  rw [group?_updGroup _ _ _ _ fun x => mapThreads_gid x _ _ _, if_pos rfl]
  show (s.cur).map _ = _
  rw [h]; rfl

/-- The active threads change by `f` and then advance. -/
theorem mapActive_advance (s : State) (f : Nat → Lane → Lane) :
    ThreadsBecome s (s.mapActive f).advance fun k x => { f k x with pc := s.nextPc } := by
  refine AllBecome.congr (AllBecome.trans (mapActive_becomes s f) (mapActive_becomes (s.mapActive f) _) ?_) ?_
  · intro g g' hg hg'
    rw [show (s.mapActive f).cur = _ from cur_mapThreads s.iss.active f hg] at hg'
    cases hg'
    exact threadCount_mapThreads s g _ f
  · intro g _ k _
    show (if k ∈ s.iss.active then _ else _) = _
    split
    · rfl
    · rfl

/-- A change of the group's registers that leaves its threads, then the advance. -/
theorem advance_advances (u : State) : Advances u (.next u.advance) := ⟨_, rfl, advance_becomes u⟩

/-- An instruction that changes the executing threads by `f` and advances. -/
theorem executing_completes {s : State} {g : Group} {uses : List Use} {free helperOk : Bool} (gd : Guard)
    (f : Group → Nat → Lane → Lane) (h : ClearOf s g ⟨uses, free, helperOk⟩) :
    Completes s gd (gate s uses free helperOk fun g =>
      .next (s.mapActive fun k x => if guardTrue gd x then f g k x else x).advance) (f g) :=
  ⟨_, gate_clear _ h, mapActive_advance s _⟩

end Sys2Proof.Machine
end

