-- ==== Sys2Proof/Laws/Mem.lean ====
section
/-!
SUPPORT. Every operation that writes memory keeps the canonical form of the state (statement StepKeepsCanonical).
-/

namespace Sys2Proof.Machine

/-- The canonical form depends on the two memories, the engines and the queues alone. -/
theorem State.Canonical.of_parts {s t : State} (h : s.Canonical) (hm : Memory.wf t.mem = true) (hc : Memory.wf t.caseMem = true)
    (he : t.engines = s.engines) (hq : t.queues = s.queues) : t.Canonical := by
  obtain ⟨-, -, ht, hz⟩ := h
  refine ⟨hm, hc, by rw [he]; exact ht, fun q => ?_⟩
  have : t.queue q = s.queue q := by simp only [State.queue, hq]
  rw [this]
  exact hz q

/-- A change that leaves the two memories, the engines and the queues leaves the canonical form. -/
theorem State.Canonical.congr {s t : State} (h : s.Canonical) (hm : t.mem = s.mem) (hc : t.caseMem = s.caseMem)
    (he : t.engines = s.engines) (hq : t.queues = s.queues) : t.Canonical :=
  State.Canonical.of_parts h (hm ▸ h.1) (hc ▸ h.2.1) he hq

theorem updGroup_canonical {s : State} (n : Nat) (f : Group → Group) (h : s.Canonical) : (s.updGroup n f).Canonical :=
  h.congr rfl rfl rfl rfl

theorem updHost_canonical {s : State} (f : HostSide → HostSide) (h : s.Canonical) : (s.updHost f).Canonical :=
  h.congr rfl rfl rfl rfl

theorem l3Write_canonical {s : State} (die : Nat) (by_ : Option Writer) (key : Nat) (h : s.Canonical) :
    (l3Write s die by_ key).Canonical := by
  unfold l3Write
  split
  · dsimp only
    split <;> exact h.congr rfl rfl rfl rfl
  · exact h

theorem dropVersions_canonical {s : State} (lid : Nat) (h : s.Canonical) : (dropVersions s lid).Canonical := by
  unfold dropVersions
  split
  · exact h
  · exact h.congr rfl rfl rfl rfl

theorem putMem_canonical {s : State} (tag : Option (Nat × Nat)) (key : Nat) (bs : List (Nat × Byte)) (h : s.Canonical) :
    (putMem s tag key bs).Canonical := by
  unfold putMem
  split
  · exact State.Canonical.of_parts h (offsetsPut_wf key bs h.1) h.2.1 rfl rfl
  · exact dropVersions_canonical _ (h.congr rfl rfl rfl rfl)

theorem bumpStamp_canonical {s : State} (key : Nat) (h : s.Canonical) : (bumpStamp s key).Canonical := by
  unfold bumpStamp
  split
  · exact h.congr rfl rfl rfl rfl
  · exact h

theorem dropGalleys_canonical {s : State} (key : Nat) (h : s.Canonical) : (dropGalleys s key).Canonical := by
  unfold dropGalleys
  dsimp only
  split
  · exact h.congr rfl rfl rfl rfl
  · exact h

theorem writeHome_canonical {s : State} (tag : Option (Nat × Nat)) (die : Nat) (by_ : Option Writer) (p : Place)
    (bs : List (Nat × Byte)) (h : s.Canonical) : (writeHome s tag die by_ p bs).Canonical := by
  unfold writeHome
  split
  · exact h
  · cases p with
    | case k => exact State.Canonical.of_parts h h.1 (offsetsPut_wf k bs h.2.1) rfl rfl
    | mem k =>
      dsimp only
      split
      · exact h
      · have := dropGalleys_canonical (redirect s k) (bumpStamp_canonical (redirect s k)
          (putMem_canonical tag (redirect s k) bs (l3Write_canonical die by_ (redirect s k) h)))
        split
        · exact this.congr rfl rfl rfl rfl
        · exact this

/-- A fold of changes that each keep the canonical form keeps it. -/
theorem foldl_canonical {α : Type} {f : State → α → State} (hf : ∀ s x, s.Canonical → (f s x).Canonical) :
    ∀ (l : List α) {s : State}, s.Canonical → (l.foldl f s).Canonical
  | [], _, h => h
  | x :: r, _, h => foldl_canonical hf r (hf _ x h)

theorem writeRun_canonical {s : State} (tag : Option (Nat × Nat)) (die : Nat) (by_ : Option Writer) (p : Place)
    (bytes : List Byte) (h : s.Canonical) : (writeRun s tag die by_ p bytes).Canonical := by
  unfold writeRun
  cases p with
  | case k => exact State.Canonical.of_parts h h.1 (bytesPut_wf k bytes h.2.1) rfl rfl
  | mem k => exact foldl_canonical (fun _ x hs => writeHome_canonical tag die by_ (.mem x.1) x.2 hs) _ h

theorem performEntry_canonical {s : State} (e : SqEntry) (h : s.Canonical) : (performEntry s e).Canonical := by
  unfold performEntry
  refine updGroup_canonical _ _ ?_
  split
  · exact h.congr rfl rfl rfl rfl
  · exact writeHome_canonical _ _ _ _ _ h
  · split
    · exact h.congr rfl rfl rfl rfl
    · dsimp only
      split
      · exact writeHome_canonical _ _ _ _ _ h
      · exact h

theorem performWhere_canonical {s : State} (c : SqEntry → Bool) (h : s.Canonical) : (performWhere s c).Canonical := by
  unfold performWhere
  exact (foldl_canonical (fun _ e hs => performEntry_canonical e hs) _ h).congr rfl rfl rfl rfl

theorem showWhere_canonical {s : State} (scope : Nat) (c : SqEntry → Bool) (h : s.Canonical) :
    (showWhere s scope c).Canonical := by
  unfold showWhere
  split
  · exact h
  · split
    · exact h.congr rfl rfl rfl rfl
    · exact performWhere_canonical c h

theorem passEntry_canonical {s : State} (e : SqEntry) (h : s.Canonical) : (passEntry s e).Canonical := by
  have hr : (if e.rel then showWhere s e.scope.toNat fun f => f.shownOn e.gid e.core e.pathX else s).Canonical := by
    by_cases hrel : e.rel = true
    · rw [if_pos hrel]
      exact showWhere_canonical _ _ h
    · rw [if_neg hrel]
      exact h
  unfold passEntry
  generalize (if e.rel then showWhere s e.scope.toNat fun f => f.shownOn e.gid e.core e.pathX else s) = u at hr
  dsimp only
  cases e.kind with
  | red op un n x => exact performEntry_canonical _ (performWhere_canonical _ hr)
  | store bs =>
    dsimp only
    by_cases hd : ((u.detTag e.lid e.bidx).isSome || e.migrating u) = true
    · rw [if_pos hd]
      exact performEntry_canonical _ (performWhere_canonical _ hr)
    · rw [if_neg hd]
      by_cases hs : (e.sync && decide (e.scope.toNat ≥ 2)) = true
      · rw [if_pos hs]
        exact hr.congr rfl rfl rfl rfl
      · rw [if_neg hs]
        exact hr.congr rfl rfl rfl rfl

theorem performHeld_canonical {s : State} (gid : Nat) (h : s.Canonical) : (performHeld s gid).Canonical := by
  unfold performHeld
  split
  · exact performWhere_canonical _ h
  · exact h

theorem passOldest_canonical {s : State} (gid : Nat) (h : s.Canonical) : (passOldest s gid).Canonical := by
  unfold passOldest
  split
  · exact passEntry_canonical _ (performHeld_canonical _ (h.congr rfl rfl rfl rfl))
  · exact performHeld_canonical _ h

theorem passMany_canonical (gid : Nat) : ∀ (n : Nat) {s : State}, s.Canonical → (passMany s gid n).Canonical
  | 0, _, h => performHeld_canonical gid h
  | n + 1, _, h => passMany_canonical gid n (passOldest_canonical gid h)

theorem drainQueue_canonical {s : State} (gid : Nat) (h : s.Canonical) : (drainQueue s gid).Canonical :=
  passMany_canonical gid _ h

theorem flush_canonical {s : State} (gid core scope : Nat) (x : Bool) (h : s.Canonical) :
    (flush s gid core scope x).Canonical := showWhere_canonical _ _ (drainQueue_canonical gid h)

/-! ## The device's own writes -/

theorem sysWriteAt_canonical {s : State} (pa : Nat) (bytes : List Byte) (h : s.Canonical) :
    (sysWriteAt s pa bytes).Canonical := writeRun_canonical none 0 none (.mem pa) bytes h

theorem traceNow_canonical {s : State} (base n : Nat) (slots : List (List Byte)) (h : s.Canonical) :
    (traceNow s base n slots).Canonical := by
  unfold traceNow
  split
  · exact sysWriteAt_canonical _ _ h
  · exact sysWriteAt_canonical _ _ (foldl_canonical (fun _ x hs => sysWriteAt_canonical x.1 x.2 hs) _ h)

theorem bumpNow_canonical {s : State} (die word : Nat) (h : s.Canonical) : (bumpNow s die word).Canonical := by
  have hp := performWhere_canonical (fun e => e.reaches s word 4) h
  unfold bumpNow
  extract_lets u n
  have hv : ({ u with ver := u.ver.filter fun v => !(redirect u word ≤ v.addr && v.addr < redirect u word + 4) } : State).Canonical :=
    State.Canonical.congr hp rfl rfl rfl rfl
  exact writeHome_canonical none die none (.mem word) (numBytes 4 ((n + 1) % 2 ^ 32)) hv

theorem lateNow_canonical {s : State} (x : Late) (h : s.Canonical) : (lateNow s x).Canonical := by
  cases x with
  | write pa bytes => exact sysWriteAt_canonical pa bytes h
  | trace base n slots => rw [lateNow]; exact traceNow_canonical base n slots h
  | bump die w => rw [lateNow]; exact bumpNow_canonical die w h
  | msix v => exact updHost_canonical _ h
  | event b => exact updHost_canonical _ h
  | resyncDone => exact updHost_canonical _ h

theorem askHost_canonical {s : State} (p : Place) (n : Nat) (write : Bool) (h : s.Canonical) : (askHost s p n write).Canonical := by
  unfold askHost
  split <;> exact h.congr rfl rfl rfl rfl

theorem lateRun_canonical : ∀ (l : List Late) {s : State}, s.Canonical → (lateRun s l).Canonical
  | [], _, h => h.congr rfl rfl rfl rfl
  | x :: xs, s, h => by
    unfold lateRun
    split
    · exact (askHost_canonical _ _ _ h).congr rfl rfl rfl rfl
    · exact lateRun_canonical xs (lateNow_canonical x h)

theorem lateDo_canonical {s : State} (x : Late) (h : s.Canonical) : (lateDo s x).Canonical := lateRun_canonical _ h

theorem deviceWrite_canonical {s : State} (pa : Nat) (bytes : List Byte) (h : s.Canonical) :
    (deviceWrite s pa bytes).Canonical := lateDo_canonical _ h

theorem spillPut_canonical {s : State} (ctx n : Nat) (h : s.Canonical) : (spillPut s ctx n).Canonical := by
  have h' : (privateBytes s n).1.Canonical := h.congr rfl rfl rfl rfl
  unfold spillPut
  dsimp only
  split
  · exact h
  · split
    · exact deviceWrite_canonical _ _ h'
    · exact h'

/-- Placing entries in the spill areas keeps the canonical form. -/
theorem spillNew_canonical {old s : State} (h : s.Canonical) : (spillNew old s).Canonical :=
  List.foldlRecOn _ _ h fun _ hb _ _ => spillPut_canonical _ _ hb

end Sys2Proof.Machine
end

