-- ==== Sys2Proof/Laws/PerInstr.lean ====
section
/-!
SUPPORT. What the encoder's words look like, once for each constructor of `Instr`: a length of R25, and no bit at or above it.
-/

namespace Sys2Proof

theorem bit_le (b : Bool) : bit b ≤ 1 := by cases b <;> decide

theorem modBits_lt (m : Mod) : modBits m < 2 ^ 32 := by
  have h1 := bit_le m.sat
  have h2 := bit_le m.nega
  have h3 := bit_le m.absa
  have h4 := bit_le m.negb
  have h5 := bit_le m.absb
  have h6 := bit_le m.negc
  have h7 := bit_le m.absc
  have h8 := bit_le m.qf
  have h9 := bit_le m.wa
  have h10 := bit_le m.wb
  have h11 := m.clmp.isLt
  have h12 := m.scl.isLt
  have h13 := m.rnd.isLt
  unfold modBits
  omega

theorem longBits_lt {major body : Nat} (g : Guard) (hm : major < 64) (hb : body < 2 ^ 32 - 2 ^ 13 + 1) :
    longBits major g body < 2 ^ 32 := by
  have h1 := bit_le g.gs
  have h2 := g.gp.isLt
  unfold longBits
  omega

/-- The words of an encoding: a length of R25, and no bit at or above it. -/
def Code.Fits (c : Code) : Prop := (c.len = 2 ∨ c.len = 4 ∨ c.len = 8 ∨ c.len = 12) ∧ c.bits < 2 ^ (8 * c.len)

theorem long_fits (m : Option Mod) {major body : Nat} (g : Guard) (hm : major < 64) (hb : body < 2 ^ 32 - 2 ^ 13 + 1) :
    (long m major g body).Fits := by
  have h := longBits_lt g hm hb
  cases m with
  | none => exact ⟨by simp [long], by simpa [long] using h⟩
  | some m =>
    have hx := modBits_lt m
    refine ⟨by simp [long], ?_⟩
    simp only [long]
    omega

theorem longK_fits (m : Option Mod) {major body k : Nat} (g : Guard) (hm : major < 64) (hb : body < 2 ^ 32 - 2 ^ 13 + 1)
    (hk : k < 2 ^ 32) : (longK m major g body k).Fits := by
  have h := longBits_lt g hm hb
  cases m with
  | none =>
    refine ⟨by simp [longK], ?_⟩
    simp only [longK]
    omega
  | some m =>
    have hx := modBits_lt m
    refine ⟨by simp [longK], ?_⟩
    simp only [longK]
    omega

theorem short_fits {op : Nat} (f : ShortF) (ho : op < 16) : (short op f).Fits := by
  have h1 := f.d.isLt
  have h2 := f.s.isLt
  refine ⟨by simp [short], ?_⟩
  simp only [short]
  omega

namespace Laws.Words

/-- The words of an instruction that has some fit its length. -/
def Statement (i : Instr) : Prop := ∀ c, encode i = some c → c.Fits

theorem of_some {i : Instr} {d : Code} (h : encode i = some d) (hd : d.Fits) : Statement i := by
  intro c hc
  rw [h] at hc
  exact Option.some.inj hc ▸ hd

theorem of_none {i : Instr} (h : encode i = none) : Statement i := fun c hc => by rw [h] at hc; cases hc

theorem movShort (f : ShortF) : Statement (.movShort f) := of_some rfl (short_fits f (by decide))
theorem iaddShort (f : ShortF) : Statement (.iaddShort f) := of_some rfl (short_fits f (by decide))
theorem isubShort (f : ShortF) : Statement (.isubShort f) := of_some rfl (short_fits f (by decide))
theorem imulShort (f : ShortF) : Statement (.imulShort f) := of_some rfl (short_fits f (by decide))
theorem andShort (f : ShortF) : Statement (.andShort f) := of_some rfl (short_fits f (by decide))
theorem orShort (f : ShortF) : Statement (.orShort f) := of_some rfl (short_fits f (by decide))
theorem xorShort (f : ShortF) : Statement (.xorShort f) := of_some rfl (short_fits f (by decide))
theorem shlShort (f : ShortF) : Statement (.shlShort f) := of_some rfl (short_fits f (by decide))
theorem shrShort (f : ShortF) : Statement (.shrShort f) := of_some rfl (short_fits f (by decide))
theorem sarShort (f : ShortF) : Statement (.sarShort f) := of_some rfl (short_fits f (by decide))
theorem iminShort (f : ShortF) : Statement (.iminShort f) := of_some rfl (short_fits f (by decide))
theorem imaxShort (f : ShortF) : Statement (.imaxShort f) := of_some rfl (short_fits f (by decide))
theorem faddShort (f : ShortF) : Statement (.faddShort f) := of_some rfl (short_fits f (by decide))
theorem fsubShort (f : ShortF) : Statement (.fsubShort f) := of_some rfl (short_fits f (by decide))
theorem fmulShort (f : ShortF) : Statement (.fmulShort f) := of_some rfl (short_fits f (by decide))
theorem fmaxShort (f : ShortF) : Statement (.fmaxShort f) := of_some rfl (short_fits f (by decide))
theorem iadd (f : AForm) : Statement (.iadd f) := by
  have h0 := f.a.isLt
  have h1 := f.b.isLt
  have h2 := f.d.isLt
  exact of_some rfl (long_fits f.m f.g (by decide) (by omega))
theorem iaddI64 (f : AForm) : Statement (.iaddI64 f) := by
  have h0 := f.a.isLt
  have h1 := f.b.isLt
  have h2 := f.d.isLt
  exact of_some rfl (long_fits f.m f.g (by decide) (by omega))
theorem isub (f : AForm) : Statement (.isub f) := by
  have h0 := f.a.isLt
  have h1 := f.b.isLt
  have h2 := f.d.isLt
  exact of_some rfl (long_fits f.m f.g (by decide) (by omega))
theorem isubI64 (f : AForm) : Statement (.isubI64 f) := by
  have h0 := f.a.isLt
  have h1 := f.b.isLt
  have h2 := f.d.isLt
  exact of_some rfl (long_fits f.m f.g (by decide) (by omega))
theorem imul (f : AForm) : Statement (.imul f) := by
  have h0 := f.a.isLt
  have h1 := f.b.isLt
  have h2 := f.d.isLt
  exact of_some rfl (long_fits f.m f.g (by decide) (by omega))
theorem imulI64 (f : AForm) : Statement (.imulI64 f) := by
  have h0 := f.a.isLt
  have h1 := f.b.isLt
  have h2 := f.d.isLt
  exact of_some rfl (long_fits f.m f.g (by decide) (by omega))
theorem imulh (f : AForm) : Statement (.imulh f) := by
  have h0 := f.a.isLt
  have h1 := f.b.isLt
  have h2 := f.d.isLt
  exact of_some rfl (long_fits f.m f.g (by decide) (by omega))
theorem imulhZ32 (f : AForm) : Statement (.imulhZ32 f) := by
  have h0 := f.a.isLt
  have h1 := f.b.isLt
  have h2 := f.d.isLt
  exact of_some rfl (long_fits f.m f.g (by decide) (by omega))
theorem imad (f : AForm) : Statement (.imad f) := by
  have h0 := f.a.isLt
  have h1 := f.b.isLt
  have h2 := f.d.isLt
  exact of_some rfl (long_fits f.m f.g (by decide) (by omega))
theorem imadZ64 (f : AForm) : Statement (.imadZ64 f) := by
  have h0 := f.a.isLt
  have h1 := f.b.isLt
  have h2 := f.d.isLt
  exact of_some rfl (long_fits f.m f.g (by decide) (by omega))
theorem imin (f : AForm) : Statement (.imin f) := by
  have h0 := f.a.isLt
  have h1 := f.b.isLt
  have h2 := f.d.isLt
  exact of_some rfl (long_fits f.m f.g (by decide) (by omega))
theorem iminZ32 (f : AForm) : Statement (.iminZ32 f) := by
  have h0 := f.a.isLt
  have h1 := f.b.isLt
  have h2 := f.d.isLt
  exact of_some rfl (long_fits f.m f.g (by decide) (by omega))
theorem imax (f : AForm) : Statement (.imax f) := by
  have h0 := f.a.isLt
  have h1 := f.b.isLt
  have h2 := f.d.isLt
  exact of_some rfl (long_fits f.m f.g (by decide) (by omega))
theorem imaxZ32 (f : AForm) : Statement (.imaxZ32 f) := by
  have h0 := f.a.isLt
  have h1 := f.b.isLt
  have h2 := f.d.isLt
  exact of_some rfl (long_fits f.m f.g (by decide) (by omega))
theorem icmp (f : CmpForm) : Statement (.icmp f) := by
  have h0 := f.a.isLt
  have h1 := f.b.isLt
  have h2 := f.c.isLt
  have h3 := f.p.isLt
  exact of_some rfl (long_fits f.m f.g (by decide) (by omega))
theorem icmpZ32 (f : CmpForm) : Statement (.icmpZ32 f) := by
  have h0 := f.a.isLt
  have h1 := f.b.isLt
  have h2 := f.c.isLt
  have h3 := f.p.isLt
  exact of_some rfl (long_fits f.m f.g (by decide) (by omega))
theorem sel (f : AForm) : Statement (.sel f) := by
  have h0 := f.a.isLt
  have h1 := f.b.isLt
  have h2 := f.d.isLt
  exact of_some rfl (long_fits f.m f.g (by decide) (by omega))
theorem selB64 (f : AForm) : Statement (.selB64 f) := by
  have h0 := f.a.isLt
  have h1 := f.b.isLt
  have h2 := f.d.isLt
  exact of_some rfl (long_fits f.m f.g (by decide) (by omega))
theorem lea (f : AForm) : Statement (.lea f) := by
  have h0 := f.a.isLt
  have h1 := f.b.isLt
  have h2 := f.d.isLt
  exact of_some rfl (long_fits f.m f.g (by decide) (by omega))
theorem leaZ32 (f : AForm) : Statement (.leaZ32 f) := by
  have h0 := f.a.isLt
  have h1 := f.b.isLt
  have h2 := f.d.isLt
  exact of_some rfl (long_fits f.m f.g (by decide) (by omega))
theorem and (f : AForm) : Statement (.and f) := by
  have h0 := f.a.isLt
  have h1 := f.b.isLt
  have h2 := f.d.isLt
  exact of_some rfl (long_fits f.m f.g (by decide) (by omega))
theorem andn (f : AForm) : Statement (.andn f) := by
  have h0 := f.a.isLt
  have h1 := f.b.isLt
  have h2 := f.d.isLt
  exact of_some rfl (long_fits f.m f.g (by decide) (by omega))
theorem or (f : AForm) : Statement (.or f) := by
  have h0 := f.a.isLt
  have h1 := f.b.isLt
  have h2 := f.d.isLt
  exact of_some rfl (long_fits f.m f.g (by decide) (by omega))
theorem xor (f : AForm) : Statement (.xor f) := by
  have h0 := f.a.isLt
  have h1 := f.b.isLt
  have h2 := f.d.isLt
  exact of_some rfl (long_fits f.m f.g (by decide) (by omega))
theorem shl (f : AForm) : Statement (.shl f) := by
  have h0 := f.a.isLt
  have h1 := f.b.isLt
  have h2 := f.d.isLt
  exact of_some rfl (long_fits f.m f.g (by decide) (by omega))
theorem shr (f : AForm) : Statement (.shr f) := by
  have h0 := f.a.isLt
  have h1 := f.b.isLt
  have h2 := f.d.isLt
  exact of_some rfl (long_fits f.m f.g (by decide) (by omega))
theorem sar (f : AForm) : Statement (.sar f) := by
  have h0 := f.a.isLt
  have h1 := f.b.isLt
  have h2 := f.d.isLt
  exact of_some rfl (long_fits f.m f.g (by decide) (by omega))
theorem rot (f : AForm) : Statement (.rot f) := by
  have h0 := f.a.isLt
  have h1 := f.b.isLt
  have h2 := f.d.isLt
  exact of_some rfl (long_fits f.m f.g (by decide) (by omega))
theorem bfx (f : AForm) : Statement (.bfx f) := by
  have h0 := f.a.isLt
  have h1 := f.b.isLt
  have h2 := f.d.isLt
  exact of_some rfl (long_fits f.m f.g (by decide) (by omega))
theorem bfxI32 (f : AForm) : Statement (.bfxI32 f) := by
  have h0 := f.a.isLt
  have h1 := f.b.isLt
  have h2 := f.d.isLt
  exact of_some rfl (long_fits f.m f.g (by decide) (by omega))
theorem bfi (f : AForm) : Statement (.bfi f) := by
  have h0 := f.a.isLt
  have h1 := f.b.isLt
  have h2 := f.d.isLt
  exact of_some rfl (long_fits f.m f.g (by decide) (by omega))
theorem fadd (f : AForm) : Statement (.fadd f) := by
  have h0 := f.a.isLt
  have h1 := f.b.isLt
  have h2 := f.d.isLt
  exact of_some rfl (long_fits f.m f.g (by decide) (by omega))
theorem fsub (f : AForm) : Statement (.fsub f) := by
  have h0 := f.a.isLt
  have h1 := f.b.isLt
  have h2 := f.d.isLt
  exact of_some rfl (long_fits f.m f.g (by decide) (by omega))
theorem fmul (f : AForm) : Statement (.fmul f) := by
  have h0 := f.a.isLt
  have h1 := f.b.isLt
  have h2 := f.d.isLt
  exact of_some rfl (long_fits f.m f.g (by decide) (by omega))
theorem ffma (f : AForm) : Statement (.ffma f) := by
  have h0 := f.a.isLt
  have h1 := f.b.isLt
  have h2 := f.d.isLt
  exact of_some rfl (long_fits f.m f.g (by decide) (by omega))
theorem fmin (f : AForm) : Statement (.fmin f) := by
  have h0 := f.a.isLt
  have h1 := f.b.isLt
  have h2 := f.d.isLt
  exact of_some rfl (long_fits f.m f.g (by decide) (by omega))
theorem fmax (f : AForm) : Statement (.fmax f) := by
  have h0 := f.a.isLt
  have h1 := f.b.isLt
  have h2 := f.d.isLt
  exact of_some rfl (long_fits f.m f.g (by decide) (by omega))
theorem fcmp (f : CmpForm) : Statement (.fcmp f) := by
  have h0 := f.a.isLt
  have h1 := f.b.isLt
  have h2 := f.c.isLt
  have h3 := f.p.isLt
  exact of_some rfl (long_fits f.m f.g (by decide) (by omega))
theorem hadd2 (f : AForm) : Statement (.hadd2 f) := by
  have h0 := f.a.isLt
  have h1 := f.b.isLt
  have h2 := f.d.isLt
  exact of_some rfl (long_fits f.m f.g (by decide) (by omega))
theorem hmul2 (f : AForm) : Statement (.hmul2 f) := by
  have h0 := f.a.isLt
  have h1 := f.b.isLt
  have h2 := f.d.isLt
  exact of_some rfl (long_fits f.m f.g (by decide) (by omega))
theorem hfma2 (f : AForm) : Statement (.hfma2 f) := by
  have h0 := f.a.isLt
  have h1 := f.b.isLt
  have h2 := f.d.isLt
  exact of_some rfl (long_fits f.m f.g (by decide) (by omega))
theorem movi (f : MoviForm) : Statement (.movi f) := by
  have h0 := f.d.isLt
  have h1 := f.imm.isLt
  exact of_some rfl (long_fits f.m f.g (by decide) (by omega))
theorem iaddImm (f : ImmForm) : Statement (.iaddImm f) := by
  have h0 := f.a.isLt
  have h1 := f.d.isLt
  have h2 := f.imm.isLt
  exact of_some rfl (long_fits f.m f.g (by decide) (by omega))
theorem uadd (f : UForm) : Statement (.uadd f) := by
  have h0 := f.a.isLt
  have h1 := f.b.isLt
  have h2 := f.d.isLt
  exact of_some rfl (long_fits f.m f.g (by decide) (by omega))
theorem usub (f : UForm) : Statement (.usub f) := by
  have h0 := f.a.isLt
  have h1 := f.b.isLt
  have h2 := f.d.isLt
  exact of_some rfl (long_fits f.m f.g (by decide) (by omega))
theorem umul (f : UForm) : Statement (.umul f) := by
  have h0 := f.a.isLt
  have h1 := f.b.isLt
  have h2 := f.d.isLt
  exact of_some rfl (long_fits f.m f.g (by decide) (by omega))
theorem uand (f : UForm) : Statement (.uand f) := by
  have h0 := f.a.isLt
  have h1 := f.b.isLt
  have h2 := f.d.isLt
  exact of_some rfl (long_fits f.m f.g (by decide) (by omega))
theorem uor (f : UForm) : Statement (.uor f) := by
  have h0 := f.a.isLt
  have h1 := f.b.isLt
  have h2 := f.d.isLt
  exact of_some rfl (long_fits f.m f.g (by decide) (by omega))
theorem ushl (f : UForm) : Statement (.ushl f) := by
  have h0 := f.a.isLt
  have h1 := f.b.isLt
  have h2 := f.d.isLt
  exact of_some rfl (long_fits f.m f.g (by decide) (by omega))
theorem umov (f : DAForm) : Statement (.umov f) := by
  have h0 := f.a.isLt
  have h1 := f.d.isLt
  exact of_some rfl (long_fits f.m f.g (by decide) (by omega))
theorem ucmp (f : UCmpForm) : Statement (.ucmp f) := by
  have h0 := f.a.isLt
  have h1 := f.b.isLt
  have h2 := f.p.isLt
  have h3 := bit_le f.lt
  exact of_some rfl (long_fits f.m f.g (by decide) (by omega))
theorem cvt (f : CvtForm) : Statement (.cvt f) := by
  have h0 := f.a.isLt
  have h1 := f.d.isLt
  have h2 := f.dst.isLt
  have h3 := f.pos.isLt
  have h4 := f.src.isLt
  exact of_some rfl (longK_fits f.m f.g (by decide) (by omega) (by omega))
theorem cvtpk (f : CvtForm) : Statement (.cvtpk f) := by
  have h0 := f.a.isLt
  have h1 := f.d.isLt
  have h2 := f.dst.isLt
  have h3 := f.pos.isLt
  have h4 := f.src.isLt
  exact of_some rfl (longK_fits f.m f.g (by decide) (by omega) (by omega))
theorem cvtunpk (f : CvtForm) : Statement (.cvtunpk f) := by
  have h0 := f.a.isLt
  have h1 := f.d.isLt
  have h2 := f.dst.isLt
  have h3 := f.pos.isLt
  have h4 := f.src.isLt
  exact of_some rfl (longK_fits f.m f.g (by decide) (by omega) (by omega))
theorem mov (f : DAForm) : Statement (.mov f) := by
  have h0 := f.a.isLt
  have h1 := f.d.isLt
  exact of_some rfl (long_fits f.m f.g (by decide) (by omega))
theorem movB64 (f : DAForm) : Statement (.movB64 f) := by
  have h0 := f.a.isLt
  have h1 := f.d.isLt
  exact of_some rfl (long_fits f.m f.g (by decide) (by omega))
theorem not (f : DAForm) : Statement (.not f) := by
  have h0 := f.a.isLt
  have h1 := f.d.isLt
  exact of_some rfl (long_fits f.m f.g (by decide) (by omega))
theorem ineg (f : DAForm) : Statement (.ineg f) := by
  have h0 := f.a.isLt
  have h1 := f.d.isLt
  exact of_some rfl (long_fits f.m f.g (by decide) (by omega))
theorem iabs (f : DAForm) : Statement (.iabs f) := by
  have h0 := f.a.isLt
  have h1 := f.d.isLt
  exact of_some rfl (long_fits f.m f.g (by decide) (by omega))
theorem popc (f : DAForm) : Statement (.popc f) := by
  have h0 := f.a.isLt
  have h1 := f.d.isLt
  exact of_some rfl (long_fits f.m f.g (by decide) (by omega))
theorem clz (f : DAForm) : Statement (.clz f) := by
  have h0 := f.a.isLt
  have h1 := f.d.isLt
  exact of_some rfl (long_fits f.m f.g (by decide) (by omega))
theorem ctz (f : DAForm) : Statement (.ctz f) := by
  have h0 := f.a.isLt
  have h1 := f.d.isLt
  exact of_some rfl (long_fits f.m f.g (by decide) (by omega))
theorem brev (f : DAForm) : Statement (.brev f) := by
  have h0 := f.a.isLt
  have h1 := f.d.isLt
  exact of_some rfl (long_fits f.m f.g (by decide) (by omega))
theorem frcp (f : DAForm) : Statement (.frcp f) := by
  have h0 := f.a.isLt
  have h1 := f.d.isLt
  exact of_some rfl (long_fits f.m f.g (by decide) (by omega))
theorem frsq (f : DAForm) : Statement (.frsq f) := by
  have h0 := f.a.isLt
  have h1 := f.d.isLt
  exact of_some rfl (long_fits f.m f.g (by decide) (by omega))
theorem fsqrt (f : DAForm) : Statement (.fsqrt f) := by
  have h0 := f.a.isLt
  have h1 := f.d.isLt
  exact of_some rfl (long_fits f.m f.g (by decide) (by omega))
theorem fexp2 (f : DAForm) : Statement (.fexp2 f) := by
  have h0 := f.a.isLt
  have h1 := f.d.isLt
  exact of_some rfl (long_fits f.m f.g (by decide) (by omega))
theorem flog2 (f : DAForm) : Statement (.flog2 f) := by
  have h0 := f.a.isLt
  have h1 := f.d.isLt
  exact of_some rfl (long_fits f.m f.g (by decide) (by omega))
theorem shflXor (f : ShflForm) : Statement (.shflXor f) := by
  have h0 := f.a.isLt
  have h1 := f.d.isLt
  have h2 := f.k.isLt
  exact of_some rfl (long_fits f.m f.g (by decide) (by omega))
theorem shfl (f : ShflForm) : Statement (.shfl f) := by
  have h0 := f.a.isLt
  have h1 := f.d.isLt
  have h2 := f.k.isLt
  exact of_some rfl (long_fits f.m f.g (by decide) (by omega))
theorem shflIdx (f : DAForm) : Statement (.shflIdx f) := by
  have h0 := f.a.isLt
  have h1 := f.d.isLt
  exact of_some rfl (long_fits f.m f.g (by decide) (by omega))
theorem qswz (f : QuadForm) : Statement (.qswz f) := by
  have h0 := f.a.isLt
  have h1 := f.d.isLt
  have h2 := f.k.isLt
  exact of_some rfl (long_fits f.m f.g (by decide) (by omega))
theorem qbcst (f : QuadForm) : Statement (.qbcst f) := by
  have h0 := f.a.isLt
  have h1 := f.d.isLt
  have h2 := f.k.isLt
  exact of_some rfl (long_fits f.m f.g (by decide) (by omega))
theorem voteAll (f : VoteForm) : Statement (.voteAll f) := by
  have h0 := f.a.isLt
  have h1 := f.d.isLt
  exact of_some rfl (long_fits f.m f.g (by decide) (by omega))
theorem voteAny (f : VoteForm) : Statement (.voteAny f) := by
  have h0 := f.a.isLt
  have h1 := f.d.isLt
  exact of_some rfl (long_fits f.m f.g (by decide) (by omega))
theorem voteUni (f : VoteForm) : Statement (.voteUni f) := by
  have h0 := f.a.isLt
  have h1 := f.d.isLt
  exact of_some rfl (long_fits f.m f.g (by decide) (by omega))
theorem ballot (f : BallotForm) : Statement (.ballot f) := by
  have h0 := f.a.isLt
  have h1 := f.d.isLt
  exact of_some rfl (long_fits f.m f.g (by decide) (by omega))
theorem lreduceAddI32 (f : DAForm) : Statement (.lreduceAddI32 f) := by
  have h0 := f.a.isLt
  have h1 := f.d.isLt
  exact of_some rfl (long_fits f.m f.g (by decide) (by omega))
theorem lreduceAddF32 (f : DAForm) : Statement (.lreduceAddF32 f) := by
  have h0 := f.a.isLt
  have h1 := f.d.isLt
  exact of_some rfl (long_fits f.m f.g (by decide) (by omega))
theorem lreduceMinI32 (f : DAForm) : Statement (.lreduceMinI32 f) := by
  have h0 := f.a.isLt
  have h1 := f.d.isLt
  exact of_some rfl (long_fits f.m f.g (by decide) (by omega))
theorem lreduceMaxI32 (f : DAForm) : Statement (.lreduceMaxI32 f) := by
  have h0 := f.a.isLt
  have h1 := f.d.isLt
  exact of_some rfl (long_fits f.m f.g (by decide) (by omega))
theorem lreduceMinF32 (f : DAForm) : Statement (.lreduceMinF32 f) := by
  have h0 := f.a.isLt
  have h1 := f.d.isLt
  exact of_some rfl (long_fits f.m f.g (by decide) (by omega))
theorem lreduceMaxF32 (f : DAForm) : Statement (.lreduceMaxF32 f) := by
  have h0 := f.a.isLt
  have h1 := f.d.isLt
  exact of_some rfl (long_fits f.m f.g (by decide) (by omega))
theorem lreduceOrB32 (f : DAForm) : Statement (.lreduceOrB32 f) := by
  have h0 := f.a.isLt
  have h1 := f.d.isLt
  exact of_some rfl (long_fits f.m f.g (by decide) (by omega))
theorem lreduceAndB32 (f : DAForm) : Statement (.lreduceAndB32 f) := by
  have h0 := f.a.isLt
  have h1 := f.d.isLt
  exact of_some rfl (long_fits f.m f.g (by decide) (by omega))
theorem prefixAddI32 (f : DAForm) : Statement (.prefixAddI32 f) := by
  have h0 := f.a.isLt
  have h1 := f.d.isLt
  exact of_some rfl (long_fits f.m f.g (by decide) (by omega))
theorem prefixAddI32Ex (f : DAForm) : Statement (.prefixAddI32Ex f) := by
  have h0 := f.a.isLt
  have h1 := f.d.isLt
  exact of_some rfl (long_fits f.m f.g (by decide) (by omega))
theorem prefixAddF32 (f : DAForm) : Statement (.prefixAddF32 f) := by
  have h0 := f.a.isLt
  have h1 := f.d.isLt
  exact of_some rfl (long_fits f.m f.g (by decide) (by omega))
theorem prefixAddF32Ex (f : DAForm) : Statement (.prefixAddF32Ex f) := by
  have h0 := f.a.isLt
  have h1 := f.d.isLt
  exact of_some rfl (long_fits f.m f.g (by decide) (by omega))
theorem umovv (f : DAForm) : Statement (.umovv f) := by
  have h0 := f.a.isLt
  have h1 := f.d.isLt
  exact of_some rfl (long_fits f.m f.g (by decide) (by omega))
theorem ubcst (f : DAForm) : Statement (.ubcst f) := by
  have h0 := f.a.isLt
  have h1 := f.d.isLt
  exact of_some rfl (long_fits f.m f.g (by decide) (by omega))
theorem bmand (f : DAForm) : Statement (.bmand f) := by
  have h0 := f.a.isLt
  have h1 := f.d.isLt
  exact of_some rfl (long_fits f.m f.g (by decide) (by omega))
theorem popcp (f : DAForm) : Statement (.popcp f) := by
  have h0 := f.a.isLt
  have h1 := f.d.isLt
  exact of_some rfl (long_fits f.m f.g (by decide) (by omega))
theorem isect (f : IsectForm) : Statement (.isect f) := by
  have h0 := f.a.isLt
  have h1 := f.d.isLt
  have h2 := f.p.isLt
  exact of_some rfl (long_fits f.m f.g (by decide) (by omega))
theorem pand (f : PForm) : Statement (.pand f) := by
  have h0 := f.a.isLt
  have h1 := f.b.isLt
  have h2 := f.d.isLt
  exact of_some rfl (long_fits f.m f.g (by decide) (by omega))
theorem por (f : PForm) : Statement (.por f) := by
  have h0 := f.a.isLt
  have h1 := f.b.isLt
  have h2 := f.d.isLt
  exact of_some rfl (long_fits f.m f.g (by decide) (by omega))
theorem pxor (f : PForm) : Statement (.pxor f) := by
  have h0 := f.a.isLt
  have h1 := f.b.isLt
  have h2 := f.d.isLt
  exact of_some rfl (long_fits f.m f.g (by decide) (by omega))
theorem ld (f : MemForm) : Statement (.ld f) := by
  have h0 := f.b.isLt
  have h1 := f.d.isLt
  have h2 := f.order.isLt
  have h3 := f.scope.isLt
  have h4 := f.size.isLt
  exact of_some rfl (long_fits f.m f.g (by decide) (by omega))
theorem ldDisp (f : MemDForm) : Statement (.ldDisp f) := by
  have h0 := f.b.isLt
  have h1 := f.d.isLt
  have h2 := f.disp.isLt
  have h3 := f.order.isLt
  have h4 := f.scope.isLt
  have h5 := f.size.isLt
  exact of_some rfl (longK_fits f.m f.g (by decide) (by omega) (by omega))
theorem ldSext (f : MemDForm) : Statement (.ldSext f) := by
  have h0 := f.b.isLt
  have h1 := f.d.isLt
  have h2 := f.disp.isLt
  have h3 := f.order.isLt
  have h4 := f.scope.isLt
  have h5 := f.size.isLt
  exact of_some rfl (longK_fits f.m f.g (by decide) (by omega) (by omega))
theorem st (f : MemForm) : Statement (.st f) := by
  have h0 := f.b.isLt
  have h1 := f.d.isLt
  have h2 := f.order.isLt
  have h3 := f.scope.isLt
  have h4 := f.size.isLt
  exact of_some rfl (long_fits f.m f.g (by decide) (by omega))
theorem stDisp (f : MemDForm) : Statement (.stDisp f) := by
  have h0 := f.b.isLt
  have h1 := f.d.isLt
  have h2 := f.disp.isLt
  have h3 := f.order.isLt
  have h4 := f.scope.isLt
  have h5 := f.size.isLt
  exact of_some rfl (longK_fits f.m f.g (by decide) (by omega) (by omega))
theorem atom (f : AtomForm) : Statement (.atom f) := by
  have h0 := f.b.isLt
  have h1 := f.d.isLt
  have h2 := f.op.isLt
  have h3 := f.order.isLt
  have h4 := f.scope.isLt
  have h5 := f.size.isLt
  have h6 := f.val.isLt
  have h7 := bit_le f.u
  exact of_some rfl (longK_fits f.m f.g (by decide) (by omega) (by omega))
theorem atomCas (f : CasForm) : Statement (.atomCas f) := by
  have h0 := f.b.isLt
  have h1 := f.cmp.isLt
  have h2 := f.d.isLt
  have h3 := f.order.isLt
  have h4 := f.scope.isLt
  have h5 := f.size.isLt
  have h6 := f.val.isLt
  exact of_some rfl (longK_fits f.m f.g (by decide) (by omega) (by omega))
theorem red (f : RedForm) : Statement (.red f) := by
  have h0 := f.b.isLt
  have h1 := f.d.isLt
  have h2 := f.op.isLt
  have h3 := f.order.isLt
  have h4 := f.scope.isLt
  have h5 := f.size.isLt
  have h6 := bit_le f.u
  exact of_some rfl (longK_fits f.m f.g (by decide) (by omega) (by omega))
theorem fence (f : FenceForm) : Statement (.fence f) := by
  have h0 := f.scope.isLt
  exact of_some rfl (long_fits f.m f.g (by decide) (by omega))
theorem fenceSc (f : FenceForm) : Statement (.fenceSc f) := by
  have h0 := f.scope.isLt
  exact of_some rfl (long_fits f.m f.g (by decide) (by omega))
theorem fencex (f : FencexForm) : Statement (.fencex f) := by
  have h0 := f.p.isLt
  have h1 := f.q.isLt
  have h2 := f.scope.isLt
  exact of_some rfl (long_fits f.m f.g (by decide) (by omega))
theorem pref (f : PrefForm) : Statement (.pref f) := by
  have h0 := f.b.isLt
  have h1 := f.level.isLt
  exact of_some rfl (long_fits f.m f.g (by decide) (by omega))
theorem cwb (f : CwbForm) : Statement (.cwb f) := by
  have h0 := f.b.isLt
  have h1 := f.scope.isLt
  exact of_some rfl (long_fits f.m f.g (by decide) (by omega))
theorem cinv (f : CinvForm) : Statement (.cinv f) := by
  have h0 := f.b.isLt
  exact of_some rfl (long_fits f.m f.g (by decide) (by omega))
theorem casemode (f : CaseForm) : Statement (.casemode f) := by
  have h0 := f.b.isLt
  have h1 := f.d.isLt
  exact of_some rfl (long_fits f.m f.g (by decide) (by omega))
theorem fpush (f : CaseForm) : Statement (.fpush f) := by
  have h0 := f.b.isLt
  have h1 := f.d.isLt
  exact of_some rfl (long_fits f.m f.g (by decide) (by omega))
theorem fpop (f : CaseForm) : Statement (.fpop f) := by
  have h0 := f.b.isLt
  have h1 := f.d.isLt
  exact of_some rfl (long_fits f.m f.g (by decide) (by omega))
theorem bra (f : BForm) : Statement (.bra f) := by
  have h0 := f.off.isLt
  exact of_some rfl (long_fits none f.g (by decide) (by omega))
theorem bru (f : BForm) : Statement (.bru f) := by
  have h0 := f.off.isLt
  exact of_some rfl (long_fits none f.g (by decide) (by omega))
theorem brd (f : BrForm) : Statement (.brd f) := by
  have h0 := f.off.isLt
  have h1 := f.r.isLt
  exact of_some rfl (long_fits none f.g (by decide) (by omega))
theorem brx (f : GAForm) : Statement (.brx f) := by
  have h0 := f.a.isLt
  exact of_some rfl (long_fits none f.g (by decide) (by omega))
theorem callx (f : GDAForm) : Statement (.callx f) := by
  have h0 := f.a.isLt
  have h1 := f.d.isLt
  exact of_some rfl (long_fits none f.g (by decide) (by omega))
theorem ret (f : GAForm) : Statement (.ret f) := by
  have h0 := f.a.isLt
  exact of_some rfl (long_fits none f.g (by decide) (by omega))
theorem call (f : BrForm) : Statement (.call f) := by
  have h0 := f.off.isLt
  have h1 := f.r.isLt
  exact of_some rfl (long_fits none f.g (by decide) (by omega))
theorem split (f : BForm) : Statement (.split f) := by
  have h0 := f.off.isLt
  exact of_some rfl (long_fits none f.g (by decide) (by omega))
theorem nop (f : GForm) : Statement (.nop f) := by
  exact of_some rfl (long_fits none f.g (by decide) (by omega))
theorem join (f : GForm) : Statement (.join f) := by
  exact of_some rfl (long_fits none f.g (by decide) (by omega))
theorem wait (f : GForm) : Statement (.wait f) := by
  exact of_some rfl (long_fits none f.g (by decide) (by omega))
theorem exit (f : GForm) : Statement (.exit f) := by
  exact of_some rfl (long_fits none f.g (by decide) (by omega))
theorem yield (f : GForm) : Statement (.yield f) := by
  exact of_some rfl (long_fits none f.g (by decide) (by omega))
theorem region (f : GForm) : Statement (.region f) := by
  exact of_some rfl (long_fits none f.g (by decide) (by omega))
theorem bkpt (f : CodeForm) : Statement (.bkpt f) := by
  have h0 := f.code.isLt
  exact of_some rfl (long_fits none f.g (by decide) (by omega))
theorem trap (f : CodeForm) : Statement (.trap f) := by
  have h0 := f.code.isLt
  exact of_some rfl (long_fits none f.g (by decide) (by omega))
theorem eret (f : GForm) : Statement (.eret f) := by
  exact of_some rfl (long_fits none f.g (by decide) (by omega))
theorem mload (f : MloadForm) : Statement (.mload f) := by
  have h0 := f.bs.isLt
  have h1 := f.e1.isLt
  have h2 := f.fmt.isLt
  have h3 := f.vb.isLt
  have h4 := bit_le f.sc
  exact of_some rfl (longK_fits none f.g (by decide) (by omega) (by omega))
theorem mloads (f : MloadsForm) : Statement (.mloads f) := by
  have h0 := f.bs.isLt
  have h1 := f.e1.isLt
  have h2 := f.e2.isLt
  have h3 := f.fmt.isLt
  have h4 := f.vb.isLt
  have h5 := bit_le f.sc
  exact of_some rfl (longK_fits none f.g (by decide) (by omega) (by omega))
theorem mstream (f : MstreamForm) : Statement (.mstream f) := by
  have h0 := f.bs.isLt
  have h1 := f.e1.isLt
  have h2 := f.e2.isLt
  have h3 := f.fmt.isLt
  have h4 := f.tile.isLt
  have h5 := f.vb.isLt
  have h6 := bit_le f.sat
  have h7 := bit_le f.sc
  have h8 := bit_le f.swap
  have h9 := bit_le f.win
  exact of_some rfl (longK_fits none f.g (by decide) (by omega) (by omega))
theorem mstreams (f : MstreamsForm) : Statement (.mstreams f) := by
  have h0 := f.bs.isLt
  have h1 := f.e1.isLt
  have h2 := f.e2.isLt
  have h3 := f.e3.isLt
  have h4 := f.fmt.isLt
  have h5 := f.tile.isLt
  have h6 := f.vb.isLt
  have h7 := bit_le f.sat
  have h8 := bit_le f.sc
  have h9 := bit_le f.swap
  have h10 := bit_le f.win
  exact of_some rfl (longK_fits none f.g (by decide) (by omega) (by omega))
theorem mdrain (f : MdrainForm) : Statement (.mdrain f) := by
  have h0 := f.dfmt.isLt
  have h1 := f.e1.isLt
  have h2 := f.e2.isLt
  have h3 := f.e3.isLt
  have h4 := f.rfmt.isLt
  have h5 := f.rnd.isLt
  have h6 := f.tile.isLt
  have h7 := bit_le f.it
  have h8 := bit_le f.res
  have h9 := bit_le f.sat
  have h10 := bit_le f.zr
  exact of_some rfl (longK_fits none f.g (by decide) (by omega) (by omega))
theorem mctxAcq (f : GForm) : Statement (.mctxAcq f) := by
  exact of_some rfl (long_fits none f.g (by decide) (by omega))
theorem mctxRel (f : GForm) : Statement (.mctxRel f) := by
  exact of_some rfl (long_fits none f.g (by decide) (by omega))
theorem mswap (f : GForm) : Statement (.mswap f) := by
  exact of_some rfl (long_fits none f.g (by decide) (by omega))
theorem mzero (f : TileForm) : Statement (.mzero f) := by
  have h0 := f.tile.isLt
  exact of_some rfl (long_fits none f.g (by decide) (by omega))
theorem mmova (f : GDAForm) : Statement (.mmova f) := by
  have h0 := f.a.isLt
  have h1 := f.d.isLt
  exact of_some rfl (long_fits none f.g (by decide) (by omega))
theorem mmovv (f : GDAForm) : Statement (.mmovv f) := by
  have h0 := f.a.isLt
  have h1 := f.d.isLt
  exact of_some rfl (long_fits none f.g (by decide) (by omega))
theorem mwait (f : GForm) : Statement (.mwait f) := by
  exact of_some rfl (long_fits none f.g (by decide) (by omega))
theorem mstat (f : GDForm) : Statement (.mstat f) := by
  have h0 := f.d.isLt
  exact of_some rfl (long_fits none f.g (by decide) (by omega))
theorem mstepGet (f : GDForm) : Statement (.mstepGet f) := by
  have h0 := f.d.isLt
  exact of_some rfl (long_fits none f.g (by decide) (by omega))
theorem mstepSet (f : GAForm) : Statement (.mstepSet f) := by
  have h0 := f.a.isLt
  exact of_some rfl (long_fits none f.g (by decide) (by omega))
theorem impstat (f : GDForm) : Statement (.impstat f) := by
  have h0 := f.d.isLt
  exact of_some rfl (long_fits none f.g (by decide) (by omega))
theorem fetch (f : FetchForm) : Statement (.fetch f) := by
  have h0 := f.a.isLt
  have h1 := f.d.isLt
  have h2 := f.h.isLt
  exact of_some rfl (long_fits none f.g (by decide) (by omega))
theorem fetchc (f : FetchForm) : Statement (.fetchc f) := by
  have h0 := f.a.isLt
  have h1 := f.d.isLt
  have h2 := f.h.isLt
  exact of_some rfl (long_fits none f.g (by decide) (by omega))
theorem hbind (f : HbindForm) : Statement (.hbind f) := by
  have h0 := f.e1.isLt
  have h1 := f.e2.isLt
  have h2 := f.e3.isLt
  exact of_some rfl (long_fits none f.g (by decide) (by omega))
theorem impose (f : GAForm) : Statement (.impose f) := by
  have h0 := f.a.isLt
  exact of_some rfl (long_fits none f.g (by decide) (by omega))
theorem bara (f : BarForm) : Statement (.bara f) := by
  have h0 := f.level.isLt
  have h1 := f.num.isLt
  exact of_some rfl (long_fits none f.g (by decide) (by omega))
theorem barw (f : BarwForm) : Statement (.barw f) := by
  have h0 := f.level.isLt
  have h1 := f.num.isLt
  have h2 := bit_le f.mx
  exact of_some rfl (long_fits none f.g (by decide) (by omega))
theorem bars (f : BarsForm) : Statement (.bars f) := by
  have h0 := f.level.isLt
  have h1 := f.num.isLt
  have h2 := f.p.isLt
  exact of_some rfl (long_fits none f.g (by decide) (by omega))
theorem barc (f : BarcForm) : Statement (.barc f) := by
  have h0 := f.level.isLt
  have h1 := f.num.isLt
  have h2 := f.s.isLt
  exact of_some rfl (long_fits none f.g (by decide) (by omega))
theorem tbeginVal (f : TbeginForm) : Statement (.tbeginVal f) := by
  have h0 := f.off.isLt
  exact of_some rfl (long_fits none f.g (by decide) (by omega))
theorem tbeginTs (f : TbeginForm) : Statement (.tbeginTs f) := by
  have h0 := f.off.isLt
  exact of_some rfl (long_fits none f.g (by decide) (by omega))
theorem tend (f : GForm) : Statement (.tend f) := by
  exact of_some rfl (long_fits none f.g (by decide) (by omega))
theorem tabort (f : GAForm) : Statement (.tabort f) := by
  have h0 := f.a.isLt
  exact of_some rfl (long_fits none f.g (by decide) (by omega))
theorem tstat (f : GDForm) : Statement (.tstat f) := by
  have h0 := f.d.isLt
  exact of_some rfl (long_fits none f.g (by decide) (by omega))
theorem spbegin (f : SpbeginForm) : Statement (.spbegin f) := by
  have h0 := f.b.isLt
  have h1 := f.n.isLt
  exact of_some rfl (long_fits none f.g (by decide) (by omega))
theorem spend (f : GForm) : Statement (.spend f) := by
  exact of_some rfl (long_fits none f.g (by decide) (by omega))
theorem ldv (f : ImpForm) : Statement (.ldv f) := by
  have h0 := f.b.isLt
  have h1 := f.d.isLt
  have h2 := f.n.isLt
  have h3 := f.size.isLt
  exact of_some rfl (longK_fits none f.g (by decide) (by omega) (by omega))
theorem stv (f : ImpForm) : Statement (.stv f) := by
  have h0 := f.b.isLt
  have h1 := f.d.isLt
  have h2 := f.n.isLt
  have h3 := f.size.isLt
  exact of_some rfl (longK_fits none f.g (by decide) (by omega) (by omega))
theorem sealv (f : SealForm) : Statement (.sealv f) := by
  have h0 := f.b.isLt
  have h1 := f.d.isLt
  have h2 := f.n.isLt
  exact of_some rfl (longK_fits none f.g (by decide) (by omega) (by omega))
theorem floorv (f : SealForm) : Statement (.floorv f) := by
  have h0 := f.b.isLt
  have h1 := f.d.isLt
  have h2 := f.n.isLt
  exact of_some rfl (longK_fits none f.g (by decide) (by omega) (by omega))
theorem vprobe (f : SealForm) : Statement (.vprobe f) := by
  have h0 := f.b.isLt
  have h1 := f.d.isLt
  have h2 := f.n.isLt
  exact of_some rfl (longK_fits none f.g (by decide) (by omega) (by omega))
theorem liga (f : LigaForm) : Statement (.liga f) := by
  have h0 := f.a.isLt
  have h1 := f.d.isLt
  have h2 := f.off.isLt
  exact of_some rfl (longK_fits none f.g (by decide) (by omega) (by omega))
theorem lignxt (f : LignxtForm) : Statement (.lignxt f) := by
  have h0 := f.d.isLt
  have h1 := f.p.isLt
  exact of_some rfl (long_fits none f.g (by decide) (by omega))
theorem ligx (f : LigxForm) : Statement (.ligx f) := by
  have h0 := f.a.isLt
  have h1 := f.d.isLt
  have h2 := f.op.isLt
  have h3 := bit_le f.ty
  exact of_some rfl (long_fits none f.g (by decide) (by omega))
theorem sread (f : SreadForm) : Statement (.sread f) := by
  have h0 := f.d.isLt
  have h1 := f.s.isLt
  exact of_some rfl (long_fits none f.g (by decide) (by omega))
theorem sysr (f : SysrForm) : Statement (.sysr f) := by
  have h0 := f.d.isLt
  have h1 := f.s.isLt
  exact of_some rfl (long_fits none f.g (by decide) (by omega))
theorem sysw (f : SyswForm) : Statement (.sysw f) := by
  have h0 := f.a.isLt
  have h1 := f.s.isLt
  exact of_some rfl (long_fits none f.g (by decide) (by omega))
theorem syswCodebase (f : GAForm) : Statement (.syswCodebase f) := by
  have h0 := f.a.isLt
  exact of_some rfl (long_fits none f.g (by decide) (by omega))
theorem syswHeapWindow (f : HeapForm) : Statement (.syswHeapWindow f) := by
  have h0 := f.a.isLt
  have h1 := f.which.isLt
  exact of_some rfl (long_fits none f.g (by decide) (by omega))
theorem syswPred (f : GAForm) : Statement (.syswPred f) := by
  have h0 := f.a.isLt
  exact of_some rfl (long_fits none f.g (by decide) (by omega))
theorem syswGsave (f : GAForm) : Statement (.syswGsave f) := by
  have h0 := f.a.isLt
  exact of_some rfl (long_fits none f.g (by decide) (by omega))
theorem syswGload (f : GAForm) : Statement (.syswGload f) := by
  have h0 := f.a.isLt
  exact of_some rfl (long_fits none f.g (by decide) (by omega))
theorem syswBsave (f : GAForm) : Statement (.syswBsave f) := by
  have h0 := f.a.isLt
  exact of_some rfl (long_fits none f.g (by decide) (by omega))
theorem syswBload (f : GAForm) : Statement (.syswBload f) := by
  have h0 := f.a.isLt
  exact of_some rfl (long_fits none f.g (by decide) (by omega))
theorem syswEsave (f : GAForm) : Statement (.syswEsave f) := by
  have h0 := f.a.isLt
  exact of_some rfl (long_fits none f.g (by decide) (by omega))
theorem syswEload (f : GAForm) : Statement (.syswEload f) := by
  have h0 := f.a.isLt
  exact of_some rfl (long_fits none f.g (by decide) (by omega))
theorem syswMigrel (f : GAForm) : Statement (.syswMigrel f) := by
  have h0 := f.a.isLt
  exact of_some rfl (long_fits none f.g (by decide) (by omega))
theorem likV (f : LikForm) : Statement (.likV f) := by
  have h0 := f.d.isLt
  have h1 := f.k.isLt
  exact of_some rfl (longK_fits none f.g (by decide) (by omega) (by omega))
theorem likU (f : LikForm) : Statement (.likU f) := by
  have h0 := f.d.isLt
  have h1 := f.k.isLt
  exact of_some rfl (longK_fits none f.g (by decide) (by omega) (by omega))
theorem yieldEnd (g : Nat) : Statement (.yieldEnd g) := of_none rfl
theorem loadComplete (g : Nat) (k : Nat) : Statement (.loadComplete g k) := of_none rfl
theorem storeWritePoint (g : Nat) : Statement (.storeWritePoint g) := of_none rfl
theorem redPerform (g : Nat) : Statement (.redPerform g) := of_none rfl
theorem pageWalk (g : Nat) : Statement (.pageWalk g) := of_none rfl
theorem ldvWaitEnd (g : Nat) (k : Nat) : Statement (.ldvWaitEnd g k) := of_none rfl
theorem fetchComplete (g : Nat) (k : Nat) : Statement (.fetchComplete g k) := of_none rfl
theorem fetchcBytesArrive (core : Nat) (k : Nat) : Statement (.fetchcBytesArrive core k) := of_none rfl
theorem imposerBytesArrive (core : Nat) (k : Nat) (n : Nat) : Statement (.imposerBytesArrive core k n) := of_none rfl
theorem casemodeComplete (clu : Nat) (bank : Nat) : Statement (.casemodeComplete clu bank) := of_none rfl
theorem streamStart (core : Nat) (x : Nat) : Statement (.streamStart core x) := of_none rfl
theorem swapTakeEffect (core : Nat) : Statement (.swapTakeEffect core) := of_none rfl
theorem matrixStep (core : Nat) : Statement (.matrixStep core) := of_none rfl
theorem mloadComplete (core : Nat) : Statement (.mloadComplete core) := of_none rfl
theorem mloadsCountPhase (core : Nat) : Statement (.mloadsCountPhase core) := of_none rfl
theorem mloadsComplete (core : Nat) : Statement (.mloadsComplete core) := of_none rfl
theorem drainRow (core : Nat) (x : Nat) : Statement (.drainRow core x) := of_none rfl
theorem commitTokenGrant (batch : Nat) : Statement (.commitTokenGrant batch) := of_none rfl
theorem quoinTake (batch : Nat) : Statement (.quoinTake batch) := of_none rfl
theorem spendTokenReached (g : Nat) (l : Nat) : Statement (.spendTokenReached g l) := of_none rfl
theorem backoffExpire (g : Nat) (l : Nat) : Statement (.backoffExpire g l) := of_none rfl
theorem ligaFramesAvailable (g : Nat) : Statement (.ligaFramesAvailable g) := of_none rfl
theorem ligatureLifetimeLimit (g : Nat) : Statement (.ligatureLifetimeLimit g) := of_none rfl
theorem stallTimeLimit (g : Nat) : Statement (.stallTimeLimit g) := of_none rfl
theorem handlerEntry (g : Nat) : Statement (.handlerEntry g) := of_none rfl
theorem groupEnd (g : Nat) : Statement (.groupEnd g) := of_none rfl
theorem blockEnd (b : Nat) : Statement (.blockEnd b) := of_none rfl
theorem traceSample (core : Nat) (ctx : Nat) : Statement (.traceSample core ctx) := of_none rfl
theorem recordFetch (q : BitVec 6) : Statement (.recordFetch q) := of_none rfl
theorem batchReceive (die : BitVec 3) : Statement (.batchReceive die) := of_none rfl
theorem dieReport (die : BitVec 3) : Statement (.dieReport die) := of_none rfl
theorem gangDispatch (l : Nat) : Statement (.gangDispatch l) := of_none rfl
theorem preemptDecide (b : Nat) : Statement (.preemptDecide b) := of_none rfl
theorem saveHandlerEntry (b : Nat) : Statement (.saveHandlerEntry b) := of_none rfl
theorem blockRestore (b : Nat) : Statement (.blockRestore b) := of_none rfl
theorem launchRetire (l : Nat) : Statement (.launchRetire l) := of_none rfl
theorem gridEnd (l : Nat) (site : AsyncSite) : Statement (.gridEnd l site) := of_none rfl
theorem migrationLineCopy (k : Nat) : Statement (.migrationLineCopy k) := of_none rfl
theorem illegalEncoding : Statement .illegalEncoding := of_none rfl
theorem tileCommandComplete (core : Nat) (x : Nat) : Statement (.tileCommandComplete core x) := of_none rfl
theorem storePerformedAtScope (k : Nat) (scope : BitVec 3) : Statement (.storePerformedAtScope k scope) := of_none rfl
theorem qdoor (q : BitVec 6) (w : BitVec 64) : Statement (.qdoor q w) := of_none rfl
theorem qctlEn (q : BitVec 6) (v : BitVec 32) : Statement (.qctlEn q v) := of_none rfl
theorem qctlHold (q : BitVec 6) (on : Bool) : Statement (.qctlHold q on) := of_none rfl
theorem qctlEvict (q : BitVec 6) : Statement (.qctlEvict q) := of_none rfl
theorem qctlAbort (q : BitVec 6) : Statement (.qctlAbort q) := of_none rfl
theorem qctlClearOverrun (q : BitVec 6) : Statement (.qctlClearOverrun q) := of_none rfl
theorem resync (addr : BitVec 64) : Statement (.resync addr) := of_none rfl
theorem creplay (ctx : BitVec 6) : Statement (.creplay ctx) := of_none rfl
theorem poolrngFencedClear (k : BitVec 4) : Statement (.poolrngFencedClear k) := of_none rfl
theorem mgmtRegisterWrite (off : Nat) (v : BitVec 64) : Statement (.mgmtRegisterWrite off v) := of_none rfl
theorem dispatchBatch : Statement .dispatchBatch := of_none rfl
theorem hostRead (pa : Nat) (keep : HostKeep) : Statement (.hostRead pa keep) := of_none rfl
theorem hostWrite (pa : Nat) (bytes : List Byte) : Statement (.hostWrite pa bytes) := of_none rfl
theorem birsp (line : Nat) (data : Option (List Byte)) : Statement (.birsp line data) := of_none rfl
theorem snpData (line : Nat) : Statement (.snpData line) := of_none rfl
theorem snpInv (line : Nat) : Statement (.snpInv line) := of_none rfl
theorem snpCur (line : Nat) : Statement (.snpCur line) := of_none rfl
theorem bisnpData (line : Nat) : Statement (.bisnpData line) := of_none rfl
theorem bisnpInv (line : Nat) : Statement (.bisnpInv line) := of_none rfl
theorem bisnpCur (line : Nat) : Statement (.bisnpCur line) := of_none rfl
theorem peerRequest (dev : BitVec 8) (r : PeerReq) : Statement (.peerRequest dev r) := of_none rfl
theorem peerRequestTimeout (l : Nat) (site : AsyncSite) : Statement (.peerRequestTimeout l site) := of_none rfl
theorem peerPortDown (port : BitVec 4) (hit : List Nat) : Statement (.peerPortDown port hit) := of_none rfl
theorem poolRequestTimeout (k : BitVec 4) (l : Nat) (site : AsyncSite) : Statement (.poolRequestTimeout k l site) := of_none rfl
theorem poolPoison (k : BitVec 4) : Statement (.poolPoison k) := of_none rfl
theorem poolPortDown (port : BitVec 1) : Statement (.poolPortDown port) := of_none rfl
theorem coreFailure (core : Nat) : Statement (.coreFailure core) := of_none rfl
theorem reset : Statement .reset := of_none rfl
theorem firmwareUpdate (img : StagedImage) : Statement (.firmwareUpdate img) := of_none rfl
theorem recoveryImageStaged (img : List Byte) : Statement (.recoveryImageStaged img) := of_none rfl
theorem attestationRequest (nonce : List Byte) : Statement (.attestationRequest nonce) := of_none rfl
theorem d3hotEntry : Statement .d3hotEntry := of_none rfl
theorem returnToD0 : Statement .returnToD0 := of_none rfl
theorem throttle (mhz : Nat) : Statement (.throttle mhz) := of_none rfl
theorem dieOverTemperature : Statement .dieOverTemperature := of_none rfl
theorem coolantFlowLost : Statement .coolantFlowLost := of_none rfl
theorem orderlyPowerOff : Statement .orderlyPowerOff := of_none rfl
theorem stampEviction (frame : Nat) : Statement (.stampEviction frame) := of_none rfl
theorem deviceCacheEviction (line : Nat) : Statement (.deviceCacheEviction line) := of_none rfl
theorem mainPowerLoss : Statement .mainPowerLoss := of_none rfl
theorem sectorPoisoned (sector : Nat) : Statement (.sectorPoisoned sector) := of_none rfl
theorem peerRefusalReceived (l : Nat) (site : AsyncSite) : Statement (.peerRefusalReceived l site) := of_none rfl

end Laws.Words

end Sys2Proof
end

