-- ==== Sys2Proof/Machine/Window.lean ====
section
/-!
DEFINITION. What the host reads from the management window (R412, R413, R419, R422). A read changes no state.
-/

namespace Sys2Proof.Machine

/-! ## The capability list (R422) -/

/-- The body of capability entry `id` of the KWL8-576 (R422). -/
def capBody (s : State) (id : Nat) : List Byte :=
  if id = 1 then [0x4B, 0x57, 0x4C, 0x38, 0x2D, 0x35, 0x37, 0x36]
  else if id = 2 then presentBody s
  else if id = 3 then leBytes 8 Config.hbmBytes ++ leBytes 8 (4 * 512 * 2 ^ 20) ++ leBytes 2 0xFFF
  else if id = 4 then
    leBytes 2 Config.linkRate ++ leBytes 2 Config.linkWidth ++ leBytes 1 s.host.poolUp.toNat ++ leBytes 2 s.host.peerUp.toNat
  else if id = 5 then [64, 64, 128, 16, 256].flatMap (leBytes 2)
  else if id = 6 then leBytes 1 s.fw.bootCause.toNat ++ leBytes 7 0
  else []

/-- The version of capability entry `id` (R422). -/
def capVersion (id : Nat) : Nat := if id = 1 then 0x0100 else 1

/-- Where entry `id` stands: the manual gives the list, not its offsets (log 49). -/
def capOffset (id : Nat) : Nat := Config.capPtr.toNat + 128 * (id - 1)

/-- Capability entry `id` with its header (R422). -/
def capEntry (s : State) (id : Nat) : List Byte :=
  let body := capBody s id
  leBytes 2 id ++ leBytes 2 (capVersion id) ++ leBytes 4 (16 + body.length) ++
    leBytes 8 (if id < 6 then capOffset (id + 1) else 0) ++ body

/-! ## Registers -/

/-- Two 32-bit values side by side, the first at the lower offset. -/
def pairWord (lo hi : Word) : DWord := lo.setWidth 64 ||| (hi.setWidth 64 <<< 32)

/-- The 64 bits of a queue block at offset `8 k` (R413): QDOOR is write-only and reads 0. -/
def queueRead (x : Queue) (k : Nat) : DWord :=
  if k = 0 then x.base
  else if k = 1 then (qctlWord x).setWidth 64
  else if k = 3 then BitVec.ofNat 64 x.read
  else if k = 4 then BitVec.ofNat 64 x.done
  else if k = 5 then BitVec.ofNat 64 (qstat x)
  else if k = 6 then BitVec.ofNat 64 x.last
  else 0

/-- The 64 bits of a context block at offset `8 k` (R419): CREPLAY is write-only and reads 0. -/
def contextRead (c : Ctx) (k : Nat) : DWord := if k = 0 then pairWord c.head c.tail else 0

/-- The 64 bits of the window at offset `8 k` below the capability entries (R412); RESYNC reads its busy bit (R420). -/
def registerRead (s : State) (k : Nat) : DWord :=
  if k = 0 then Config.capPtr
  else if k = 1 then s.host.devnum.setWidth 64
  else if k = 2 then BitVec.ofNat 64 (bit s.host.resync)
  else if k = 3 then s.host.event
  else if k = 4 then s.host.ptime.setWidth 64
  else if k = 5 then s.host.ctxbase
  else if 0x20 ≤ k ∧ k < 0x30 then vget 0 s.host.poolrng (k - 0x20)
  else if 0x200 ≤ k ∧ k < 0x400 then queueRead (s.queue ((k - 0x200) / 8)) (k % 8)
  else if 0x400 ≤ k ∧ k < 0x480 then contextRead (s.ctx ((k - 0x400) / 2)) (k % 2)
  else if 0x600 ≤ k ∧ k < 0x604 then s.host.peeracc.extractLsb' (64 * (k - 0x600)) 64
  else if 0x620 ≤ k ∧ k < 0x660 then
    ([0, 1, 2, 3] : List Nat).foldl (fun w j => w ||| ((vget 0 s.host.routes (4 * (k - 0x620) + j)).setWidth 64 <<< (16 * j))) 0
  else 0

/-- One byte of the management window as the host reads it: 0 until the window is live (R435), and 0 at an offset that is
not listed (R412). -/
def windowByte (s : State) (off : Nat) : Byte :=
  if !windowLive s then 0
  else if off < capOffset 1 then (registerRead s (off / 8)).extractLsb' (8 * (off % 8)) 8
  else if off < capOffset 7 then (capEntry s ((off - capOffset 1) / 128 + 1)).getD (off % 128) 0
  else 0

/-- The 64 bits the host reads at an offset of the window. -/
def windowRead (s : State) (off : Nat) : DWord :=
  ([0, 1, 2, 3, 4, 5, 6, 7] : List Nat).foldl (fun w j => w ||| ((windowByte s (off + j)).setWidth 64 <<< (8 * j))) 0

end Sys2Proof.Machine
end

