-- ==== Sys2Proof/Tests/Slice0.lean ====
section
/-!
SUPPORT. Tests of the model: the WellFormed smoke test, a word of each instruction written from the encoding tables, single
steps with results worked out from the rules, and for each statement a state and operands that meet its hypotheses.
-/

namespace Sys2Proof.Tests

set_option Elab.async false

open Sys2Proof Sys2Proof.Machine

/-! ## Well-formed terms and words -/

/-- A guard that is true where p2 is false, and one that is true where p2 is true (R29, R30). -/
def notP2 : Guard := { gs := true, gp := 2 }
def isP2 : Guard := { gs := false, gp := 2 }

def noGuard : Guard := { gs := true, gp := 0 }

/-- An instruction of three registers, with a modifier and a guard. -/
def three (m : Option Mod) (g : Guard) : AForm := { m := m, g := g, d := 4, a := 6, b := 10 }

/-- One ill-formed term for each check on terms, with the reason it is refused for (R31, R35, R36, R44, R47 to R51, R220, R226). -/
theorem test_wellformed_refuses : ∀ e ∈ ([
    (.iadd (three none noGuard), .guardField),
    (.iadd (three (some { Mod.zero with qf := true }) notP2), .modifierField),
    (.fadd (three (some { Mod.zero with rnd := 7 }) notP2), .modifierRound),
    (.fadd (three (some { Mod.zero with clmp := 3 }) notP2), .modifierClamp),
    (.qswz { m := none, g := notP2, d := 4, a := 6, k := 3 }, .reservedFunction),
    (.cvt { m := none, g := notP2, d := 4, a := 6, pos := 0, dst := 0x38, src := 0x28 }, .formatCode),
    (.cvt { m := none, g := notP2, d := 4, a := 6, pos := 0, dst := 0x36, src := 0x28 }, .formatPair),
    (.cvtpk { m := none, g := notP2, d := 4, a := 6, pos := 2, dst := 0x29, src := 0x28 }, .position),
    (.cvtunpk { m := some { Mod.zero with rnd := 6 }, g := notP2, d := 4, a := 6, pos := 0, dst := 0x0C, src := 0x29 }, .rounding),
    (.cvt { m := some { Mod.zero with rnd := 6 }, g := notP2, d := 4, a := 6, pos := 0, dst := 0x28, src := 0x29 }, .rounding),
    (.ld { m := none, g := notP2, d := 4, b := 6, size := 2, order := 3, scope := 0 }, .orderField),
    (.st { m := none, g := notP2, d := 4, b := 6, size := 1, order := 1, scope := 3 }, .sizeField),
    (.fence { m := none, g := notP2, scope := 5 }, .scopeField),
    (.atom { m := none, g := notP2, d := 4, b := 6, size := 2, order := 0, scope := 0, val := 8, u := false, op := 11 }, .atomicOp),
    (.fencex { m := none, g := notP2, scope := 3, p := 5, q := 4 }, .pathCode),
    (.pref { m := none, g := notP2, level := 3, b := 6 }, .levelField),
    (.ligx { g := notP2, ty := true, op := 3, d := 4, a := 6 }, .reduction),
    (.sread { g := notP2, d := 4, s := 0xE }, .specialNumber),
    (.sysr { g := notP2, d := 4, s := 0x10A }, .systemNumber),
    (.sysw { g := notP2, a := 4, s := 0x140 }, .readOnlyRegister),
    (.mload { g := notP2, e1 := 4, fmt := 0x28, sc := false, vb := 0, bs := 0 }, .formatCode),
    (.mdrain { g := notP2, e1 := 4, e2 := 6, e3 := 62, dfmt := 0x28, rfmt := 0x28, res := false, tile := 0, rnd := 0, sat := false,
               zr := false, it := false }, .drainRegister),
    (.yieldEnd 0, .notAnInstruction)] : List (Instr × Reject)), check e.1 = some e.2 := by decide

/-- Why a word is refused. -/
def reason (b : Nat) : Option Reject :=
  match decode b with
  | .error r => some r
  | .ok _ => none

/-- Words that are no instruction (R25, R31, R36, R45, R47). -/
theorem test_words_refused : ∀ e ∈ ([
    (0x000000DF, .reservedMajor), (0x7D + 2 ^ 32 * 0x7D, .modifierTwice), (0x7D, .modifierBeforeShort),
    (0x7D + 2 ^ 32 * 0x51, .modifierNotAccepted), (0x2000007D + 2 ^ 32, .modifierReserved), (0x3B + 0x12000000, .reservedFunction),
    (0x39 + 2 ^ 44, .reservedField), (0x1001, .guardField), (0x73 + 0x08000000, .orderField), (0x4F + 0x06008000, .levelField)] :
      List (Nat × Reject)), reason e.1 = some e.2 := by decide

/-! ## A word of each instruction, from the encoding tables of 02_encoding.md (R28, R33, R45, R47 to R51) -/

def shortForms : List (Nat × Instr) := [
  (0x3080, .movShort { s := 6, d := 4 }),
  (0x3082, .iaddShort { s := 6, d := 4 }),
  (0x3084, .isubShort { s := 6, d := 4 }),
  (0x3086, .imulShort { s := 6, d := 4 }),
  (0x3088, .andShort { s := 6, d := 4 }),
  (0x308A, .orShort { s := 6, d := 4 }),
  (0x308C, .xorShort { s := 6, d := 4 }),
  (0x308E, .shlShort { s := 6, d := 4 }),
  (0x3090, .shrShort { s := 6, d := 4 }),
  (0x3092, .sarShort { s := 6, d := 4 }),
  (0x3094, .iminShort { s := 6, d := 4 }),
  (0x3096, .imaxShort { s := 6, d := 4 }),
  (0x3098, .faddShort { s := 6, d := 4 }),
  (0x309A, .fsubShort { s := 6, d := 4 }),
  (0x309C, .fmulShort { s := 6, d := 4 }),
  (0x309E, .fmaxShort { s := 6, d := 4 })]

def integer : List (Nat × Instr) := [
  (0x14309101, .iadd { m := none, g := notP2, d := 4, a := 6, b := 10 }),
  (0x94309101, .iaddI64 { m := none, g := notP2, d := 4, a := 6, b := 10 }),
  (0x14309103, .isub { m := none, g := notP2, d := 4, a := 6, b := 10 }),
  (0x94309103, .isubI64 { m := none, g := notP2, d := 4, a := 6, b := 10 }),
  (0x14309105, .imul { m := none, g := notP2, d := 4, a := 6, b := 10 }),
  (0x94309105, .imulI64 { m := none, g := notP2, d := 4, a := 6, b := 10 }),
  (0x14309107, .imulh { m := none, g := notP2, d := 4, a := 6, b := 10 }),
  (0x94309107, .imulhZ32 { m := none, g := notP2, d := 4, a := 6, b := 10 }),
  (0x14309109, .imad { m := none, g := notP2, d := 4, a := 6, b := 10 }),
  (0x94309109, .imadZ64 { m := none, g := notP2, d := 4, a := 6, b := 10 }),
  (0x1430910B, .imin { m := none, g := notP2, d := 4, a := 6, b := 10 }),
  (0x9430910B, .iminZ32 { m := none, g := notP2, d := 4, a := 6, b := 10 }),
  (0x1430910D, .imax { m := none, g := notP2, d := 4, a := 6, b := 10 }),
  (0x9430910D, .imaxZ32 { m := none, g := notP2, d := 4, a := 6, b := 10 }),
  (0x1434710F, .icmp { m := none, g := notP2, c := 2, p := 3, a := 6, b := 10 }),
  (0x14347111, .icmpZ32 { m := none, g := notP2, c := 2, p := 3, a := 6, b := 10 }),
  (0x14309113, .sel { m := none, g := notP2, d := 4, a := 6, b := 10 }),
  (0x94309113, .selB64 { m := none, g := notP2, d := 4, a := 6, b := 10 }),
  (0x14309115, .lea { m := none, g := notP2, d := 4, a := 6, b := 10 }),
  (0x94309115, .leaZ32 { m := none, g := notP2, d := 4, a := 6, b := 10 }),
  (0x14309117, .and { m := none, g := notP2, d := 4, a := 6, b := 10 }),
  (0x94309117, .andn { m := none, g := notP2, d := 4, a := 6, b := 10 }),
  (0x14309119, .or { m := none, g := notP2, d := 4, a := 6, b := 10 }),
  (0x94309119, .xor { m := none, g := notP2, d := 4, a := 6, b := 10 }),
  (0x1430911B, .shl { m := none, g := notP2, d := 4, a := 6, b := 10 }),
  (0x9430911B, .shr { m := none, g := notP2, d := 4, a := 6, b := 10 }),
  (0x1430911D, .sar { m := none, g := notP2, d := 4, a := 6, b := 10 }),
  (0x9430911D, .rot { m := none, g := notP2, d := 4, a := 6, b := 10 }),
  (0x1430911F, .bfx { m := none, g := notP2, d := 4, a := 6, b := 10 }),
  (0x9430911F, .bfxI32 { m := none, g := notP2, d := 4, a := 6, b := 10 }),
  (0x14309121, .bfi { m := none, g := notP2, d := 4, a := 6, b := 10 })]

def floatAndUniform : List (Nat × Instr) := [
  (0x14309123, .fadd { m := none, g := notP2, d := 4, a := 6, b := 10 }),
  (0x94309123, .fsub { m := none, g := notP2, d := 4, a := 6, b := 10 }),
  (0x14309125, .fmul { m := none, g := notP2, d := 4, a := 6, b := 10 }),
  (0x14309127, .ffma { m := none, g := notP2, d := 4, a := 6, b := 10 }),
  (0x14309129, .fmin { m := none, g := notP2, d := 4, a := 6, b := 10 }),
  (0x94309129, .fmax { m := none, g := notP2, d := 4, a := 6, b := 10 }),
  (0x1434712B, .fcmp { m := none, g := notP2, c := 2, p := 3, a := 6, b := 10 }),
  (0x1430912D, .hadd2 { m := none, g := notP2, d := 4, a := 6, b := 10 }),
  (0x9430912D, .hmul2 { m := none, g := notP2, d := 4, a := 6, b := 10 }),
  (0x1430912F, .hfma2 { m := none, g := notP2, d := 4, a := 6, b := 10 }),
  (0x289131, .movi { m := none, g := notP2, d := 4, imm := 5 }),
  (0xA309133, .iaddImm { m := none, g := notP2, d := 4, a := 6, imm := 5 }),
  (0x14309135, .uadd { m := none, g := notP2, d := 4, a := 6, b := 10 }),
  (0x94309135, .usub { m := none, g := notP2, d := 4, a := 6, b := 10 }),
  (0x54309135, .umul { m := none, g := notP2, d := 4, a := 6, b := 10 }),
  (0xD4309135, .uand { m := none, g := notP2, d := 4, a := 6, b := 10 }),
  (0x14309137, .uor { m := none, g := notP2, d := 4, a := 6, b := 10 }),
  (0x94309137, .ushl { m := none, g := notP2, d := 4, a := 6, b := 10 }),
  (0x40309137, .umov { m := none, g := notP2, d := 4, a := 6 }),
  (0xD4347137, .ucmp { m := none, g := notP2, lt := true, p := 3, a := 6, b := 10 })]

def conversionsAndUnary : List (Nat × Instr) := [
  (0xA2900309139, .cvt { m := none, g := notP2, d := 4, a := 6, pos := 0, dst := 41, src := 40 }),
  (0xA2920309139, .cvtpk { m := none, g := notP2, d := 4, a := 6, pos := 0, dst := 41, src := 40 }),
  (0xA6840309139, .cvtunpk { m := none, g := notP2, d := 4, a := 6, pos := 0, dst := 40, src := 41 }),
  (0x30913B, .mov { m := none, g := notP2, d := 4, a := 6 }),
  (0x230913B, .movB64 { m := none, g := notP2, d := 4, a := 6 }),
  (0x430913B, .not { m := none, g := notP2, d := 4, a := 6 }),
  (0x630913B, .ineg { m := none, g := notP2, d := 4, a := 6 }),
  (0x830913B, .iabs { m := none, g := notP2, d := 4, a := 6 }),
  (0xA30913B, .popc { m := none, g := notP2, d := 4, a := 6 }),
  (0xC30913B, .clz { m := none, g := notP2, d := 4, a := 6 }),
  (0xE30913B, .ctz { m := none, g := notP2, d := 4, a := 6 }),
  (0x1030913B, .brev { m := none, g := notP2, d := 4, a := 6 }),
  (0x2030913B, .frcp { m := none, g := notP2, d := 4, a := 6 }),
  (0x2230913B, .frsq { m := none, g := notP2, d := 4, a := 6 }),
  (0x2430913B, .fsqrt { m := none, g := notP2, d := 4, a := 6 }),
  (0x2630913B, .fexp2 { m := none, g := notP2, d := 4, a := 6 }),
  (0x2830913B, .flog2 { m := none, g := notP2, d := 4, a := 6 })]

def crossLane : List (Nat × Instr) := [
  (0x230913D, .shflXor { m := none, g := notP2, d := 4, a := 6, k := 1 }),
  (0x4230913D, .shfl { m := none, g := notP2, d := 4, a := 6, k := 1 }),
  (0x8030913D, .shflIdx { m := none, g := notP2, d := 4, a := 6 }),
  (0x8A30913D, .qswz { m := none, g := notP2, d := 4, a := 6, k := 1 }),
  (0x9230913D, .qbcst { m := none, g := notP2, d := 4, a := 6, k := 1 }),
  (0x9830913D, .voteAll { m := none, g := notP2, d := 4, a := 6 }),
  (0x9A30913D, .voteAny { m := none, g := notP2, d := 4, a := 6 }),
  (0x9C30913D, .voteUni { m := none, g := notP2, d := 4, a := 6 }),
  (0x9E30913D, .ballot { m := none, g := notP2, d := 4, a := 6 }),
  (0xA030913D, .lreduceAddI32 { m := none, g := notP2, d := 4, a := 6 }),
  (0xA230913D, .lreduceAddF32 { m := none, g := notP2, d := 4, a := 6 }),
  (0xA430913D, .lreduceMinI32 { m := none, g := notP2, d := 4, a := 6 }),
  (0xA630913D, .lreduceMaxI32 { m := none, g := notP2, d := 4, a := 6 }),
  (0xA830913D, .lreduceMinF32 { m := none, g := notP2, d := 4, a := 6 }),
  (0xAA30913D, .lreduceMaxF32 { m := none, g := notP2, d := 4, a := 6 }),
  (0xAC30913D, .lreduceOrB32 { m := none, g := notP2, d := 4, a := 6 }),
  (0xAE30913D, .lreduceAndB32 { m := none, g := notP2, d := 4, a := 6 }),
  (0xB030913D, .prefixAddI32 { m := none, g := notP2, d := 4, a := 6 }),
  (0xB230913D, .prefixAddI32Ex { m := none, g := notP2, d := 4, a := 6 }),
  (0xB430913D, .prefixAddF32 { m := none, g := notP2, d := 4, a := 6 }),
  (0xB630913D, .prefixAddF32Ex { m := none, g := notP2, d := 4, a := 6 }),
  (0xB830913D, .umovv { m := none, g := notP2, d := 4, a := 6 }),
  (0xBA30913D, .ubcst { m := none, g := notP2, d := 4, a := 6 }),
  (0xBC30913D, .bmand { m := none, g := notP2, d := 4, a := 6 }),
  (0xBE30913D, .popcp { m := none, g := notP2, d := 4, a := 6 }),
  (0xC640913D, .isect { m := none, g := notP2, p := 3, d := 4, a := 8 }),
  (0x1430913F, .pand { m := none, g := notP2, d := 4, a := 6, b := 10 }),
  (0x5430913F, .por { m := none, g := notP2, d := 4, a := 6, b := 10 }),
  (0x9430913F, .pxor { m := none, g := notP2, d := 4, a := 6, b := 10 })]

def memory : List (Nat × Instr) := [
  (0x4509141, .ld { m := none, g := notP2, d := 4, b := 10, size := 2, order := 0, scope := 0 }),
  (0x1234567804509143, .ldDisp { m := none, g := notP2, d := 4, b := 10, size := 2, order := 0, scope := 0, disp := 305419896 }),
  (0x1234567804509145, .ldSext { m := none, g := notP2, d := 4, b := 10, size := 2, order := 0, scope := 0, disp := 305419896 }),
  (0x4509147, .st { m := none, g := notP2, d := 4, b := 10, size := 2, order := 0, scope := 0 }),
  (0x1234567804509149, .stDisp { m := none, g := notP2, d := 4, b := 10, size := 2, order := 0, scope := 0, disp := 305419896 }),
  (0x1040450914B, .atom { m := none, g := notP2, d := 4, b := 10, size := 2, order := 0, scope := 0, val := 8, u := false, op := 4 }),
  (0x61070450914B, .atomCas { m := none, g := notP2, d := 4, b := 10, size := 2, order := 0, scope := 0, val := 8, cmp := 12 }),
  (0x40450914D, .red { m := none, g := notP2, d := 4, b := 10, size := 2, order := 0, scope := 0, u := false, op := 4 }),
  (0x114F, .fence { m := none, g := notP2, scope := 0 }),
  (0x200114F, .fenceSc { m := none, g := notP2, scope := 0 }),
  (0x404714F, .fencex { m := none, g := notP2, scope := 0, p := 3, q := 4 }),
  (0x650314F, .pref { m := none, g := notP2, level := 1, b := 10 }),
  (0x850114F, .cwb { m := none, g := notP2, scope := 0, b := 10 }),
  (0xA50114F, .cinv { m := none, g := notP2, b := 10 }),
  (0xC50914F, .casemode { m := none, g := notP2, d := 4, b := 10 }),
  (0xE50914F, .fpush { m := none, g := notP2, d := 4, b := 10 }),
  (0x1050914F, .fpop { m := none, g := notP2, d := 4, b := 10 })]

def control : List (Nat × Instr) := [
  (0x13151, .bra { g := notP2, off := 9 }),
  (0x13153, .bru { g := notP2, off := 9 }),
  (0x48B155, .brd { g := notP2, r := 5, off := 9 }),
  (0x301157, .brx { g := notP2, a := 6 }),
  (0x2309157, .callx { g := notP2, d := 4, a := 6 }),
  (0x4301157, .ret { g := notP2, a := 6 }),
  (0x48B159, .call { g := notP2, r := 5, off := 9 }),
  (0x1315B, .split { g := notP2, off := 9 }),
  (0x115D, .nop { g := notP2 }),
  (0x200115D, .join { g := notP2 }),
  (0x400115D, .wait { g := notP2 }),
  (0x600115D, .exit { g := notP2 }),
  (0x800115D, .yield { g := notP2 }),
  (0xA00115D, .region { g := notP2 }),
  (0xC38115D, .bkpt { g := notP2, code := 7 }),
  (0xE38115D, .trap { g := notP2, code := 7 }),
  (0x1000115D, .eret { g := notP2 })]

def matrix : List (Nat × Instr) := [
  (0x438500009161, .mload { g := notP2, e1 := 4, fmt := 5, sc := false, vb := 7, bs := 2 }),
  (0x438580309161, .mloads { g := notP2, e1 := 4, e2 := 6, fmt := 5, sc := false, vb := 7, bs := 2 }),
  (0x1C438500309163, .mstream { g := notP2, e1 := 4, e2 := 6, fmt := 5, sc := false, vb := 7, bs := 2, tile := 2, sat := true, swap := true, win := false }),
  (0x1C438594309163, .mstreams { g := notP2, e1 := 4, e2 := 6, e3 := 10, fmt := 5, sc := false, vb := 7, bs := 2, tile := 2, sat := true, swap := true, win := false }),
  (0x1CDA2F14309165, .mdrain { g := notP2, e1 := 4, e2 := 6, e3 := 10, dfmt := 47, rfmt := 40, res := true, tile := 2, rnd := 1, sat := true, zr := true, it := true }),
  (0x1167, .mctxAcq { g := notP2 }),
  (0x81167, .mctxRel { g := notP2 }),
  (0x2001167, .mswap { g := notP2 }),
  (0x4005167, .mzero { g := notP2, tile := 2 }),
  (0x6309167, .mmova { g := notP2, d := 4, a := 6 }),
  (0x8309167, .mmovv { g := notP2, d := 4, a := 6 }),
  (0xA001167, .mwait { g := notP2 }),
  (0xC009167, .mstat { g := notP2, d := 4 }),
  (0xE009167, .mstepGet { g := notP2, d := 4 }),
  (0x10301167, .mstepSet { g := notP2, a := 6 }),
  (0x12009167, .impstat { g := notP2, d := 4 })]

def fountAndBarriers : List (Nat × Instr) := [
  (0x12309169, .fetch { g := notP2, d := 4, a := 6, h := 9 }),
  (0x92309169, .fetchc { g := notP2, d := 4, a := 6, h := 9 }),
  (0x1430916B, .hbind { g := notP2, e1 := 4, e2 := 6, e3 := 10 }),
  (0x8000D16B, .impose { g := notP2, a := 6 }),
  (0x2716D, .bara { g := notP2, level := 1, num := 3 }),
  (0x1202716D, .barw { g := notP2, mx := true, level := 1, num := 3 }),
  (0x41A716D, .bars { g := notP2, level := 1, num := 3, p := 3 }),
  (0x612716D, .barc { g := notP2, level := 1, num := 3, s := 2 })]

def transactionsAndImpressions : List (Nat × Instr) := [
  (0x48116F, .tbeginVal { g := notP2, off := 9 }),
  (0x48316F, .tbeginTs { g := notP2, off := 9 }),
  (0x1171, .tend { g := notP2 }),
  (0x2301171, .tabort { g := notP2, a := 6 }),
  (0x4009171, .tstat { g := notP2, d := 4 }),
  (0x650B171, .spbegin { g := notP2, n := 5, b := 10 }),
  (0x8001171, .spend { g := notP2 }),
  (0x504509173, .ldv { g := notP2, d := 4, b := 10, size := 2, n := 5 }),
  (0x4504509173, .stv { g := notP2, d := 4, b := 10, size := 2, n := 5 }),
  (0x8500509173, .sealv { g := notP2, d := 4, b := 10, n := 5 }),
  (0xC500509173, .floorv { g := notP2, d := 4, b := 10, n := 5 }),
  (0x10500509173, .vprobe { g := notP2, d := 4, b := 10, n := 5 })]

def ligaturesAndSpecial : List (Nat × Instr) := [
  (0x900309175, .liga { g := notP2, d := 4, a := 6, off := 9 }),
  (0x2189175, .lignxt { g := notP2, p := 3, d := 4 }),
  (0x2C309175, .ligx { g := notP2, ty := true, op := 1, d := 4, a := 6 }),
  (0x109177, .sread { g := notP2, d := 4, s := 2 }),
  (0xA009177, .sysr { g := notP2, d := 4, s := 320 }),
  (0x880D179, .sysw { g := notP2, a := 6, s := 272 }),
  (0x800D179, .syswCodebase { g := notP2, a := 6 }),
  (0x810D179, .syswHeapWindow { g := notP2, a := 6, which := 1 }),
  (0xC28D179, .syswPred { g := notP2, a := 6 }),
  (0xC30D179, .syswGsave { g := notP2, a := 6 }),
  (0xC38D179, .syswGload { g := notP2, a := 6 }),
  (0xC40D179, .syswBsave { g := notP2, a := 6 }),
  (0xC48D179, .syswBload { g := notP2, a := 6 }),
  (0xC50D179, .syswEsave { g := notP2, a := 6 }),
  (0xC58D179, .syswEload { g := notP2, a := 6 }),
  (0xC80D179, .syswMigrel { g := notP2, a := 6 }),
  (0x10000917F, .likV { g := notP2, d := 4, k := 1 }),
  (0x10008917F, .likU { g := notP2, d := 4, k := 1 })]

theorem test_decode_short_forms : ∀ e ∈ shortForms, decodeTableWord 64 e.1 = some e.2 := by decide
theorem test_decode_integer : ∀ e ∈ integer, decodeTableWord 64 e.1 = some e.2 := by decide
theorem test_decode_float_and_uniform : ∀ e ∈ floatAndUniform, decodeTableWord 64 e.1 = some e.2 := by decide
theorem test_decode_conversions_and_unary : ∀ e ∈ conversionsAndUnary, decodeTableWord 64 e.1 = some e.2 := by decide
theorem test_decode_cross_lane : ∀ e ∈ crossLane, decodeTableWord 64 e.1 = some e.2 := by decide
theorem test_decode_memory : ∀ e ∈ memory, decodeTableWord 64 e.1 = some e.2 := by decide
theorem test_decode_control : ∀ e ∈ control, decodeTableWord 64 e.1 = some e.2 := by decide
theorem test_decode_matrix : ∀ e ∈ matrix, decodeTableWord 64 e.1 = some e.2 := by decide
theorem test_decode_fount_and_barriers : ∀ e ∈ fountAndBarriers, decodeTableWord 64 e.1 = some e.2 := by decide
theorem test_decode_transactions_and_impressions : ∀ e ∈ transactionsAndImpressions, decodeTableWord 64 e.1 = some e.2 := by decide
theorem test_decode_ligatures_and_special : ∀ e ∈ ligaturesAndSpecial, decodeTableWord 64 e.1 = some e.2 := by decide
/-! ## Single steps

The group of a program that a launch has placed (log 10): 32 live lanes at PC 0 in user mode, HBM at its own addresses. -/

def base : State := { State.reset.withFetchWord 16 0 with
  agenda := [], iss := { Issue.none with gid := State.reset.nextId + 2, len := 4, active := List.range 32 } }

def grp : Group := placedGroup1 State.reset.nextId (State.reset.nextId + 1) (State.reset.nextId + 2)

/-- The state with another group in place of the placed one, and with other lanes. -/
def put (g : Group) : State := { base with groups := [g] }
def lanes (f : Nat → Lane → Lane) : Group := grp.mapLanes f

/-- A lane whose registers V6 and V10 hold two words, and V4 a third. -/
def regs (a b d : Word) : Group := lanes fun _ x => ((x.setReg 6 a).setReg 10 b).setReg 4 d

def next? (o : Out State) : Option State :=
  match o with
  | .next t => some t
  | _ => none

def after {α : Type} (o : Out State) (f : State → Group → α) : Option α :=
  match o with
  | .next t => t.cur.map (f t)
  | _ => none

/-- V4 of lane 0 after an instruction on V6 = a, V10 = b, V4 = d; and the lane's flags. -/
def out (i : Instr) (a b d : Word) : Option Word := after (exec i (put (regs a b d))) fun _ g => (g.lane 0).reg 4
def flags (i : Instr) (a b d : Word) : Option Sticky := after (exec i (put (regs a b d))) fun _ g => (g.lane 0).fsticky

def f3 : AForm := three none notP2
def f2 : DAForm := { m := none, g := notP2, d := 4, a := 6 }

/-- The class of the fault that has ended the launch of a state. -/
def ended (o : Out State) : Option Nat :=
  match o with
  | .next t => t.launches.head?.bind fun l => l.how.bind fun h => match h with
    | .fault c _ => some c
    | _ => none
  | _ => none

theorem test_iadd_wraps : out (.iadd f3) 0xFFFFFFFF 2 0 = some 1 := by decide +kernel
theorem test_iadd_saturates : out (.iadd { f3 with m := some { Mod.zero with sat := true } }) 0x7FFFFFFF 1 0 = some 0x7FFFFFFF := by
  decide +kernel
theorem test_imulh_signed : out (.imulh f3) 0xFFFFFFFE 3 0 = some 0xFFFFFFFF := by decide +kernel
theorem test_imad_adds_destination : out (.imad f3) 3 5 7 = some 22 := by decide +kernel
theorem test_shl_by_32 : out (.shl f3) 0xFFFFFFFF 32 0 = some 0 := by decide +kernel
theorem test_shl_count_is_8_bits : out (.shl f3) 1 0x101 0 = some 2 := by decide +kernel
theorem test_sar_fills : out (.sar f3) 0x80000000 40 0 = some 0xFFFFFFFF := by decide +kernel
theorem test_rot_by_33 : out (.rot f3) 0x80000000 33 0 = some 1 := by decide +kernel
theorem test_andn : out (.andn f3) 0xF0F0 0xFF00 0 = some 0x00F0 := by decide +kernel
theorem test_bfx_field_past_the_end : out (.bfx f3) 0xABCD1234 0x1018 0 = some 0xAB := by decide +kernel
theorem test_bfi_keeps_the_rest : out (.bfi f3) 0xFF 0x0408 0x12345678 = some 0x12345F78 := by decide +kernel
theorem test_imin_signed : out (.imin f3) 0xFFFFFFFF 1 0 = some 0xFFFFFFFF := by decide +kernel
theorem test_imin_unsigned : out (.iminZ32 f3) 0xFFFFFFFF 1 0 = some 1 := by decide +kernel
theorem test_clz_of_zero : out (.clz f2) 0 0 0 = some 32 := by decide +kernel
theorem test_movi_extends_the_sign : out (.movi { m := none, g := notP2, d := 4, imm := 0x1FFF }) 0 0 0 = some 0xFFFFFFFF := by
  decide +kernel
theorem test_guard_off_keeps : out (.iadd { f3 with g := isP2 }) 1 2 9 = some 9 := by decide +kernel
theorem test_sel_guard_selects : out (.sel { f3 with g := isP2 }) 1 2 9 = some 2 := by decide +kernel

/-- 1 + 2^-24 lies half way between 1 and the next binary32 number and rounds to the even one (R59, R91): 1, inexact. -/
theorem test_fadd_ties_to_even : out (.fadd f3) 0x3F800000 0x33800000 0 = some 0x3F800000 := by decide +kernel
theorem test_fadd_inexact : flags (.fadd f3) 0x3F800000 0x33800000 0 = some flagInexact := by decide +kernel
theorem test_fmul_overflows : out (.fmul f3) 0x7F000000 0x7F000000 0 = some 0x7F800000 := by decide +kernel
theorem test_ffma_once : out (.ffma f3) 0x40000000 0x40400000 0x3F800000 = some 0x40E00000 := by decide +kernel
theorem test_fsqrt_of_four : out (.fsqrt f2) 0x40800000 0 0 = some 0x40000000 := by decide +kernel
theorem test_cvt_truncates : out (.cvt { m := none, g := notP2, d := 4, a := 6, pos := 0, dst := 0x2F, src := 0x28 }) 0xC0280000 0 0 =
    some 0xFFFFFFFE := by decide +kernel

/-- Identical formats: the value unchanged, a quiet NaN with its payload (R96); a negated integer 0 is -0 (log 20). -/
theorem test_cvt_keeps_a_payload : out (.cvt { m := none, g := notP2, d := 4, a := 6, pos := 0, dst := 0x28, src := 0x28 }) 0x7FC00001 0 0 =
    some 0x7FC00001 := by decide +kernel

def pred3 (i : Instr) (a b : Word) : Option Bool := after (exec i (put (regs a b 0))) fun _ g => (g.lane 0).pred 3

theorem test_icmp_signed : pred3 (.icmp { m := none, g := notP2, c := 2, p := 3, a := 6, b := 10 }) 0xFFFFFFFF 0 = some true := by
  decide +kernel
theorem test_icmp_unsigned : pred3 (.icmpZ32 { m := none, g := notP2, c := 2, p := 3, a := 6, b := 10 }) 0xFFFFFFFF 0 = some false := by
  decide +kernel
theorem test_fcmp_nan_is_not_equal : pred3 (.fcmp { m := none, g := notP2, c := 1, p := 3, a := 6, b := 10 }) 0x7FC00000 0 = some true := by
  decide +kernel

/-- Lane l holds l in V6. -/
def ranks : Group := lanes fun l x => x.setReg 6 (BitVec.ofNat 32 l)
def lane4 (i : Instr) (l : Nat) : Option Word := after (exec i (put ranks)) fun _ g => (g.lane l).reg 4

theorem test_shfl_xor : lane4 (.shflXor { m := none, g := notP2, d := 4, a := 6, k := 5 }) 6 = some 3 := by decide +kernel
theorem test_qbcst : lane4 (.qbcst { m := none, g := notP2, d := 4, a := 6, k := 1 }) 11 = some 9 := by decide +kernel
theorem test_ballot_of_p0 : lane4 (.ballot { m := none, g := notP2, d := 4, a := 0 }) 3 = some 0xFFFFFFFF := by decide +kernel
theorem test_lreduce_add : lane4 (.lreduceAddI32 f2) 0 = some 496 := by decide +kernel
theorem test_lreduce_max : lane4 (.lreduceMaxI32 f2) 7 = some 31 := by decide +kernel
theorem test_prefix_inclusive : lane4 (.prefixAddI32 f2) 4 = some 10 := by decide +kernel
theorem test_prefix_exclusive : lane4 (.prefixAddI32Ex f2) 4 = some 6 := by decide +kernel
theorem test_umovv_lowest_lane : after (exec (.umovv f2) (put ranks)) (fun _ g => g.ureg 4) = some 0 := by decide +kernel

def pcOf (i : Instr) (g : Group) : Option Word := after (exec i (put g)) fun _ h => (h.lane 0).pc

theorem test_bra_backwards : pcOf (.bra { g := notP2, off := 0x7FFFF }) grp = some 0xFFFFFFFE := by decide +kernel
theorem test_call_links : out (.call { g := notP2, r := 4, off := 9 }) 0 0 0 = some 4 := by decide +kernel
theorem test_brx_odd_target : ended (exec (.brx { g := notP2, a := 6 }) (put (regs 3 0 0))) = some 0x08 := by decide +kernel
theorem test_split_pushes : after (exec (.split { g := notP2, off := 9 }) base) (fun _ g => g.stack) = some [(0xFFFFFFFF, 18)] := by
  decide +kernel
theorem test_join_without_entry : ended (exec (.join { g := notP2 }) base) = some 0x05 := by decide +kernel
theorem test_exit_ends_lanes : after (exec (.exit { g := notP2 }) base) (fun _ g => (g.lane 31).st) = some .exited := by decide +kernel
theorem test_trap_class : ended (exec (.trap { g := notP2, code := 7 }) base) = some 0x11 := by decide +kernel
theorem test_eret_in_user_code : ended (exec (.eret { g := notP2 }) base) = some 0x07 := by decide +kernel
theorem test_sread_lane : after (exec (.sread { g := notP2, d := 4, s := 0 }) base) (fun _ g => (g.lane 9).reg 4) = some 9 := by
  decide +kernel

/-- The bytes 0x81, 0x82, 0x83, 0x84 stand at 0x100; V6 is 0x100 and V7 is 0. -/
def memory4 : State := { put (regs 0x100 5 0x11223344) with mem := bytesPut base.mem 0x100 [0x81, 0x82, 0x83, 0x84] }
def ldOf (size : BitVec 2) : MemForm := { m := none, g := notP2, d := 4, b := 6, size := size, order := 0, scope := 0 }

theorem test_ld_little_endian : after (exec (.ld (ldOf 2)) memory4) (fun _ g => (g.lane 0).reg 4) = some 0x84838281 := by decide +kernel
theorem test_ld_sext_displaced : after (exec (.ldSext { m := none, g := notP2, d := 4, b := 6, size := 0, order := 0, scope := 0, disp := 1 })
    memory4) (fun _ g => (g.lane 0).reg 4) = some 0xFFFFFF82 := by decide +kernel
theorem test_ld_misaligned : ended (exec (.ldDisp { m := none, g := notP2, d := 4, b := 6, size := 2, order := 0, scope := 0, disp := 2 })
    memory4) = some 0x08 := by decide +kernel
theorem test_st_seen_by_the_group : after (exec (.st (ldOf 1)) memory4) (fun t g => loadNum t g none (.mem 0x100) 4) = some 0x84833344 := by
  decide +kernel
theorem test_st_not_yet_in_memory : after (exec (.st (ldOf 1)) memory4) (fun t _ => cellGet t.mem 0x100) = some 0x81 := by decide +kernel
/-- The 32 lanes add 5 one after another; lane 2 finds what lanes 0 and 1 left (R151). -/
theorem test_atom_in_lane_order : after (exec (.atom
    { m := none, g := notP2, d := 4, b := 6, size := 2, order := 0, scope := 3, val := 10, u := false, op := 0 }) memory4) (fun _ g => (g.lane 2).reg 4) = some 0x8483828B := by decide +kernel
theorem test_ld_translation_fails : after (exec (.ld (ldOf 2)) (put ((regs 0 0 0).mapLanes fun _ x => x.setReg 7 0x01000000)))
    (fun _ g => (g.fl.opLog.map fun m => m.fails.length, (g.lane 0).pc)) = some ([32], 4) := by decide +kernel

theorem test_tbegin_opens : after (exec (.tbeginVal { g := notP2, off := 9 }) base) (fun _ g => ((g.lane 5).tx.isOpen, (g.lane 5).tx.path)) =
    some (true, 18) := by decide +kernel
theorem test_tend_outside : ended (exec (.tend { g := notP2 }) base) = some 0x0C := by decide +kernel
theorem test_bara_last_arrival : after (exec (.bara { g := notP2, level := 1, num := 3 }) base)
    (fun t g => (barOf t g 1 3).phase) = some 1 := by decide +kernel
theorem test_mctx_acquires_the_lowest : after (exec (.mctxAcq { g := notP2 }) base) (fun _ g => g.mctx) = some (some 0) := by decide +kernel
theorem test_mwait_without_context : ended (exec (.mwait { g := notP2 }) base) = some 0x07 := by decide +kernel
theorem test_lignxt_outside_helpers : ended (exec (.lignxt { g := notP2, d := 4, p := 3 }) base) = some 0x0F := by decide +kernel
theorem test_sysw_in_user_code : ended (exec (.sysw { g := notP2, a := 6, s := 0x146 }) base) = some 0x07 := by decide +kernel
theorem test_yield_idles : after (exec (.yield { g := notP2 }) base) (fun _ g => g.hold.idleTo) = some (some 17) := by decide +kernel

/-- A step issues the placed word: IADD V3 := V4 + V5, then nothing of the agenda is left. -/
theorem test_step_issues : (next? (step (State.reset.withFetchWord 32 (1 + 2 ^ 13 * 3 + 2 ^ 19 * 4 + 2 ^ 25 * 5)))).map
    (fun t => (t.agenda.length, t.groups.map fun g => (g.lane 7).pc)) = some (0, [4]) := by decide +kernel
theorem test_step_of_reset : (next? (step State.reset)).map (fun t => (t.clock, t.groups.length)) = some (1, 0) := by decide +kernel

/-! ## Hypotheses of the statements: states and operands that meet them

`clear_of` shows that an instruction issues, `reaches_of` that an access reaches its place; the rest is evaluated. -/

/-- Whether an instruction with these needs issues in a state that issues. -/
def clearsOf (s : State) (g : Group) (n : Needs) : Bool :=
  (n.uses.all fun u => u.legal s.iss.helper g.nregs && !heldUse s g s.iss.helper u && (g.priv != .user || s.iss.helper ||
    !loggedUse g u)) && (!s.iss.helper || n.helperOk) && (g.priv != .user || s.iss.helper || n.free || g.fl.opLog.isEmpty) &&
  (failedUse g s.iss.helper n.uses).isNone && !walking s g

def clears (s : State) (g : Group) (i : Instr) : Bool :=
  match needs i with
  | none => false
  | some n => clearsOf s g n

theorem clearOf_of {s : State} {g : Group} {n : Needs} (hi : Issuing s g) (h : clearsOf s g n = true) : ClearOf s g n := by
  simp only [clearsOf, Bool.and_eq_true, List.all_eq_true, Bool.or_eq_true, Bool.not_eq_true', bne_iff_ne, ne_eq, List.isEmpty_iff,
    Option.isNone_iff_eq_none] at h
  obtain ⟨⟨⟨⟨hu, hh⟩, hl⟩, hf⟩, hw⟩ := h
  refine ⟨hi, fun u hm => (hu u hm).1.1, fun hx => ?_, fun hp hx => ⟨?_, fun u hm => ?_⟩, hf, fun u hm => (hu u hm).1.2, hw⟩
  · cases hh with
    | inl h => rw [hx] at h; cases h
    | inr h => exact h
  · rcases hl with ((h | h) | h) | h
    · exact absurd hp h
    · rw [hx] at h; cases h
    · exact .inl h
    · exact .inr h
  · rcases (hu u hm).2 with (h | h) | h
    · exact absurd hp h
    · rw [hx] at h; cases h
    · exact h

theorem clear_of {s : State} {g : Group} {i : Instr} (hi : Issuing s g) (h : clears s g i = true) : Clear s g i := by
  unfold clears at h
  split at h
  · cases h
  · exact ⟨_, ‹_›, clearOf_of hi h⟩

/-- Without a batch and without a line at the host no access waits for a table entry, nor for its home (R343, R405). -/
def idleHomes (s : State) : Bool := s.batches.isEmpty && s.host.hostHeld.isEmpty

theorem walkable_of {s : State} {g : Group} (h : idleHomes s = true) (ea : DWord) : Walkable s g ea := by
  unfold Walkable xlateHeld
  exact if_pos h

theorem issuing_base : Issuing base grp := by unfold Issuing threadCount; decide +kernel

/-- Every instruction of the lists above issues in the placed group. -/
theorem witness_clear : ∀ e ∈ shortForms ++ integer ++ floatAndUniform ++ conversionsAndUnary ++ crossLane ++ memory ++ control ++ matrix ++
    fountAndBarriers ++ transactionsAndImpressions ++ ligaturesAndSpecial, Clear base grp e.2 := by
  have h : ∀ e ∈ shortForms ++ integer ++ floatAndUniform ++ conversionsAndUnary ++ crossLane ++ memory ++ control ++ matrix ++
    fountAndBarriers ++ transactionsAndImpressions ++ ligaturesAndSpecial, clears base grp e.2 = true := by decide +kernel
  exact fun e he => clear_of issuing_base (h e he)

theorem witness_guards : GuardAll base grp notP2 ∧ GuardNone base grp isP2 ∧ executing base grp notP2 = List.range 32 ∧
    executing base grp isP2 = [] := by unfold GuardAll GuardNone; decide +kernel

/-- Whether a state of one group issues it, and the instruction in it. -/
def ready (s : State) (g : Group) (i : Instr) : Bool :=
  g.gid == s.iss.gid && !s.iss.active.isEmpty && decide (s.iss.active.Pairwise (· < ·)) &&
  s.iss.active.all (fun k => decide (k < threadCount s g)) && clears s g i

theorem clear_at {s : State} {g : Group} {i : Instr} (h : ready s g i = true) (hg : s.groups = [g] := by rfl) : Clear s g i := by
  simp only [ready, Bool.and_eq_true, beq_iff_eq, Bool.not_eq_true', List.isEmpty_eq_false_iff, decide_eq_true_eq, List.all_eq_true] at h
  refine clear_of ⟨?_, h.1.1.1.2, h.1.1.2, h.1.2⟩ h.2
  simp [State.cur, State.group?, hg, h.1.1.1.1]

/-- Groups whose lanes 1 to 31 hold p2, whose lanes 16 to 31 stand elsewhere, and in a handler. -/
def mixed : Group := lanes fun l x => x.setPred 2 (l != 0)
def half : State := { base with iss := { base.iss with active := List.range 16 } }
def priv : Group := { grp with priv := .handler 0x11 }

/-- A ligature of two helpers of lanes 5 and 6, recruited by lane 0, and the state in which the helpers issue. -/
def ligGroup : Group :=
  let helper := fun n => ({ lane := Lane.reset 0, lender := grp.gid, lendLane := n, claims := 0, partials := [], done := false } : Helper)
  { lanes (fun l x => if l = 0 then { x with st := .suspended } else { x with lent := l == 5 || l == 6 }) with
    lig := some
      { lane := 0, addr := 0, count := 9, claim := 2, helpers := [helper 5, helper 6], u := grp.u, regs := (grp.lane 0).v, life := 7,
        limit := 9 } }
def helpers : State := { put ligGroup with iss := { base.iss with helper := true, active := [0, 1] } }

/-! ### Encodings -/

theorem witness_DecodeEncode : WellFormed (.iadd f3) ∧ (encode (.iadd f3)).isSome = true := by unfold WellFormed; decide +kernel
theorem witness_DecodingChecked : (decode 0x0000 = .ok (.movShort { s := 0, d := 0 }, 2)) ∧
    (0x1001 % 2 = 1 ∧ 0x1001 / 2 % 64 ≠ 0x3E ∧ 0x1001 / 2 ^ 7 % 64 = 32) ∧
    (let b := 0x7D + 2 ^ 32 * 0x1001; b % 2 = 1 ∧ b / 2 % 64 = 0x3E ∧ b / 2 ^ 32 % 2 = 1 ∧ b / 2 ^ 39 % 64 = 32) ∧
    ClearOf base grp ⟨[], false, true⟩ := ⟨rfl, by decide, by decide, clearOf_of issuing_base (by decide +kernel)⟩

/-! ### Conversions, uniform instructions -/

theorem witness_ConversionResults : fmtOfCode 0x2F = some (.int 32 true) ∧ fmtOfCode 0x28 = some .f32 ∧
    Clear base grp (.cvt { m := none, g := notP2, d := 4, a := 6, pos := 0, dst := 0x2F, src := 0x28 }) ∧
    Clear base grp (.cvtpk { m := none, g := notP2, d := 4, a := 6, pos := 1, dst := 0x29, src := 0x28 }) ∧
    Clear base grp (.cvtunpk { m := none, g := notP2, d := 4, a := 6, pos := 1, dst := 0x28, src := 0x29 }) :=
  ⟨by decide, by decide, clear_at (by decide +kernel), clear_at (by decide +kernel), clear_at (by decide +kernel)⟩

theorem witness_helpers : Clear helpers ligGroup (.iadd f3) ∧ executing helpers ligGroup notP2 = [0, 1] ∧
    groupGuardOf (.uadd { m := none, g := notP2, d := 4, a := 6, b := 8 }) = some notP2 := ⟨clear_at (by decide +kernel), by decide +kernel⟩

/-! ### Control flow -/

theorem witness_BranchResults : Clear (put (regs 2 0 0)) (regs 2 0 0) (.brx { g := notP2, a := 6 }) ∧
    (executing (put (regs 2 0 0)) (regs 2 0 0) notP2).filter (fun k => ((regs 2 0 0).lane k).reg 6 |>.getLsbD 0) = [] ∧
    Clear (put (regs 3 0 0)) (regs 3 0 0) (.callx { g := notP2, d := 4, a := 6 }) ∧
    (executing (put (regs 3 0 0)) (regs 3 0 0) notP2).filter (fun k => ((regs 3 0 0).lane k).reg 6 |>.getLsbD 0) ≠ [] :=
  ⟨clear_at (by decide +kernel), by decide +kernel, clear_at (by decide +kernel), by decide +kernel⟩

theorem witness_UniformBranchResults : Clear (put mixed) mixed (.bru { g := notP2, off := 9 }) ∧ (put mixed).iss.helper = false ∧
    ¬ GuardAll (put mixed) mixed notP2 ∧ ¬ GuardNone (put mixed) mixed notP2 ∧
    Clear helpers ligGroup (.bru { g := notP2, off := 9 }) ∧ helpers.iss.helper = true ∧
    Clear base grp (.brd { g := notP2, r := 4, off := 9 }) ∧ ((grp.ureg 4).setWidth 32 + ((9 : BitVec 13).signExtend 32 <<< 1)).getLsbD 0 = false ∧
    (let g := grp.setUreg 4 1; Clear (put g) g (.brd { g := notP2, r := 4, off := 9 }) ∧ GuardAll (put g) g notP2 ∧
      ((g.ureg 4).setWidth 32 + ((9 : BitVec 13).signExtend 32 <<< 1)).getLsbD 0 = true) := by
  unfold GuardAll GuardNone
  exact ⟨clear_at (by decide +kernel), by decide +kernel, by decide +kernel, by decide +kernel, clear_at (by decide +kernel), rfl,
    clear_at (by decide +kernel), by decide +kernel, clear_at (by decide +kernel), by decide +kernel⟩

/-- A group with these stack entries, the top one first. -/
def stacked (es : List (BitVec 32 × Word)) : Group := { grp with stack := es }
def all : BitVec 32 := BitVec.allOnes 32

theorem witness_stack_mask : ∀ i, i < 32 → (all.getLsbD i = true ↔ i ∈ base.iss.active) := by decide +kernel
theorem witness_SplitResults : ∀ n ∈ [0, 15, 16], let g := stacked (List.replicate n (all, 18))
    Clear (put g) g (.split { g := notP2, off := 9 }) ∧ GuardAll (put g) g notP2 := by
  unfold GuardAll
  have h : ∀ n ∈ [0, 15, 16], ready (put (stacked (List.replicate n (all, 18)))) (stacked (List.replicate n (all, 18)))
    (.split { g := notP2, off := 9 }) = true := by decide +kernel
  exact fun n hn => ⟨clear_at (h n hn), by revert n; decide +kernel⟩
theorem witness_StackResults : ∀ e ∈ [[], [(all, 0)], [(all, 18)], [(1, 0)]], let g := stacked e
    Clear (put g) g (.wait { g := notP2 }) ∧ Clear (put g) g (.join { g := notP2 }) ∧ GuardAll (put g) g notP2 := by
  unfold GuardAll
  have h : ∀ e ∈ [[], [(all, 0)], [(all, 18)], [(1, 0)]], ready (put (stacked e)) (stacked e) (.wait { g := notP2 }) = true ∧
    ready (put (stacked e)) (stacked e) (.join { g := notP2 }) = true := by decide +kernel
  exact fun e he => ⟨clear_at (h e he).1, clear_at (h e he).2, by revert e; decide +kernel⟩
/-- A top entry that releases its lanes, one that does not, and lane 0 leaving the entries, on top of which one is left empty. -/
theorem witness_StackReleases :
    (let g := { lanes fun l x => { x with st := if l = 3 then .exited else .parked, pc := 18 } with stack := [(all, 18)] }
     (releaseTop g).stack = [(all, 18)] ∧ ((releaseTop g).lane 0).pc = 22 ∧
      ∀ i, i < 32 → ((g.lane i).st = .parked ∧ (g.lane i).pc = 18) ∨ (g.lane i).st = .exited) ∧
    all.getLsbD 0 = true ∧ ((stacked [(all, 18)]).lane 0).st ≠ .parked ∧ ((stacked [(all, 18)]).lane 0).st ≠ .exited ∧
    (∀ i, i < 32 → ((1 : BitVec 32).getLsbD i = true ↔ i ∈ [0])) ∧
    (clearLanes (stacked [(1, 18), (3, 40)]) [0]).stack = [(2, 40)] := by decide +kernel

/-- A lane in a transaction, and one in an iteration; a walk of lane 0 that has not ended. -/
def inTx : Group := lanes fun l x => if l = 3 then { x with tx := { Tx.reset with isOpen := true, depth := 1, path := 64 } } else x
def inIter : Group := lanes fun l x => if l = 3 then { x with tx := { Tx.reset with spec := true, domain := 0x3000 } } else x
def opOf (k : MemKind) : MemOp :=
  { kind := k, pc := 0, len := 4, seq := 0, helper := false, threads := [{ t := 0, ea := 0, data := 0, cmp := 0 }], size := 4, order := 0,
    scope := 0, dst := 4, num := 0, handle := 0, fails := [], active := [0], tr := base.now grp }
/-- A handle of 256 by 0x28 elements whose base lies in no page, and a FETCH of it by lane 0. -/
def farEntry : Nat := 0x4000 + 2 ^ 56 + 2 ^ 64 * 64 + 2 ^ 96 * 2 + 2 ^ 128 * 256 + 2 ^ 160 * 0x28 + 2 ^ 168 * 0x28
def fetching : Group := { grp with fl := { grp.fl with fetches := [{ opOf .fetch with handle := farEntry }] } }

theorem witness_ExitResults : Clear (put inTx) inTx (.exit { g := notP2 }) ∧ GuardAll (put inTx) inTx notP2 ∧
    (put inTx).iss.active.filter (fun l => (inTx.lane l).inTx) = [3] ∧
    Clear (put fetching) fetching (.exit { g := notP2 }) ∧ GuardAll (put fetching) fetching notP2 ∧
    (put fetching).iss.active.filter (fun l => (fetching.lane l).inTx) = [] ∧ untranslated (put fetching) fetching base.iss.active = true ∧
    Clear base grp (.exit { g := notP2 }) ∧ untranslated base grp base.iss.active = false ∧ (exitFault base grp).isNone = true ∧
    engineUntranslated base grp = false ∧
    Clear helpers ligGroup (.exit { g := notP2 }) ∧ executing helpers ligGroup notP2 ≠ [] ∧
    untranslated helpers ligGroup (executing helpers ligGroup notP2) = false ∧ (flushBlocked helpers grp.gid grp.core (onL 1)).isNone = true := by
  unfold GuardAll
  exact ⟨clear_at (by decide +kernel), by decide +kernel, by decide +kernel, clear_at (by decide +kernel), by decide +kernel,
    by decide +kernel, by decide +kernel, clear_at (by decide +kernel), by decide +kernel, by decide +kernel, by decide +kernel,
    clear_at (by decide +kernel), by decide +kernel⟩

theorem witness_NopYieldRegion : Clear half grp (.region { g := notP2 }) ∧ GuardAll half grp notP2 ∧ grp.stack = [] ∧
    (∃ l, l < 32 ∧ (grp.lane l).st ≠ .exited ∧ l ∉ half.iss.active) ∧
    (∀ l, l < 32 → (grp.lane l).st ≠ .exited → l ∈ base.iss.active) := by
  unfold GuardAll
  exact ⟨clear_at (by decide +kernel), by decide +kernel, by decide +kernel, ⟨20, by decide +kernel⟩, by decide +kernel⟩

theorem witness_GroupGuard : Clear (put mixed) mixed (.split { g := notP2, off := 9 }) ∧ groupGuardOf (.split { g := notP2, off := 9 }) =
    some notP2 ∧ ¬ GuardNone (put mixed) mixed notP2 ∧ ¬ GuardAll (put mixed) mixed notP2 ∧
    Clear base grp (.split { g := isP2, off := 9 }) ∧ GuardNone base grp isP2 ∧ checksTx (.split { g := isP2, off := 9 }) = false ∧
    checksTx (.bara { g := notP2, level := 1, num := 3 }) = true ∧
    Clear (put inTx) inTx (.bara { g := notP2, level := 1, num := 3 }) ∧
    (executing (put inTx) inTx notP2).filter (fun l => (inTx.lane l).inTx) = [3] := by
  unfold GuardAll GuardNone
  exact ⟨clear_at (by decide +kernel), rfl, by decide +kernel, by decide +kernel, clear_at (by decide +kernel), by decide +kernel, rfl, rfl,
    clear_at (by decide +kernel), by decide +kernel⟩

/-! ### Issue checks -/

def few : Group := { grp with nregs := 8 }
theorem witness_IllegalRegisters : (put few).cur = some few ∧ needs (.iadd f3) = some ⟨usesA f3, true, true⟩ ∧
    ∃ u ∈ usesA f3, u.legal false few.nregs = false := by decide +kernel
theorem witness_HelperFault : helpers.cur = some ligGroup ∧ needs (.split { g := notP2, off := 9 }) = some ⟨[], true, false⟩ ∧
    helpers.iss.helper = true ∧ executing helpers ligGroup (issueGuard helpers) ≠ [] := by decide +kernel

def loadOf (dst : Nat) : Load :=
  { helper := false, dst := dst, pair := false, vals := [{ t := 0, val := 5 }], pc := 0, len := 4, bad := [], cls := 0, seq := 0 }
def loading : Group := { grp with fl := { grp.fl with loads := [loadOf 4] } }
theorem witness_ScoreboardWaits : (put loading).cur = some loading ∧ needs (.iadd f3) = some ⟨usesA f3, true, true⟩ ∧
    (∀ u ∈ usesA f3, u.legal false loading.nregs = true) ∧ (loading.fl.opLog = [] ∧ ∀ u ∈ usesA f3, loggedUse loading u = false) ∧
    (failedUse loading false (usesA f3)).isNone = true ∧ (∃ u ∈ usesA f3, heldUse (put loading) loading false u = true) ∧
    (∃ u ∈ usesA f3, 3 ∈ busyReasons (put loading) loading false u) ∧
    (let g : Group := { grp with fl := { grp.fl with ldvs := [opOf .ldv] } }; (put g).cur = some g ∧
      (∃ u ∈ usesA f3, heldUse (put g) g false u = true ∧ waitUse g false u = true)) := by decide +kernel

def logged : Group := { grp with fl := { grp.fl with opLog := [opOf (.ld false)] } }
theorem witness_OperandLogStops : (put logged).cur = some logged ∧ logged.priv = .user ∧ (put logged).iss.helper = false ∧
    needs (.iadd f3) = some ⟨usesA f3, true, true⟩ ∧ (∀ u ∈ usesA f3, u.legal false logged.nregs = true) ∧
    (∃ u ∈ usesA f3, loggedUse logged u = true) ∧
    needs (.region { g := notP2 }) = some ⟨[], false, false⟩ ∧ logged.fl.opLog ≠ [] := by decide +kernel

/-! ### Exceptions -/

/-- Context 0's vector at 0x20000 with a valid entry for class 0x11, without a code base of its own, and its fault ring full. -/
def vectored : State := { base with
  mem := bytesPut base.mem 0x20110 (leBytes 16 (0x8000 + 2 ^ 96)), ctxs := vset base.ctxs 0 { base.ctx 0 with vector := 0x20000, head := 128 } }
def trapped : Raise :=
  { cls := 0x11, code := 7, addr := 0, len := 4, deferred := false, write := false, mask := all, vas := [], seq := 0, recPc := 0, recVa := 0,
    helper := none, helperPc := 0, info := 0 }

theorem witness_HandlerEntry : vectored.group? grp.gid = some grp ∧ grp.priv = .user ∧ (grp.fl.pend = none ∧ grp.lig = none) ∧
    vectored.batches = [] ∧ (∀ m ∈ grp.fl.walks, m.helper = false) ∧ (∀ l, l < 32 → (grp.lane l).lent = false ∧ (grp.lane l).tx.isOpen = false ∧ (grp.lane l).tx.spec = false) ∧
    lentAway vectored grp.gid = false ∧ vectorEntry vectored grp trapped.cls = .ok 0x8000 0 :=
  ⟨by decide +kernel, rfl, ⟨rfl, rfl⟩, rfl, by decide +kernel⟩

/-- The user program's group of the largest stack, and handlers whose trap state ERET takes and does not take. -/
theorem witness_EretUndoesEntry : (stacked (List.replicate 16 (all, 18))).stack.length ≤ 16 ∧
    ∀ l, l < 32 → ((stacked (List.replicate 16 (all, 18))).lane l).st ≠ .suspended := by decide +kernel

def deep : Group := { priv with trap := { priv.trap with tdepth := 17 } }
/-- A handler with a FETCH of its own on its way. -/
def fetchingPriv : Group := { priv with fl := fetching.fl }
theorem witness_EretResults : (Clear base grp (.eret { g := notP2 }) ∧ Clear (put priv) priv (.eret { g := notP2 }) ∧
      Clear (put deep) deep (.eret { g := notP2 }) ∧ Clear (put fetchingPriv) fetchingPriv (.eret { g := notP2 })) ∧
    (∀ p ∈ [Priv.save, .restore], let g : Group := { grp with priv := p }; Clear (put g) g (.eret { g := notP2 })) ∧
    grp.priv = .user ∧ GuardAll base grp notP2 ∧ priv.priv = .handler 0x11 ∧ eretOk (put priv) priv = true ∧ openOps priv = none ∧
    openOps fetchingPriv = some 11 ∧ deep.priv = .handler 0x11 ∧ eretOk (put deep) deep = false ∧ openOps deep = none ∧
    (let g : Group := { grp with priv := .save }; (flushBlocked (put g) g.gid g.core (onBoth 3)).isNone = true ∧
      (copyFault (put g) g fun _ => true).isNone = true ∧ handlerBusy (put g) g = false ∧
      (g.fl.walks = [] ∧ g.fl.loads = [] ∧ g.fl.fetches = [])) ∧
    (let g : Group := { grp with priv := .restore }; eretOk (put g) g = true ∧ openOps g = none) := by
  unfold GuardAll
  have h : ∀ p ∈ [Priv.save, .restore], ready (put { grp with priv := p }) { grp with priv := p } (.eret { g := notP2 }) = true := by
    decide +kernel
  exact ⟨⟨clear_at (by decide +kernel), clear_at (by decide +kernel), clear_at (by decide +kernel), clear_at (by decide +kernel)⟩,
    fun p hp => clear_at (h p hp), by decide +kernel⟩

/-! ### Registers -/

theorem witness_SpecialRegisters : (base.launch? grp.lid).any (fun l => decide (0 < l.lr.gx ∧ 0 < l.lr.gy)) = true := by decide +kernel

/-- sys.vector is privileged, sys.codebase is not. -/
theorem witness_SysReads : Clear base grp (.sysr { g := notP2, d := 4, s := 0x146 }) ∧ sysPriv 0x146 = true ∧
    executing base grp notP2 ≠ [] ∧ executing base grp isP2 = [] ∧ Clear (put priv) priv (.sysr { g := notP2, d := 4, s := 0x146 }) ∧
    priv.priv ≠ .user ∧ Clear base grp (.sysr { g := notP2, d := 4, s := 0x110 }) ∧ sysPriv 0x110 = false :=
  ⟨clear_at (by decide +kernel), by decide +kernel, by decide +kernel, by decide +kernel, clear_at (by decide +kernel), by decide +kernel,
    clear_at (by decide +kernel), by decide +kernel⟩

theorem witness_SysWrites : Clear (put priv) priv (.sysw { g := notP2, a := 6, s := 0x146 }) ∧ sysLane 0x146 = false ∧
    Clear base grp (.sysw { g := notP2, a := 6, s := 0x110 }) ∧ sysLane 0x110 = true ∧ sysPriv 0x110 = false ∧
    Clear (put priv) priv (.syswHeapWindow { g := notP2, a := 6, which := 2 }) ∧ grp.fl.walks = [] ∧ sysPriv 0x103 = true ∧
    Clear (put priv) priv (.syswPred { g := notP2, a := 6 }) ∧ base.group? grp.gid = some grp ∧ grp.ctx < 64 :=
  ⟨clear_at (by decide +kernel), by decide +kernel, clear_at (by decide +kernel), by decide +kernel, by decide +kernel,
    clear_at (by decide +kernel), by decide +kernel, by decide +kernel, clear_at (by decide +kernel), by decide +kernel⟩

/-- The save and the restore handler, with an image base in V6 and V7: aligned, not aligned, and beyond the mapped addresses. -/
def saving (p : Priv) (a : Word) : Group := { regs a 0 0 with priv := p }
def savingFar : Group := (saving .save 0x40000).mapLanes fun _ x => x.setReg 7 0x01000000
def imageAt : List DWord := imageAddrs 0x40000 [(0, 4096)]
/-- An image of a group at the mapped address can be written, or loaded. -/
def imageOpen (p : Priv) (write : Bool) : Prop :=
  let g := saving p 0x40000
  let s := put g
  (executing s g notP2 ≠ [] ∧ (g.lane 0).pair 6 = 0x40000) ∧ idleHomes s = true ∧ (imageFault s g write imageAt).isNone = true ∧ imageSwitching s g imageAt = false ∧ (flushBlocked s g.gid g.core (onBoth 3)).isNone = true ∧
  (∀ i ∈ bankWriters s g, (flushBlocked s i g.core (onBoth 3)).isNone = true) ∧
  (imagePlaces s g write imageAt).map (·.1) = (List.range 128).map (fun k => .mem (0x40000 + 32 * k)) ∧
  (∀ k, k < 128 → let p : Place := .mem (0x40000 + 32 * k)
    imageWaits s g write p = false ∧ poisonedAt s p 32 = false ∧ linkCode s p ≠ some 2) ∧
  engineStopping s g = none ∧ engineTaken s g = none
theorem witness_imageOpen : imageOpen .save true ∧ imageOpen .restore false := by unfold imageOpen; decide +kernel
theorem witness_ImageRegisters :
    (∀ i ∈ [Instr.syswGsave { g := notP2, a := 6 }, .syswBsave { g := notP2, a := 6 }, .syswEsave { g := notP2, a := 6 }],
      Clear (put (saving .save 0x40000)) (saving .save 0x40000) i) ∧
    (∀ i ∈ [Instr.syswGload { g := notP2, a := 6 }, .syswBload { g := notP2, a := 6 }, .syswEload { g := notP2, a := 6 },
      .syswBsave { g := notP2, a := 6 }], Clear (put (saving .restore 0x40000)) (saving .restore 0x40000) i) ∧
    Clear (put (saving .save 0x40001)) (saving .save 0x40001) (.syswEsave { g := notP2, a := 6 }) ∧
    Clear (put savingFar) savingFar (.syswGsave { g := notP2, a := 6 }) ∧
    ((savingFar.lane 0).pair 6 = 0x0100000000040000 ∧
      (imageFault (put savingFar) savingFar true (imageAddrs 0x0100000000040000 [(0, 4096)])).isSome = true ∧ idleHomes (put savingFar) = true) := by
  have h : ∀ i ∈ [Instr.syswGsave { g := notP2, a := 6 }, .syswBsave { g := notP2, a := 6 }, .syswEsave { g := notP2, a := 6 }],
    ready (put (saving .save 0x40000)) (saving .save 0x40000) i = true := by decide +kernel
  have h' : ∀ i ∈ [Instr.syswGload { g := notP2, a := 6 }, .syswBload { g := notP2, a := 6 }, .syswEload { g := notP2, a := 6 },
    .syswBsave { g := notP2, a := 6 }], ready (put (saving .restore 0x40000)) (saving .restore 0x40000) i = true := by decide +kernel
  exact ⟨fun i hi => clear_at (h i hi), fun i hi => clear_at (h' i hi), clear_at (by decide +kernel), clear_at (by decide +kernel), by decide +kernel⟩

/-- A page copy from frame 0x40000, of one line that is copied or not. -/
def migrating (copied : Bool) : State :=
  { put (saving (.handler 6) 0x40000) with migr := [{ core := 0, gid := 9, seq := 1, lines := [(0x400, 0x800, copied)] }] }
theorem witness_MigrelResults : ∀ c ∈ [true, false],
    Clear (migrating c) (saving (.handler 6) 0x40000) (.syswMigrel { g := notP2, a := 6 }) ∧ (saving (.handler 6) 0x40000).priv ≠ .user ∧
    executing (migrating c) (saving (.handler 6) 0x40000) notP2 ≠ [] ∧ inFrame 0x40000 0x400 = true ∧
    pinnedIn (migrating c) 0x40000 = false ∧ (∀ e ∈ (migrating c).sq ++ (migrating c).wp, ∀ p ∈ e.places,
      writeWaits (migrating c) ((migrating c).detTag e.lid e.bidx) p 1 = false) ∧
    (let l : Leaf := { base := 0x40000, bits := 13, r := true, w := true, x := false, u := true, home := 0, galley := none, peer := 0, entry := 0 }
     let g : Group := { grp with fl := { grp.fl with ldvs := [{ opOf .ldv with tr := { base.now grp with leaves := [(0x40000, l)] } }] } }
     pinnedIn (put g) 0x40000 = true) := by
  have h : ∀ c ∈ [true, false], ready (migrating c) (saving (.handler 6) 0x40000) (.syswMigrel { g := notP2, a := 6 }) = true := by
    decide +kernel
  exact fun c hc => ⟨clear_at (h c hc), by revert c; decide +kernel⟩

/-! ### Barriers -/

def bar1 : BarForm := { g := notP2, level := 1, num := 15 }
theorem witness_BarReady : BarReady base grp 1 15 ∧ BarReady base grp 0 1 ∧ BarReady base grp 2 7 ∧ BarReady base grp 3 3 := by
  unfold BarReady
  exact ⟨⟨by decide +kernel, by decide +kernel, placedLaunch 1, by decide +kernel⟩,
    ⟨by decide +kernel, by decide +kernel, placedLaunch 1, by decide +kernel⟩,
    ⟨by decide +kernel, by decide +kernel, placedLaunch 1, by decide +kernel⟩,
    ⟨by decide +kernel, by decide +kernel, placedLaunch 1, by decide +kernel⟩⟩

theorem witness_BarrierChecks : Clear (put inTx) inTx (.bara bar1) ∧ GuardAll (put inTx) inTx notP2 ∧
    (put inTx).iss.active.filter (fun l => (inTx.lane l).inTx) ≠ [] ∧
    Clear half grp (.bara bar1) ∧ half.iss.active.filter (fun l => (grp.lane l).inTx) = [] ∧ ((grp.lane 16).st ≠ .exited ∧ 16 ∉ half.iss.active) ∧
    (base.launch? grp.lid).map (fun l => barrierCount l 0) = some 2 := by
  unfold GuardAll
  exact ⟨clear_at (by decide +kernel), by decide +kernel, by decide +kernel, clear_at (by decide +kernel), by decide +kernel⟩

/-- Block barrier 15 with the group's arrival in phase 2 while phase p is open, and group barrier 1 with that of every lane. -/
def arrived (p : Nat) (here : List Nat) : State :=
  let bar := fun ms => ({ Bar.reset with phase := p, arrived := here.map fun m => { member := m, bars := false, at_ := 0 }, arr := ms } : Bar)
  let g := { grp with gbar := vset grp.gbar 1 (bar ((List.range 32).map fun l => (l, 2))) }
  { put g with blocks := base.blocks.map fun b => { b with bars := vset b.bars 15 (bar [(0, 2)]) } }
def arrivedG (p : Nat) (here : List Nat) : Group := ((arrived p here).groups.head?).getD grp

theorem witness_ArrivalResults : Clear base grp (.bara bar1) ∧ (barOf base grp 1 15).arrived.any (fun a => a.member == 0) = false ∧
    (flushBlocked base grp.gid grp.core (onL 1)).isNone = true ∧
    Clear (arrived 2 [0]) (arrivedG 2 [0]) (.bara bar1) ∧ (barOf (arrived 2 [0]) grp 1 15).arrived.any (fun a => a.member == 0) = true :=
  ⟨clear_at (by decide +kernel), by decide +kernel, by decide +kernel, clear_at (by decide +kernel), by decide +kernel⟩

theorem witness_BarrierPhase : BarExists base grp 0 1 ∧ BarExists base grp 1 15 ∧ BarExists base grp 2 7 ∧ BarExists base grp 3 3 ∧
    (∀ m ∈ barMembers base grp 1, m ∈ [0]) ∧ (¬ ∀ m ∈ barMembers base grp 0, m ∈ [0]) ∧ (barOf base grp 1 15).count ≤ 0 := by
  simp only [BarExists]
  decide +kernel

theorem witness_WaitResults :
    (∀ p ∈ [2, 3], ∀ f ∈ ([{ g := notP2, mx := false, level := 0, num := 1 }, { g := notP2, mx := true, level := 0, num := 1 },
        { g := notP2, mx := false, level := 1, num := 15 }] : List BarwForm),
      Clear (arrived p []) (arrivedG p []) (.barw f) ∧ GuardAll (arrived p []) (arrivedG p []) notP2) ∧
    arrPhase (barOf (arrived 2 []) (arrivedG 2 []) 0 1) 31 = some 2 ∧ arrPhase (barOf (arrived 2 []) (arrivedG 2 []) 1 15) 0 = some 2 ∧
    (∀ f ∈ ([{ g := notP2, level := 0, num := 1, p := 3 }, { g := notP2, level := 1, num := 15, p := 3 }] : List BarsForm),
      Clear base grp (.bars f)) ∧ (∀ l ∈ base.iss.active, arrivedNow (barOf base grp 0 1) l = false) ∧
    (∀ l ∈ barMembers base grp 0, l ∈ base.iss.active) ∧ barCopyFault base grp 1 15 = none ∧
    ((flushBlocked base grp.gid grp.core (onL 1)).isNone = true ∧ arrPhase (barOf base grp 1 15) 0 = none) ∧
    (∀ f ∈ ([{ g := notP2, level := 0, num := 1, p := 3 }, { g := notP2, level := 1, num := 15, p := 3 }] : List BarsForm),
      Clear (arrived 2 [0]) (arrivedG 2 [0]) (.bars f)) ∧
    (∀ v ∈ [0, 1], arrivedNow (barOf (arrived 2 [0]) (arrivedG 2 [0]) v (1 + 14 * v)) 0 = true) ∧
    Clear half grp (.bars { g := notP2, level := 0, num := 1, p := 3 }) ∧ GuardAll half grp notP2 ∧
    (20 ∈ barMembers half grp 0 ∧ 20 ∉ half.iss.active ∧ arrivedNow (barOf half grp 0 1) 20 = false) := by
  unfold GuardAll
  have h : ∀ p ∈ [2, 3], ∀ f ∈ ([{ g := notP2, mx := false, level := 0, num := 1 }, { g := notP2, mx := true, level := 0, num := 1 },
      { g := notP2, mx := false, level := 1, num := 15 }] : List BarwForm), ready (arrived p []) (arrivedG p []) (.barw f) = true := by
    decide +kernel
  have h' : ∀ f ∈ ([{ g := notP2, level := 0, num := 1, p := 3 }, { g := notP2, level := 1, num := 15, p := 3 }] : List BarsForm),
      ready base grp (.bars f) = true ∧ ready (arrived 2 [0]) (arrivedG 2 [0]) (.bars f) = true := by decide +kernel
  exact ⟨fun p hp f hf => ⟨clear_at (h p hp f hf), by revert p; decide +kernel⟩, by decide +kernel, by decide +kernel,
    fun f hf => clear_at (h' f hf).1, by decide +kernel, by decide +kernel, by decide +kernel, by decide +kernel,
    fun f hf => clear_at (h' f hf).2, by decide +kernel, clear_at (by decide +kernel), by decide +kernel⟩

/-- U4 holds n. -/
def counting (n : Nat) : Group := grp.setUreg 4 (BitVec.ofNat 64 n)
theorem witness_ByteCountResults : ∀ n ∈ [0, 0xFFFFFFFFFF, 0x10000000000],
    Clear (put (counting n)) (counting n) (.barc { g := notP2, level := 1, num := 15, s := 4 }) ∧
    ((counting n).ureg 4).toNat = n ∧ (barOf (put (counting n)) (counting n) 1 15).count = 0 := by
  have h : ∀ n ∈ [0, 0xFFFFFFFFFF, 0x10000000000],
    ready (put (counting n)) (counting n) (.barc { g := notP2, level := 1, num := 15, s := 4 }) = true := by decide +kernel
  exact fun n hn => ⟨clear_at (h n hn), by revert n; decide +kernel⟩

/-! ### Memory -/

/-- Whether an access reaches a place. -/
def reaches (s : State) (g : Group) (need : Need) (n : Nat) (ea : DWord) (p : Place) : Bool :=
  decide (ea.toNat % n = 0) && idleHomes s && (match xlate s g need ea with
    | .ok x => decide (x.place = p)
    | .error _ => false) && (match classify s g ea with
    | .caseAt c k _ _ => scratchAt s c k && (s.bank c k).switch.isNone
    | _ => true)

theorem reaches_of {s : State} {g : Group} {need : Need} {n : Nat} {ea : DWord} {p : Place} (h : reaches s g need n ea p = true) :
    Reaches s g need n ea p := by
  simp only [reaches, Bool.and_eq_true, decide_eq_true_eq] at h
  refine ⟨h.1.1.1, walkable_of h.1.1.2 ea, ?_, fun c k o own hc => ?_⟩
  · have h2 := h.1.2
    split at h2
    · exact ⟨_, ‹_›, by simpa using h2⟩
    · cases h2
  · have h3 := h.2
    rw [hc] at h3
    simpa using h3

/-- Lanes 0 and 31 alone active; V6 and V7 hold an address, V10 and V11 a second one. -/
def two (g : Group) : State := { put g with iss := { base.iss with active := [0, 31] } }
def addr (lo hi : Word) : Group := lanes fun l x => (((x.setReg 6 lo).setReg 7 hi).setReg 10 1).setReg 4 (BitVec.ofNat 32 (7 + l))
def at100 : Group := addr 0x100 0
/-- The block owns banks 2 and 3 in scratchpad mode; bank 2 is at the start of the Case, at 2^57 - 2^24. -/
def cased (s : State) (md : BankMode) (fifo : List Word) : State :=
  { s with
    blocks := base.blocks.map fun b => { b with banks := [2, 3] },
    clusters := [(0, { Cluster.reset with banks := [2, 3].map fun k => (k, { Bank.reset with mode := md, owner := some 2, fifo := fifo }) })] }
def atCase : Group := addr 0xFF000040 0x01FFFFFF

theorem witness_Direct : Direct (two at100) at100 ∧ Unlogged (two at100) at100 notP2 ∧ executing (two at100) at100 notP2 = [0, 31] ∧
    (two at100).groupTag at100 = none := by
  unfold Direct Unlogged
  exact ⟨⟨by decide +kernel, by decide +kernel, by decide +kernel, by decide +kernel, by decide +kernel, by decide +kernel, fun _ _ h => by cases h⟩,
    by decide +kernel⟩

theorem witness_LoadResults : Clear (two at100) at100 (.ld (ldOf 2)) ∧ (∀ k ∈ [0, 31], Reaches (two at100) at100 (readNeed at100) 4
      (pairA at100 none (threadLane (two at100) at100 k) 6 + (0 : Word).signExtend 64) (.mem 0x100)) ∧
    waitsHome (two at100) (.mem 0x100) 4 false = false ∧ redPending (two at100) at100.gid (.mem 0x100) 4 = false ∧
    poisonedAt (two at100) (.mem 0x100) 4 = false ∧ linkCode (two at100) (.mem 0x100) ≠ some 2 := by
  have h : ∀ k ∈ [0, 31], reaches (two at100) at100 (readNeed at100) 4
    (pairA at100 none (threadLane (two at100) at100 k) 6 + (0 : Word).signExtend 64) (.mem 0x100) = true := by decide +kernel
  exact ⟨clear_at (by decide +kernel), fun k hk => reaches_of (h k hk), by decide +kernel⟩

theorem witness_StoreResults : Clear (two at100) at100 (.st (ldOf 2)) ∧ (∀ k ∈ [0, 31], Reaches (two at100) at100 (writeNeed at100) 4
      (pairA at100 none (threadLane (two at100) at100 k) 6 + (0 : Word).signExtend 64) (.mem 0x100)) ∧
    Clear (cased (two atCase) .scratch []) atCase (.st (ldOf 3)) ∧ ∀ k ∈ [0, 31], Reaches (cased (two atCase) .scratch []) atCase
      (writeNeed atCase) 8 (pairA atCase none (threadLane (cased (two atCase) .scratch []) atCase k) 6 + (0 : Word).signExtend 64)
      (.case 0x20040) := by
  have h : ∀ k ∈ [0, 31], reaches (two at100) at100 (writeNeed at100) 4
    (pairA at100 none (threadLane (two at100) at100 k) 6 + (0 : Word).signExtend 64) (.mem 0x100) = true := by decide +kernel
  have h' : ∀ k ∈ [0, 31], reaches (cased (two atCase) .scratch []) atCase (writeNeed atCase) 8
    (pairA atCase none (threadLane (cased (two atCase) .scratch []) atCase k) 6 + (0 : Word).signExtend 64) (.case 0x20040) = true := by
    decide +kernel
  exact ⟨clear_at (by decide +kernel), fun k hk => reaches_of (h k hk), clear_at (by decide +kernel), fun k hk => reaches_of (h' k hk)⟩

def redOf : RedForm := { m := none, g := notP2, d := 4, b := 6, size := 2, order := 0, scope := 3, u := false, op := 0 }
theorem witness_AtomicResults : Clear (two at100) at100
      (.atom { m := none, g := notP2, d := 4, b := 6, size := 2, order := 3, scope := 4, val := 10, u := false, op := 0 }) ∧
    Clear (two at100) at100 (.red redOf) ∧
    (∀ k ∈ [0, 31], Reaches (two at100) at100 (rmwNeed at100) 4 (pairA at100 none (threadLane (two at100) at100 k) 6) (.mem 0x100) ∧
      Reaches (two at100) at100 (writeNeed at100) 4 (pairA at100 none (threadLane (two at100) at100 k) 6) (.mem 0x100)) ∧
    (two at100).groupTag at100 = none ∧ (flushBlocked (two at100) at100.gid at100.core fun x => if x then 0 else 4).isNone = true ∧ inHbm 0x100 = true ∧
    waitsHome (two at100) (.mem 0x100) 4 true = false ∧ poisonedAt (two at100) (.mem 0x100) 4 = false := by
  have h : ∀ k ∈ [0, 31], reaches (two at100) at100 (rmwNeed at100) 4 (pairA at100 none (threadLane (two at100) at100 k) 6) (.mem 0x100) =
    true ∧ reaches (two at100) at100 (writeNeed at100) 4 (pairA at100 none (threadLane (two at100) at100 k) 6) (.mem 0x100) = true := by
    decide +kernel
  exact ⟨clear_at (by decide +kernel), clear_at (by decide +kernel), fun k hk => ⟨reaches_of (h k hk).1, reaches_of (h k hk).2⟩,
    by decide +kernel⟩

def odd1 : Group := addr 0x102 0
theorem witness_AlignmentFaults : Clear (two odd1) odd1 (.red redOf) ∧ classify (two odd1) odd1 0x102 = .paged ∧
    (executing (two odd1) odd1 notP2).filter (fun k => (pairA odd1 none (threadLane (two odd1) odd1 k) 6).toNat % 4 != 0) ≠ [] :=
  ⟨clear_at (by decide +kernel), by decide +kernel⟩

/-- Where two clauses of the address classes meet. -/
theorem witness_AddressClasses : let top := 2 ^ 57 - 2 ^ 24
    (∀ a ∈ [0, top - 1], a < top) ∧ (∀ a ∈ [top, top + 2 ^ 22 - 1], top ≤ a ∧ a < top + 2 ^ 22) ∧
    (∀ a ∈ [top + 2 ^ 22, top + 2 ^ 23 - 1], top + 2 ^ 22 ≤ a ∧ a < top + 2 ^ 23) ∧
    (∀ a ∈ [top + 2 ^ 23, 2 ^ 57 - 1], top + 2 ^ 23 ≤ a ∧ a < 2 ^ 57) ∧ (base.block? grp.bid).isSome = true ∧
    clusterViewOk base grp 0 = false := by decide +kernel

/-- The placed tables: a pointer at level 4 and 3, a leaf at level 2, and an entry that is not valid. -/
theorem witness_PageWalk : physNum base placedRoot 8 = placedMid + 1 ∧ inHbm placedMid = true ∧ physNum base placedLeaf 8 = 0x3F ∧
    physNum base (placedRoot + 8) 8 % 2 = 0 ∧ (match leafOf 0x3F 2 with
      | .ok l => l.bits == 33
      | .error _ => false) = true := by decide +kernel

/-- V6 and V7 hold an address beyond the mapped ones, V10 the length of a range; in user code and in a handler. -/
def unmapped : Group := (addr 0x100 0x01000000).mapLanes fun _ x => x.setReg 10 64
def unmappedPriv : Group := { unmapped with priv := .handler 6 }
/-- Each memory instruction of R386, at that address. -/
def walkers : List Instr :=
  let a : AtomForm := { m := none, g := notP2, d := 4, b := 6, size := 2, order := 0, scope := 3, val := 10, u := false, op := 0 }
  let x : MemDForm := { m := none, g := notP2, d := 4, b := 6, size := 2, order := 0, scope := 0, disp := 4 }
  [.ld (ldOf 2), .ldDisp x, .ldSext x, .st (ldOf 2), .stDisp x, .atom a,
   .atomCas { m := none, g := notP2, d := 4, b := 6, size := 2, order := 0, scope := 3, val := 10, cmp := 8 }, .red redOf,
   .cwb { m := none, g := notP2, scope := 3, b := 6 }, .cinv { m := none, g := notP2, b := 6 },
   .ldv { g := notP2, d := 4, b := 6, size := 2, n := 12 }, .stv { g := notP2, d := 4, b := 6, size := 2, n := 12 },
   .vprobe { g := notP2, d := 4, b := 6, n := 12 }, .sealv { g := notP2, d := 10, b := 6, n := 12 },
   .floorv { g := notP2, d := 10, b := 6, n := 12 }]
theorem witness_TranslationFaults : ∀ g ∈ [unmapped, unmappedPriv], (∀ i ∈ walkers, Clear (two g) g i) ∧
    (openOps g = none ∧ idleHomes (two g) = true) ∧ (∀ k ∈ [0, 31], (threadLane (two g) g k).pair 6 = 0x0100000000000100 ∧ ((threadLane (two g) g k).reg 10).toNat = 64) ∧
    rangePages 0x0100000000000100 64 = [0x0100000000000100] ∧ ∀ k ∈ [0, 4], let a : DWord := 0x0100000000000100 + BitVec.ofNat 64 k
      classify (two g) g a = .paged ∧ ∀ n ∈ [readNeed g, writeNeed g, rmwNeed g, impNeed false g, impNeed true g],
        (xlate (two g) g n a matches .error .translation) = true := by
  have h : ∀ g ∈ [unmapped, unmappedPriv], ∀ i ∈ walkers, ready (two g) g i = true := by decide +kernel
  exact fun g hg => ⟨fun i hi => clear_at (h g hg i hi), by revert g; decide +kernel⟩

theorem witness_HomeWrites : ([(0, (5 : Byte)), (31, 6)].map (·.1)).Nodup ∧ (∀ x ∈ [(0, (5 : Byte)), (31, 6)], 0x100 % 32 + x.1 < 32) ∧
    fenced base (redirect base 0x100) = false := by decide +kernel


theorem witness_FenceResults : ∀ s ∈ [0, 1, 2, 3, 4], Clear base grp (.fence { m := none, g := notP2, scope := BitVec.ofNat 3 s }) ∧
    Clear base grp (.fencex { m := none, g := notP2, scope := BitVec.ofNat 3 s, p := 4, q := 2 }) ∧
    (∀ k ∈ executing base grp notP2, (threadLane base grp k).inTx = false) ∧ (copyFault base grp fun _ => true) = none ∧
    (pathBusy base grp 4 = false ∧ (pathBlocked base grp 4 2 s).isNone = true ∧ grp.fl.walks = [] ∧ (flushBlocked base grp.gid grp.core (onL s)).isNone = true ∧
      pathBusy (put { grp with fl := { grp.fl with ldvs := [opOf .ldv] } }) { grp with fl := { grp.fl with ldvs := [opOf .ldv] } } 0 = true) ∧ txLanes (put inTx) inTx (executing (put inTx) inTx notP2) ≠ [] ∧ executing base grp isP2 = [] := by
  have h : ∀ s ∈ [0, 1, 2, 3, 4], ready base grp (.fence { m := none, g := notP2, scope := BitVec.ofNat 3 s }) = true ∧
    ready base grp (.fencex { m := none, g := notP2, scope := BitVec.ofNat 3 s, p := 4, q := 2 }) = true := by decide +kernel
  exact fun s hs => ⟨clear_at (h s hs).1, clear_at (h s hs).2, by revert s; decide +kernel⟩

theorem witness_CacheControl : Clear (two at100) at100 (.cinv { m := none, g := notP2, b := 6 }) ∧
    (flushBlocked (two at100) at100.gid at100.core (onL 1)).isNone = true ∧ executing base grp isP2 = [] ∧
    (performBlocked (two at100) fun q => q.core / 4 == 0 && [1, 1].any q.inFrame).isNone = true ∧ (two at100).sq = [] ∧
    ∀ k ∈ executing (two at100) at100 notP2, let ea := pairA at100 none (threadLane (two at100) at100 k) 6
      classify (two at100) at100 ea = .paged ∧ onGalley ((two at100).now at100) (two at100) at100 ea = false ∧
      (match xlate (two at100) at100 (readNeed at100) ea with
        | .ok x => decide (x.place = .mem 0x100)
        | .error _ => false) = true := ⟨clear_at (by decide +kernel), by decide +kernel⟩

/-- Both lanes name bank 2, in FIFO mode with room, full, and with one word; and V4 asks for a mode. -/
def caseForm : CaseForm := { m := none, g := notP2, d := 4, b := 6 }
def wants (n : Nat) : Group := atCase.mapLanes fun _ x => x.setReg 4 (BitVec.ofNat 32 n)
theorem witness_CaseBankResults :
    (∀ k ∈ executing (cased (two atCase) .fifo []) atCase notP2,
      bankAt (cased (two atCase) .fifo []) atCase (pairA atCase none (threadLane (two atCase) atCase k) 6) = some (2, true)) ∧
    Clear (cased (two atCase) .fifo []) atCase (.fpush caseForm) ∧
    (∀ fifo ∈ [[], [1], [1, 2], List.replicate 16382 0, List.replicate 16383 0],
      ((cased (two atCase) .fifo fifo).bank 0 2).mode = .fifo ∧ ((cased (two atCase) .fifo fifo).bank 0 2).fifo = fifo) ∧
    ∀ n ∈ [0, 1, 2], Clear (cased (two (wants n)) .scratch []) (wants n) (.casemode caseForm) ∧
      bankMode ((threadLane (two (wants n)) (wants n) 0).reg 4).toNat = some (if n = 0 then .cache else if n = 1 then .scratch else .fifo) ∧
      bankInUse (cased (two (wants n)) .scratch []) (wants n) 2 = false ∧ (wants n).fl.walks = [] ∧
      (flushBlocked (cased (two (wants n)) .scratch []) grp.gid grp.core (onL 1)).isNone = true ∧
      ((cased (two (wants n)) .scratch []).bank 0 2).switch = none ∧ (wants n).hold.switched = none ∧
      executing (cased (two (wants n)) .scratch []) (wants n) isP2 = [] ∧
      (let g : Group := { wants n with hold := { (wants n).hold with switched := some [2] } }; 2 ∈ g.hold.switched.getD []) := by
  have h : ∀ n ∈ [0, 1, 2], ready (cased (two (wants n)) .scratch []) (wants n) (.casemode caseForm) = true := by decide +kernel
  exact ⟨by decide +kernel, clear_at (by decide +kernel), fun _ _ => ⟨rfl, rfl⟩, fun n hn => ⟨clear_at (h n hn), by revert n; decide +kernel⟩⟩

/-! ### Transactions and speculation -/

/-- Lane 3 nested to depth 7, lane 4 with its eight attempts used up. -/
def txEdges : Group := lanes fun l x => if l = 3 then { x with tx := { Tx.reset with isOpen := true, depth := 7, path := 64 } }
  else if l = 4 then { x with tx := { Tx.reset with att := 8 } } else x
def wrote (l : Nat) : List LogWord := [{ word := 0x100 + 4 * l, val := 7, mask := 0xF, va := 0 }]
def txAll : Group := lanes fun l x =>
  { x with tx := { Tx.reset with isOpen := true, depth := if l = 0 then 2 else 1, path := 64, writes := wrote l } }

theorem witness_BeginResults : Clear (put txEdges) txEdges (.tbeginVal { g := notP2, off := 9 }) ∧ (put txEdges).groupTag txEdges = none ∧
    (∀ l ∈ executing (put txEdges) txEdges notP2, (txEdges.lane l).tx.spec = false) ∧ txEdges.fl.walks = [] ∧
    (flushBlocked (put txEdges) grp.gid grp.core (onBoth 3)).isNone = true ∧
    (let s : State := { put txEdges with launches := base.launches.map fun l => { l with lr := { l.lr with det := true } } }
     ready s txEdges (.tbeginVal { g := notP2, off := 9 }) = true ∧ s.groupTag txEdges ≠ none) ∧
    Clear (put inIter) inIter (.tbeginVal { g := notP2, off := 9 }) ∧ 3 ∈ executing (put inIter) inIter notP2 ∧ (inIter.lane 3).tx.spec = true :=
  ⟨clear_at (by decide +kernel), by decide +kernel, by decide +kernel, by decide +kernel, by decide +kernel, by decide +kernel,
    clear_at (by decide +kernel), by decide +kernel⟩

theorem witness_EndAbortStatus : Clear (put txAll) txAll (.tend { g := notP2 }) ∧ Clear (put txAll) txAll (.tabort { g := notP2, a := 6 }) ∧
    (∀ l ∈ executing (put txAll) txAll notP2, (txAll.lane l).tx.isOpen = true ∧ (txAll.lane l).tx.spec = false) ∧
    Clear (put inTx) inTx (.tend { g := notP2 }) ∧ (inTx.lane 0).tx.isOpen = false ∧
    Clear (put inIter) inIter (.tabort { g := notP2, a := 6 }) ∧
    survivors txAll (List.range 32) = List.range 32 ∧ (flushBlocked (put txAll) grp.gid grp.core (onL 3)).isNone = true ∧ executing base grp isP2 = [] :=
  ⟨clear_at (by decide +kernel), clear_at (by decide +kernel), by decide +kernel, clear_at (by decide +kernel), by decide +kernel,
    clear_at (by decide +kernel), by decide +kernel⟩

/-- Iterations 1 of the domain at 0x3000, whose token stands at 0. -/
def iterAll : Group := lanes fun _ x => { x with tx := { Tx.reset with spec := true, domain := 0x3000 } }
def at3000 : Group := addr 0x3000 0
theorem witness_SpeculationResults : Clear (two at3000) at3000 (.spbegin { g := notP2, n := 10, b := 6 }) ∧
    (idleHomes (two at3000) = true ∧ idleHomes (two odd1) = true ∧ (recallBlocked (two at3000) [0x3000, 0x3000]).isNone = true) ∧
    (∀ l ∈ executing (two at3000) at3000 notP2, (at3000.lane l).inTx = false ∧
      (match recordAt (two at3000) at3000 ((at3000.lane l).pair 6) with
        | .ok r => r == 0x3000
        | .error _ => false) = true ∧
      waitsHome (two at3000) (.mem 0x3000) 4 false = false ∧
      (((at3000.lane l).reg 10) - BitVec.ofNat 32 (domainNext (recallWords (two at3000) [0x3000, 0x3000]) 0x3000)).toNat < 2 ^ 31) ∧
    Clear (two odd1) odd1 (.spbegin { g := notP2, n := 10, b := 6 }) ∧ ((odd1.lane 0).pair 6).toNat % 32 ≠ 0 ∧
    Clear (put inTx) inTx (.spbegin { g := notP2, n := 10, b := 6 }) ∧
    Clear base grp (.spend { g := notP2 }) ∧ (grp.lane 0).tx.spec = false ∧
    Clear (put iterAll) iterAll (.spend { g := notP2 }) ∧ (∀ l ∈ executing (put iterAll) iterAll notP2, (iterAll.lane l).tx.spec = true) ∧
    iterAll.fl.walks = [] ∧ (flushBlocked (put iterAll) grp.gid grp.core (onL 3)).isNone = true :=
  ⟨clear_at (by decide +kernel), by decide +kernel, by decide +kernel, clear_at (by decide +kernel), by decide +kernel,
    clear_at (by decide +kernel), clear_at (by decide +kernel), by decide +kernel, clear_at (by decide +kernel), by decide +kernel, rfl,
    by decide +kernel⟩

/-- A batch of lane 1 of the group of `txAll`, which has read `v` at 0x200. -/
def committing (v : Word) : Group := txAll.mapLanes fun _ x => { x with tx := { x.tx with reads := [{ word := 0x200, val := v, mask := 0, va := 0 }] } }
def batchOf (k : BatchKind) : Batch :=
  { id := 40, kind := k, gid := grp.gid, lid := grp.lid, lanes := [1], need := [0], held := [], quoin := false, ask := 0, op := none,
    iss := Issue.none }
theorem witness_CommitResults : ∀ v ∈ [0, 1], (put (committing (BitVec.ofNat 32 v))).group? (batchOf .tend).gid = some (committing (BitVec.ofNat 32 v)) ∧
    (put (committing (BitVec.ofNat 32 v))).groupTag (committing (BitVec.ofNat 32 v)) = none ∧
    ((committing (BitVec.ofNat 32 v)).lane 1).tx.pend = [] ∧ (base.launch? grp.lid).all (fun y => y.how.isNone) = true ∧
    validTx (recallWords (put (committing (BitVec.ofNat 32 v))) ((committing (BitVec.ofNat 32 v)).lane 1).tx.words) none
      ((committing (BitVec.ofNat 32 v)).lane 1).tx = (v == 0) := by decide +kernel

/-! ### Impressions -/

/-- The 8 GiB from 2^33 on are a galley page of galley 0, and the sector at 0x100 keeps impression 0, sealed or not. -/
def inGalley : Group := addr 0x100 2
def galleyWith (sl : Bool) : State := { two inGalley with
  mem := bytesPut (bytesPut base.mem (placedLeaf + 8) [0x7F]) 0x30004 [1], ctxs := vset base.ctxs 0 { base.ctx 0 with galtab := 0x30000 },
  galfloor := [{ page := 0, bits := 33, floor := 0, entries := [placedLeaf + 8], was := [] }],
  imps := [{ sector := 8, galley := 0, list := [{ n := 0, isSealed := sl, mask := 0, bytes := List.replicate 32 7, spilled := false }] }] }
def galleyNeed (w : Bool) : Need := { r := !w, w := w, x := false, galley := true, priv := false }
def at8 : Xlat := { place := .mem 0x100, galley := some 0, home := 0, page := 0, bits := 33, entry := placedLeaf + 8 }

/-- Lane 31 names the next sector, whose impression 0 is sealed. -/
def apart : Group := inGalley.mapLanes fun l x => if l = 31 then x.setReg 6 0x120 else x
def mixedSeals : State := { galleyWith false with groups := [apart], imps := (galleyWith false).imps ++ (galleyWith true).imps.map fun c => { c with sector := 9 } }
theorem witness_MixedLoads : Clear mixedSeals apart (.ldv { g := notP2, d := 4, b := 6, size := 2, n := 10 }) ∧
    executing mixedSeals apart notP2 = [0, 31] ∧ idleHomes mixedSeals = true ∧
    ∀ k ∈ [(0, 0x100, false), (31, 0x120, true)], let x : Xlat := { at8 with place := .mem k.2.1 }
      (threadLane mixedSeals apart k.1).pair 6 = BitVec.ofNat 64 (0x200000000 + k.2.1) ∧
      (match xlate mixedSeals apart (galleyNeed false) (BitVec.ofNat 64 (0x200000000 + k.2.1)) with
        | .ok y => decide (y = x)
        | .error _ => false) = true ∧ sectorPoison mixedSeals x = false ∧ waitsHome mixedSeals x.place 4 false = false ∧
      (loadSector mixedSeals apart x).2.missing 0 = false ∧ ((loadSector mixedSeals apart x).2.find? 0).any Imp.isSealed = k.2.2 :=
  ⟨clear_at (by decide +kernel), by decide +kernel⟩

theorem witness_ImpressionLoads : ∀ b ∈ [true, false], Clear (galleyWith b) inGalley (.ldv { g := notP2, d := 4, b := 6, size := 2, n := 10 }) ∧
    idleHomes (galleyWith b) = true ∧ (∀ k ∈ executing (galleyWith b) inGalley notP2, classify (galleyWith b) inGalley ((threadLane (galleyWith b) inGalley k).pair 6) = .paged) ∧
    (match xlate (galleyWith b) inGalley (galleyNeed false) 0x200000100 with
      | .ok x => decide (x = at8)
      | .error _ => false) = true ∧
    sectorPoison (galleyWith b) at8 = false ∧ issuerU (galleyWith b) inGalley 10 = 0 ∧
    ((galleyWith b).imps.find? fun c => c.sector == sectorOf (galleyWith b) at8).map (fun c => (c.missing 0, c.kept)) = some (false, 1) ∧
    ((loadSector (galleyWith b) inGalley at8).2.find? 0).map Imp.isSealed = some b := by
  have h : ∀ b ∈ [true, false], ready (galleyWith b) inGalley (.ldv { g := notP2, d := 4, b := 6, size := 2, n := 10 }) = true := by
    decide +kernel
  exact fun b hb => ⟨clear_at (h b hb), by revert b; decide +kernel⟩

/-- One executing thread, with 32 in V10 as the length of SEALV and FLOORV. -/
def oneGalley : Group := inGalley.mapLanes fun _ x => x.setReg 10 32
def one : State := { galleyWith false with groups := [oneGalley], iss := { base.iss with active := [31] } }
theorem witness_ImpressionWrites : executing one oneGalley Guard.always = [31] ∧ (oneGalley.lane 31).tx.logging = false ∧ one.iss.helper = false ∧
    Clear one oneGalley (.stv { g := Guard.always, d := 4, b := 6, size := 2, n := 10 }) ∧
    Clear one oneGalley (.sealv { g := Guard.always, d := 10, b := 6, n := 12 }) ∧
    Clear one oneGalley (.floorv { g := Guard.always, d := 10, b := 6, n := 12 }) ∧
    Clear one oneGalley (.vprobe { g := Guard.always, d := 4, b := 6, n := 12 }) ∧ ((oneGalley.lane 31).reg 10).toNat = 32 ∧
    (match xlate one oneGalley (galleyNeed true) 0x200000100 with
      | .ok x => decide (x = at8)
      | .error _ => false) = true ∧ one.sq = [] ∧ one.wp = [] ∧
    (idleHomes one = true ∧ (flushBlocked one grp.gid grp.core (onL 1)).isNone = true ∧ (flushBlocked one grp.gid grp.core (onL 3)).isNone = true) ∧
    (galleyWith true).imps.all (fun c => ((c.newestSealed fun m => !newerImp m 0).map Imp.n) == some 0) = true :=
  ⟨by decide +kernel, by decide +kernel, by decide +kernel, clear_at (by decide +kernel), clear_at (by decide +kernel),
    clear_at (by decide +kernel), clear_at (by decide +kernel), by decide +kernel, by decide +kernel, rfl, rfl, by decide +kernel, by decide +kernel⟩

/-! ### Ligatures -/

/-- Lane 0 alone is active; lanes 30 and 31 have exited, and V6 asks for n helpers. -/
def asking (n : Nat) : Group := (addr (BitVec.ofNat 32 n) 9).mapLanes fun l x => if 30 ≤ l then { x with st := .exited } else x
def alone (g : Group) : State := { put g with iss := { base.iss with active := [0] } }
/-- A deterministic launch, and n other groups of the core whose ligatures hold 63 frames each. -/
def crowded (n : Nat) : State :=
  let far := fun k => { ligGroup with gid := 100 + k, lig := ligGroup.lig.map fun l => { l with helpers := List.replicate 63 (l.helpers.headD
    { lane := Lane.reset 0, lender := 0, lendLane := 0, claims := 0, partials := [], done := false }) } }
  { alone (asking 70) with groups := asking 70 :: (List.range n).map far, launches := base.launches.map fun l => { l with lr := { l.lr with det := true } } }
theorem witness_LigatureGrant : (∀ n ∈ [0, 1, 2, 70],
      Clear (alone (asking n)) (asking n) (.liga { g := notP2, d := 4, a := 6, off := 9 }) ∧ (alone (asking n)).groupTag (asking n) = none ∧
      min (min n 63) (min (lenders (alone (asking n)) (asking n)).length (framesFree (alone (asking n)) 0)) = min n 2) ∧
    executing base grp isP2 = [] ∧ guardTrue isP2 (grp.lane 0) = false ∧
    Clear base grp (.liga { g := notP2, d := 4, a := 6, off := 9 }) ∧ base.iss.active.length ≠ 1 ∧
    ((alone grp).iss.addr + (9 <<< 1)).getLsbD 0 = false ∧
    ((1 : Word) + (9 <<< 1)).getLsbD 0 = true ∧
    ready (crowded 17) (asking 70) (.liga { g := notP2, d := 4, a := 6, off := 9 }) = true ∧ (crowded 17).groupTag (asking 70) ≠ none ∧
    (asking 70).lig.isSome = false ∧ ((asking 70).lane 0).inTx = false ∧
    (∀ n ∈ [0, 17], (framesFree (crowded n) 0 < min (min 70 63) (lenders (crowded n) (asking 70)).length) = (n = 17)) := by
  have h : ∀ n ∈ [0, 1, 2, 70], ready (alone (asking n)) (asking n) (.liga { g := notP2, d := 4, a := 6, off := 9 }) = true := by
    decide +kernel
  exact ⟨fun n hn => ⟨clear_at (h n hn), by revert n; decide +kernel⟩, by decide +kernel, by decide +kernel, clear_at (by decide +kernel), by decide +kernel⟩

theorem witness_LigatureWork : Clear helpers ligGroup (.lignxt { g := notP2, d := 4, p := 3 }) ∧ helpers.groupTag ligGroup = none ∧
    Clear helpers ligGroup (.ligx { g := notP2, ty := false, op := 0, d := 4, a := 6 }) ∧
    ligGroup.lig.map (fun l => (l.claim, l.count, l.helpers.length, l.helpers.map Helper.partials)) = some (2, 9, 2, [[], []]) ∧
    (∀ e ∈ [(grp, notP2, true, false), (grp, isP2, false, true), (mixed, notP2, false, false)],
      Clear (put e.1) e.1 (.lignxt { g := e.2.1, d := 4, p := 3 }) ∧
      Clear (put e.1) e.1 (.ligx { g := e.2.1, ty := false, op := 0, d := 4, a := 6 }) ∧ (put e.1).iss.helper = false ∧
      (GuardAll (put e.1) e.1 e.2.1 ↔ e.2.2.1 = true) ∧ (GuardNone (put e.1) e.1 e.2.1 ↔ e.2.2.2 = true)) := by
  unfold GuardAll GuardNone
  have h : ∀ e ∈ [(grp, notP2, true, false), (grp, isP2, false, true), (mixed, notP2, false, false)],
    ready (put e.1) e.1 (.lignxt { g := e.2.1, d := 4, p := 3 }) = true ∧
    ready (put e.1) e.1 (.ligx { g := e.2.1, ty := false, op := 0, d := 4, a := 6 }) = true := by decide +kernel
  exact ⟨clear_at (by decide +kernel), by decide +kernel, clear_at (by decide +kernel), by decide +kernel,
    fun e he => ⟨clear_at (h e he).1, clear_at (h e he).2, by revert e; decide +kernel⟩⟩

/-! ### Engines

The block owns banks 0 to 3 in scratchpad mode, offsets 0 to 2^18 - 1 of its Case view. -/

/-- The group with a matrix context or without, with these uniform registers. -/
def withU (x : Option Nat) (us : List (Nat × Nat)) : Group :=
  us.foldl (fun g u => g.setUreg u.1 (BitVec.ofNat 64 u.2)) { grp with mctx := x }
def banked (g : Group) (e : Engine) : State :=
  { put g with
    blocks := base.blocks.map fun b => { b with banks := [0, 1, 2, 3] }, engines := [(0, e)],
    clusters := [(0, { Cluster.reset with banks := [0, 1, 2, 3].map fun k => (k, { Bank.reset with mode := .scratch, owner := some 2 }) })] }

/-- A command of the group in a context, and an engine whose contexts the groups named hold, with a queue. -/
def cmd (i : Instr) (n : Nat) (p : CmdPhase) : MCmd :=
  { ins := i, gid := grp.gid, bid := grp.bid, prv := false, x := 0, seq := BitVec.ofNat 32 n, pc := 0, len := 4, word := 0, konst := 0, u1 := 0,
    u2 := 0, u3 := 0, u3a := 0, u3b := 0, u62 := 0, u63 := 0, vals := [], scales := [], set := none, phase := p, raised := false, swapped := false, old := [],
    tr := base.now grp }
def engineWith (h0 h1 : Option Nat) (q : List MCmd) : Engine :=
  { Engine.reset with queue := q, cx := vset (vset Engine.reset.cx 0 { MCtx.reset with holder := h0 }) 1 { MCtx.reset with holder := h1 } }
def zeroAll : Instr := .mzero { g := notP2, tile := 0 }
def mloadOf : MloadForm := { g := notP2, e1 := 4, fmt := 0x2D, sc := false, vb := 0, bs := 0 }
def held : Engine := engineWith (some grp.gid) none []

theorem witness_EngineChecks : engineOf zeroAll = some (notP2, true) ∧ Clear (put inTx) inTx zeroAll ∧ GuardAll (put inTx) inTx notP2 ∧
    (put inTx).iss.active.filter (fun l => (inTx.lane l).inTx) = [3] ∧ Clear half grp zeroAll ∧ GuardAll half grp notP2 ∧
    half.iss.active.filter (fun l => (grp.lane l).inTx) = [] ∧ half.iss.active.length ≠ 32 := by
  unfold GuardAll
  exact ⟨rfl, clear_at (by decide +kernel), by decide +kernel, by decide +kernel, clear_at (by decide +kernel), by decide +kernel⟩

/-- Bank 0 is on its way to cache mode. -/
def turning (s : State) : State :=
  s.updCluster 0 fun c => { c with banks := c.banks.map fun b => if b.1 = 0 then (0, { b.2 with switch := some (.cache, 99) }) else b }

/-- No context; then with one: a reserved bit, rows beyond the Case, and rows of 512 bytes that end at its last byte. -/
def loads : List (Option Nat × Nat) :=
  [(none, 0), (some 0, 2 ^ 22), (some 0, 2 ^ 32 * 1024 + 32), (some 0, 2 ^ 32 * 0x400)]
theorem witness_MatrixCommands :
    (∀ u ∈ loads, Clear (banked (withU u.1 [(4, u.2)]) held) (withU u.1 [(4, u.2)]) (.mload mloadOf)) ∧
    EngineReady (banked grp held) grp notP2 true ∧
    caseRows (banked grp held) grp 32 1024 96 256 = .ok ∧ caseRows (banked grp held) grp 32 1056 96 256 = .bad ∧
    (∀ n ∈ [7, 8], (openCmds (engineWith (some grp.gid) none ((List.range n).map fun k => cmd zeroAll k .queued)) 0).length = n) ∧
    (let g := withU (some 0) [(4, 2 ^ 32 * 1024 + 32)]
     ready (turning (banked g held)) g (.mload mloadOf) = true ∧ caseRows (turning (banked g held)) g 32 1024 96 256 = .busy) ∧
    rowCtlOk 0x3F01 = true ∧ rowCtlOk 0x40 = true ∧ rowCtlOk 0x3F02 = false ∧ rowCtlOk 0 = false := by
  have h : ∀ u ∈ loads, ready (banked (withU u.1 [(4, u.2)]) held) (withU u.1 [(4, u.2)]) (.mload mloadOf) = true := by decide +kernel
  have h2 : ∀ u ∈ loads, (banked (withU u.1 [(4, u.2)]) held).groups = [withU u.1 [(4, u.2)]] := fun _ _ => rfl
  refine ⟨fun u hu => clear_at (h u hu) (h2 u hu), ?_, by decide +kernel⟩
  unfold EngineReady GuardAll
  decide +kernel

/-- The destination at 0x40000, and m of 1, 64 and 65 rows. -/
def drainOf : MdrainForm :=
  { g := notP2, e1 := 4, e2 := 6, e3 := 8, dfmt := 0x28, rfmt := 0x28, res := false, tile := 0, rnd := 0, sat := false, zr := false, it := false }
theorem witness_DrainCommands : ∀ m ∈ [1, 64, 65], ∀ x ∈ [none, some 0], let g := withU x [(4, 0x40000), (8, 2 ^ 32 * m + 1024)]
    Clear (banked g held) g (.mdrain drainOf) ∧ (drainArea (banked g held) g 0x40000 1024 (rowBytes 0x28) 64) = .ok ∧
    ((g.ureg 8).extractLsb' 32 7).toNat = m ∧
    (openCmds (engineWith (some grp.gid) none ((List.range 8).map fun k => cmd zeroAll k .queued)) 0).length = 8 ∧
    (let c := withU (some 0) [(4, 2 ^ 57 - 2 ^ 24), (8, 2 ^ 32 + 1024)]
     ready (turning (banked c held)) c (.mdrain drainOf) = true ∧
     drainArea (turning (banked c held)) c (BitVec.ofNat 64 (2 ^ 57 - 2 ^ 24)) 1024 (rowBytes 0x28) 1 = .busy) := by
  have h : ∀ m ∈ [1, 64, 65], ∀ x ∈ [none, some 0], ready (banked (withU x [(4, 0x40000), (8, 2 ^ 32 * m + 1024)]) held)
    (withU x [(4, 0x40000), (8, 2 ^ 32 * m + 1024)]) (.mdrain drainOf) = true := by decide +kernel
  exact fun m hm x hx => ⟨clear_at (h m hm x hx), by revert x; revert m; decide +kernel⟩

theorem witness_ContextResults :
    (∀ e ∈ [Engine.reset, engineWith (some 77) none [], engineWith (some 77) (some 78) []],
      Clear (banked grp e) grp (.mctxAcq { g := notP2 }) ∧ grp.mctx = none) ∧
    freeCtx (banked grp Engine.reset) grp = some 0 ∧ freeCtx (banked grp (engineWith (some 77) (some 78) [])) grp = none ∧
    (∀ q ∈ [[], [cmd zeroAll 1 .queued]], Clear (banked (withU (some 0) []) (engineWith (some grp.gid) none q)) (withU (some 0) [])
      (.mwait { g := notP2 })) ∧
    (cmd zeroAll 1 .queued).fault = none ∧ Clear base grp (.mwait { g := notP2 }) := by
  have h : ∀ e ∈ [Engine.reset, engineWith (some 77) none [], engineWith (some 77) (some 78) []],
    ready (banked grp e) grp (.mctxAcq { g := notP2 }) = true := by decide +kernel
  have h' : ∀ q ∈ [[], [cmd zeroAll 1 .queued]], ready (banked (withU (some 0) []) (engineWith (some grp.gid) none q)) (withU (some 0) [])
    (.mwait { g := notP2 }) = true := by decide +kernel
  exact ⟨fun e he => ⟨clear_at (h e he), rfl⟩, by decide +kernel, by decide +kernel, fun q hq => clear_at (h' q hq), by decide +kernel,
    clear_at (by decide +kernel)⟩

/-- A stream of 64 rows that runs and stands past the last row of its plane, and a drain that has stopped at a fault. -/
def mstreamOf : MstreamForm :=
  { g := notP2, e1 := 4, e2 := 6, fmt := 0x2D, sc := false, vb := 0, bs := 0, tile := 0, sat := false, swap := false, win := false }
def overEngine : Engine :=
  let c : MCmd := { cmd (.mstream mstreamOf) 1 .running with u2 := 64 }
  { engineWith (some grp.gid) none [c] with cx := vset (engineWith (some grp.gid) none []).cx 0 { MCtx.reset with
    holder := some grp.gid, step := { StepReg.reset with sv := true, row := 64 } } }
def stopped : MCmd := cmd (.mdrain drainOf) 1 (.failed trapped)

/-- A load that is not complete, and a stream that runs. -/
def busy : Engine := engineWith (some grp.gid) none [cmd (.mload mloadOf) 1 .queued, cmd zeroAll 2 .running]
theorem witness_EngineReads : (∀ e ∈ [held, busy], ∀ i ∈ [Instr.mstat { g := notP2, d := 4 }, .mstepGet { g := notP2, d := 4 },
      .mstepSet { g := notP2, a := 4 }, .mmovv { g := notP2, d := 4, a := 6 }],
      Clear (banked (withU (some 0) []) e) (withU (some 0) []) i) ∧
    (cmd (.mload mloadOf) 1 .queued).isLoad = true ∧ (openCmds held 0) = [] ∧ Clear base grp (.mmovv { g := notP2, d := 4, a := 6 }) ∧
    (∀ i ∈ [Instr.mstepGet { g := notP2, d := 4 }, .mstepSet { g := notP2, a := 4 }],
      Clear (banked (withU (some 0) []) overEngine) (withU (some 0) []) i) ∧
    (overEngine.queue.any (fun c => c.overRow overEngine) = true ∧ stopped.isDrain = true ∧ stopped.fault.isSome = true) ∧
    (openCmds busy 0).length < 256 ∧ ∀ c ∈ openCmds busy 0, ∀ t ∈ c.tiles, t < 4 := by
  have h : ∀ e ∈ [held, busy], ∀ i ∈ [Instr.mstat { g := notP2, d := 4 }, .mstepGet { g := notP2, d := 4 },
    .mstepSet { g := notP2, a := 4 }, .mmovv { g := notP2, d := 4, a := 6 }], ready (banked (withU (some 0) []) e) (withU (some 0) []) i =
    true := by decide +kernel
  have h' : ∀ i ∈ [Instr.mstepGet { g := notP2, d := 4 }, .mstepSet { g := notP2, a := 4 }],
    ready (banked (withU (some 0) []) overEngine) (withU (some 0) []) i = true := by decide +kernel
  exact ⟨fun e he i hi => clear_at (h e he i hi), rfl, by decide +kernel, clear_at (by decide +kernel), fun i hi => clear_at (h' i hi),
    by decide +kernel⟩

/-! ### Fount and Imposer -/

/-- Two rows of 64 binary32 elements at 0x4000, bound to slot 5 of the block; coordinates (9, 1) in V6 and V7. -/
def entry : Nat := 0x4000 + 2 ^ 64 * 64 + 2 ^ 96 * 2 + 2 ^ 128 * 256 + 2 ^ 160 * 0x28 + 2 ^ 168 * 0x28
def coords : Group := (addr 9 1).mapLanes fun _ x => x.setReg 4 0x20
def bound (slot : Option Nat) : State :=
  let s := { banked coords Engine.reset with iss := { base.iss with active := [0, 31] } }
  { s with
    blocks := s.blocks.map fun b => { b with
      handles := (slot.map fun k => (k, ({ entry := if k = 6 then farEntry else entry, cnt := false, bar := 0 } : Handle))).toList },
    clusters := s.clusters.map fun c => (c.1, { c.2 with lastFount := some grp.lid }) }
def fetchOf : FetchForm := { g := notP2, d := 4, a := 6, h := 5 }
/-- V4 names Case offset o; the group in a handler; and a FETCH as it is formed, of slot 5's entry or the far one. -/
def atOffset (o : Word) : Group := coords.mapLanes fun _ x => x.setReg 4 o
def coordsPriv : Group := { coords with priv := .handler 6 }
def fetchAs (h : Nat) (g : Group) : MemOp :=
  { opOf .fetch with handle := h, size := 8, threads := [{ t := 0, ea := 0, data := 0x100000009, cmp := 0 }], tr := (bound (some 5)).now g }
theorem witness_FountRefusals : (∀ o ∈ [0x21, 0x40000], let g := atOffset (BitVec.ofNat 32 o)
      Clear { bound (some 5) with groups := [g] } g (.fetchc fetchOf)) ∧
    ((atOffset 0x21).lane 0).reg 4 = 0x21 ∧ caseRun (bound (some 5)) (atOffset 0x40000) 0x40000 32 = .bad ∧
    Clear (put inTx) inTx (.fetchc fetchOf) ∧ Clear (put inTx) inTx (.fetch fetchOf) ∧ executing base grp isP2 = [] ∧
    (∀ g ∈ [coords, coordsPriv], Clear { bound (some 6) with groups := [g] } g (.fetch fetchOf)) ∧
    ((fetchAs farEntry coords).failing (bound (some 6)) coords .translation ≠ [] ∧
      (fetchAs farEntry coordsPriv).failing (bound (some 6)) coordsPriv .translation ≠ [] ∧ coordsPriv.fl.fetches = []) ∧
    (fetchAs entry coords).failing (bound (some 5)) coords .translation = [] ∧ (bound (some 5)).defer.fetch = false ∧
    (fetchValues (bound (some 5)) coords (fetchAs entry coords)).2.held = none := by
  have h : ∀ o ∈ [0x21, 0x40000], ready { bound (some 5) with groups := [atOffset (BitVec.ofNat 32 o)] } (atOffset (BitVec.ofNat 32 o))
    (.fetchc fetchOf) = true := by decide +kernel
  have h' : ∀ g ∈ [coords, coordsPriv], ready { bound (some 6) with groups := [g] } g (.fetch fetchOf) = true := by decide +kernel
  exact ⟨fun o ho => clear_at (h o ho), by decide +kernel, by decide +kernel, clear_at (by decide +kernel), clear_at (by decide +kernel),
    by decide +kernel, fun g hg => clear_at (h' g hg), by decide +kernel⟩

theorem witness_FountCommands : (∀ k ∈ [none, some 5], Clear (bound k) coords (.fetch fetchOf) ∧ Clear (bound k) coords (.fetchc fetchOf)) ∧ (bound none).iss.waited = false ∧
    ((bound (some 5)).block? coords.bid).map (fun b => b.handles.map fun h => (h.1, h.2.entry)) = some [(5, entry)] ∧
    ((bound (some 5)).cluster 0).lastFount = some coords.lid ∧ coords.fl.walks = [] ∧ (bound (some 5)).defer.walk = false ∧
    (∀ l ∈ executing (bound (some 5)) coords notP2, (coords.lane l).inTx = false ∧ ((coords.lane l).reg 4).extractLsb' 0 5 = 0 ∧
      caseRun (bound (some 5)) coords (((coords.lane l).reg 4).extractLsb' 0 22).toNat 32 = .ok) := by
  have h : ∀ k ∈ [none, some 5], ready (bound k) coords (.fetch fetchOf) = true ∧ ready (bound k) coords (.fetchc fetchOf) = true := by
    decide +kernel
  exact ⟨fun k hk => ⟨clear_at (h k hk).1, clear_at (h k hk).2⟩, rfl, by decide +kernel⟩

/-- The entry at 0x40000, the slot, and the counted barrier n. -/
def binding (slot bar : Nat) : Group := withU none [(4, 0x40000), (6, slot), (8, bar)]
def bindOf : HbindForm := { g := notP2, e1 := 4, e2 := 6, e3 := 8 }
def bindState (g : Group) : State := { put g with mem := bytesPut base.mem 0x40000 (leBytes 32 entry) }
theorem witness_BindResults :
    (∀ e ∈ [(0, 0), (63, 0x10F), (64, 0), (5, 0x200), (5, 0x10)], Clear (bindState (binding e.1 e.2)) (binding e.1 e.2) (.hbind bindOf)) ∧
    Reaches (bindState (binding 63 0x10F)) (binding 63 0x10F) (readNeed grp) 32 ((binding 63 0x10F).ureg 4) (.mem 0x40000) ∧
    loadNum (bindState (binding 63 0x10F)) (binding 63 0x10F) none (.mem 0x40000) 32 = entry ∧ fentryAligned entry = true ∧
    fentryLegal entry = true ∧ fentryLegal (entry + 2 ^ 180) = true ∧ fentryLegal (entry + 3 * 2 ^ 166) = false ∧ fentryAligned (entry + 1) = false ∧
    (base.launch? grp.lid).map (fun l => l.lr.bbar) = some 16 ∧
    waitsHome (bindState (binding 63 0x10F)) (.mem 0x40000) 32 false = false ∧
    redPending (bindState (binding 63 0x10F)) grp.gid (.mem 0x40000) 32 = false ∧ poisonedAt (bindState (binding 63 0x10F)) (.mem 0x40000) 32 = false ∧
    EngineReady (bindState (binding 63 0x10F)) (binding 63 0x10F) notP2 false := by
  unfold EngineReady GuardAll
  have h : ∀ e ∈ [(0, 0), (63, 0x10F), (64, 0), (5, 0x200), (5, 0x10)], ready (bindState (binding e.1 e.2)) (binding e.1 e.2) (.hbind bindOf) =
    true := by decide +kernel
  exact ⟨fun e he => clear_at (h e he), reaches_of (by decide +kernel), by decide +kernel⟩

/-- A request of 32 bytes at Case offset 0x40: 16 bytes from Case offset 0 to 0x1000. -/
def request : Nat := (2 ^ 57 - 2 ^ 24) + 2 ^ 64 * (2 ^ 57 - 2 ^ 24 + 0x1000) + 2 ^ 128 * 16 + 2 ^ 144 + 2 ^ 160
/-- The same in page mode: one line from 0x40000 to 0x50000. -/
def pageRequest : Nat := 0x40000 + 2 ^ 64 * 0x50000 + 2 ^ 128 * 256 + 2 ^ 144 + 2 ^ 160 + 2 ^ 181
def imposing (off : Nat) : Group := withU none [(4, off)]
def copyOf : ImpReq :=
  { gid := grp.gid, bid := grp.bid, grp := 0, prv := false, seq := 1, pc := 0, len := 4, req := request, pos := 0, failed := none, raised := false,
    tr := base.now grp }
def imposeState (g : Group) (n : Nat) : State :=
  { banked g { Engine.reset with imps := List.replicate n copyOf } with caseMem := bytesPut [] 0x40 (leBytes 32 request) }
theorem witness_ImposeResults :
    (∀ o ∈ [0x40, 0x41, 0x40000], ∀ n ∈ [0, 63, 64], Clear (imposeState (imposing o) n) (imposing o) (.impose { g := notP2, a := 4 }) ∧
      Clear (imposeState (imposing o) n) (imposing o) (.impstat { g := notP2, d := 4 })) ∧
    caseRun (imposeState (imposing 0x40) 0) (imposing 0x40) 0x40 32 = .ok ∧
    caseRun (imposeState (imposing 0x40) 0) (imposing 0x40) 0x40000 32 = .bad ∧
    blockPlace (imposeState (imposing 0x40) 0) grp.bid 0x40 = some (.case 0x40) ∧
    loadNum (imposeState (imposing 0x40) 0) (imposing 0x40) none (.case 0x40) 32 = request ∧ copyValues request = true ∧
    (copyReq request).page = false ∧ copyExtent (imposeState (imposing 0x40) 0) (imposing 0x40) (copyReq request) = .ok ∧
    copyFault (imposeState (imposing 0x40) 64) (imposing 0x40) (fun _ => true) = none ∧ request.testBit 180 = false ∧
    redPending (imposeState (imposing 0x40) 0) grp.gid (.case 0x40) 32 = false ∧
    copyOdd (imposeState (imposing 0x40) 0) (imposing 0x40) (copyReq request) = false ∧
    (copyValues pageRequest = true ∧ (copyReq pageRequest).page = true ∧ pageLegal priv (copyReq pageRequest) = true ∧
      pageLegal grp (copyReq pageRequest) = false ∧ copyValues (request - 2 ^ 160) = false) ∧
    (sourceHeld (imposeState (imposing 0x40) 0) (copyReq pageRequest)).isNone = true ∧
    (caseRun (turning (imposeState (imposing 0x20040) 0)) (imposing 0x20040) 0x20040 32 = .ok ∧
      copyExtent (turning (imposeState (imposing 0x20040) 0)) (imposing 0x20040) (copyReq request) = .busy) ∧
    EngineReady (imposeState (imposing 0x40) 0) (imposing 0x40) notP2 false := by
  unfold EngineReady GuardAll
  have h : ∀ o ∈ [0x40, 0x41, 0x40000], ∀ n ∈ [0, 63, 64],
    ready (imposeState (imposing o) n) (imposing o) (.impose { g := notP2, a := 4 }) = true ∧
    ready (imposeState (imposing o) n) (imposing o) (.impstat { g := notP2, d := 4 }) = true := by decide +kernel
  exact ⟨fun o ho n hn => ⟨clear_at (h o ho n hn).1, clear_at (h o ho n hn).2⟩, by decide +kernel⟩

/-! ### One step -/

theorem vget_of {α : Type} {n : Nat} {P : α → Prop} {d : α} {v : Vector α n} (hd : P d) (hv : ∀ x ∈ v.toList, P x) (i : Nat) :
    P (vget d v i) := by
  unfold vget
  cases h : v[i]? with
  | none => exact hd
  | some x => exact hv x (Vector.mem_toList_iff.mpr (Vector.mem_of_getElem? h))

theorem canonical_of {s : State} (hm : (Memory.wf s.mem && Memory.wf s.caseMem && s.engines.all fun e => e.2.cx.toList.all fun c =>
    c.tiles.toList.all cellsWf) = true) (hq : ∀ x ∈ s.queues.toList, x.z < 32 ∧ x.cls < 4 ∧ x.ctx < 64 ∧ (x.en = true → 4 ≤ x.z ∧ x.z ≤ 16)) :
    s.Canonical := by
  simp only [Bool.and_eq_true, List.all_eq_true] at hm
  refine ⟨hm.1.1, hm.1.2, fun e he x t => ?_, fun q => ?_⟩
  · refine vget_of (P := fun y => cellsWf y = true) rfl ?_ t
    exact vget_of (P := fun y : MCtx => ∀ z ∈ y.tiles.toList, cellsWf z = true) (by decide) (fun y hy => hm.2 e he y hy) x
  · exact vget_of (P := fun x : Queue => x.z < 32 ∧ x.cls < 4 ∧ x.ctx < 64 ∧ (x.en = true → 4 ≤ x.z ∧ x.z ≤ 16)) (by decide) hq q

theorem base_canonical : base.Canonical := canonical_of (by decide +kernel) (by decide +kernel)

/-- A program of one word that decodes, and of one that does not, at its first issue. -/
def placed (w : Nat) : State := State.reset.withFetchWord 32 w
theorem witness_StepRunsDecoded : ∀ w ∈ [1 + 2 ^ 13 * 3, 0xDF], let s1 : State := { placed w with agenda := [], iss := { Issue.none with gid := 3 } }
    (placed w).agenda = [.issue { gid := 3, helper := false }] ∧ deviceRuns (placed w) = true ∧ (placed w).group? 3 = some grp ∧
    groupReady { placed w with agenda := [] } grp = true ∧ grp.fl.replay = false ∧ grp.fl.deferred = [] ∧ grp.dbg.due = false ∧
    (selOf grp false).map (fun x => (x.addr, x.active, (breakpoint grp false x).isNone)) = some (0, List.range 32, true) ∧
    (match fetchAt s1 grp 0 with
      | .ok b n => b == w && n == 4
      | _ => false) = true ∧
    (next? (exec .illegalEncoding { s1 with iss := { s1.iss with active := List.range 32 } })).isSome = true := by decide +kernel

/-- Comparator 2 stands at address 0, its enable bit set. -/
def armed : Group := { grp with dbg := { grp.dbg with ibp := vset grp.dbg.ibp 2 1 } }
theorem witness_breakpoint : (selOf armed false).bind (fun x => breakpoint armed false x) = some (2, List.range 32) ∧
    armed.dbg.due = false ∧ ready (put armed) armed (.iadd f3) = true := by decide +kernel

/-- Lanes 0 and 1 at 8 and at 4, and their ages about the bound of R111; and no lane to issue. -/
def aged (a : Nat) (forced : Bool) : Group :=
  { lanes (fun l x => if l = 0 then { x with pc := 8, age := a } else if l = 1 then { x with pc := 4, age := 3 } else { x with st := .exited })
    with hold := { Hold.reset with forced := forced } }
theorem witness_IssueChoice : (groupSel (aged 4063 false)).map (fun x => (x.addr, x.active)) = some (4, [1]) ∧
    (groupSel (aged 4064 false)).map (fun x => (x.addr, x.active)) = some (8, [0]) ∧
    (groupSel (aged 5 true)).map (fun x => (x.addr, x.active)) = some (8, [0]) ∧
    groupSel (lanes fun _ x => { x with st := .parked }) = none ∧
    (let g := aged 5 true; (groupSel { g with priv := .handler 0x11 }).map (fun x => x.addr) = some 4 ∧
      (groupSel { g with priv := .handler 0x11, hold := { g.hold with forcedPriv := true } }).map (fun x => x.addr) = some 8 ∧
      (groupSel (g.mapLanes fun l x => { x with txStop := l == 0 })).map (fun x => (x.addr, x.active)) = some (4, [1])) ∧
    (match prepare (placed 0) { gid := 3, helper := false } with
      | .run t _ _ => t.iss.active == List.range 32
      | _ => false) = true := by decide +kernel

/-! ### Events of groups and blocks -/

theorem group_of {s : State} {g : Group} (hg : s.groups = [g] := by rfl) : s.group? g.gid = some g := by simp [State.group?, hg]

def waitsAt (p : WaitPoint) (t : Nat) : Group := lanes fun l x => if l = 2 then { x with st := .waiting p, wake := some t } else x
def idle (t : Nat) : Group := { grp with hold := { Hold.reset with idleTo := some t } }
/-- The trap vector's entry for class 0x11 stands in line 0x804, which the host may have modified and has been asked for; and another group
whose ligature holds a lane of the placed one. -/
def entryHeld : State := { vectored with host := { vectored.host with hostHeld := [(0x804, .mayModify)], snoops := [0x804] } }
def lentOut : State := { base with groups := [grp, { ligGroup with gid := 77 }] }
def awaiting (known : Bool) : Group :=
  { grp with fl := { grp.fl with pend := some trapped, vec := if known then some (0x8000, 0) else none } }
theorem witness_HandlerEntryWaits :
    (match vectorEntry entryHeld grp 0x11 with
      | .asked p => (askOnce entryHeld p 16 false).isNone
      | _ => false) = true ∧
    (∀ v ∈ [true, false], (put (awaiting v)).group? (awaiting v).gid = some (awaiting v) ∧ (awaiting v).fl.vec.isSome = v) ∧
    (match vectorEntry vectored grp 0x11 with
      | .ok c e => c == 0x8000 && e == 0
      | _ => false) = true ∧ lentAway base grp.gid = false ∧ lentAway lentOut grp.gid = true ∧ lentAway (put ligGroup) ligGroup.gid = false :=
  ⟨by decide +kernel, fun v hv => ⟨group_of, by revert v; decide +kernel⟩, by decide +kernel⟩

theorem witness_WaitsEnd : (∀ t, (put (idle t)).group? (idle t).gid = some (idle t) ∧ (idle t).hold.idleTo = some t) ∧ base.clock = 0 ∧
    (∀ t ∈ [0, 1], (put (waitsAt .backoff t)).group? (waitsAt .backoff t).gid = some (waitsAt .backoff t) ∧
      ((waitsAt .backoff t).lane 2).wake = some t) ∧
    framesFree (put (waitsAt .liga 64)) 0 = Config.frames ∧
    (∀ k, k < 32 → ((waitsAt .liga 64).lane k).st = .waiting .liga → k = 2) ∧
    (∀ k, k < 32 → (grp.lane k).tx.isOpen = false ∧ (grp.lane k).tx.speculative = false) ∧ grp.lig = none ∧ base.batches = [] ∧
    holdsBatch base grp.gid = false ∧ holdsBatch { base with batches := [{ batchOf .tend with held := [0] }] } grp.gid = true :=
  ⟨fun _ => ⟨group_of, rfl⟩, rfl, fun t ht => ⟨group_of, by revert t; decide +kernel⟩, by decide +kernel⟩

/-- A ligature at its limit and one short of it; a launch with a stall limit of 2^k. -/
def stalled (n : Nat) : Group := { grp with stallCnt := n }
def limited (g : Group) (k : Nat) : State := { put g with launches := base.launches.map fun l => { l with lr := { l.lr with stall := k } } }
def old (n : Nat) : Group := { ligGroup with lig := ligGroup.lig.map fun l => { l with life := n } }
/-- A group that waits to enter a handler while its block drains. -/
def stalledOut : Group := { stalled 65536 with hold := { Hold.reset with stopped := true }, fl := { Flight.reset with pend := some trapped } }
def drainState : State := { limited stalledOut 16 with blocks := base.blocks.map fun b => { b with phase := .draining } }
theorem witness_LimitsRaise : (∀ n ∈ [8, 9], (put (old n)).group? (old n).gid = some (old n) ∧
      (old n).lig.map (fun l => (l.lane, l.limit, l.life)) = some (0, 9, n) ∧ (old n).hold.park = false) ∧
    (∀ n ∈ [65535, 65536], ∀ k ∈ [0, 15, 16, 47, 48], (limited (stalled n) k).group? (stalled n).gid = some (stalled n) ∧
      ((limited (stalled n) k).launch? grp.lid).map (fun l => (l.lr.stall, l.lr.det)) = some (k, false) ∧
      (stalled n).priv = .user ∧ (stalled n).hold.park = false ∧ (stalled n).hold.host = false ∧ (stalled n).hold.stopped = false ∧
      openOps (stalled n) = none) ∧
    (drainState.group? stalledOut.gid = some stalledOut ∧ stalledOut.hold.stopped = true ∧ stalledOut.fl.pend.isSome = true ∧ openOps stalledOut = none ∧
      (drainState.block? stalledOut.bid).map Block.phase = some .draining ∧ (drainState.launch? stalledOut.lid).map (fun l => l.lr.stall) = some 16) :=
  ⟨fun n hn => ⟨group_of, by revert n; decide +kernel⟩, fun n hn k hk => ⟨group_of, by revert k; revert n; decide +kernel⟩,
    group_of, by decide +kernel⟩

def gone : Group := lanes fun _ x => { x with st := .exited }
def emptyBlock : State := { banked grp Engine.reset with groups := [], blocks := (banked grp Engine.reset).blocks.map fun b => { b with left := [] } }
def sampling : State := { base with ctxs := vset base.ctxs 0 { base.ctx 0 with sample := true, trSize := 1 } }
theorem witness_GroupsEnd : (put gone).group? gone.gid = some gone ∧ (∀ l, l < 32 → (gone.lane l).st = .exited ∧ (gone.lane l).lent = false) ∧
    gone.fl.ldvs = [] ∧ gone.priv = .user ∧ gone.fl.pend = none ∧ gone.hold.stopped = false ∧
    (flushBlocked (put gone) gone.gid gone.core (onBoth 3)).isNone = true ∧ (∀ l, l < 32 → (grp.lane l).st ≠ .exited) ∧
    (emptyBlock.block? grp.bid).map (fun b => (b.left, blockBusy emptyBlock b, b.phase, b.banks)) = some ([], false, .resident, [0, 1, 2, 3]) ∧
    (base.launch? grp.lid).isSome = true ∧
    ((sampling.ctx 0).sample = true ∧ (sampling.ctx 0).trSize ≠ 0 ∧ sampling.clock % 2 ^ (sampling.ctx 0).sper = 0 ∧
      (∃ w ∈ [base.writerOf grp 0 0 0], w.lid = grp.lid) ∧
      (0, sampling.clock) ∉ (sampling.coreRegs 0).sampled ∧ ∃ g ∈ sampling.groups, g.core = 0 ∧ g.ctx = 0) := ⟨group_of, by decide +kernel⟩

/-- A load, a FETCH and an LDV of lane 0 that are on their way, and an instruction that is not translated yet. -/
def fetchOp : MemOp := { opOf .fetch with threads := [{ t := 0, ea := 0, data := pairOf 9 1, cmp := 0 }], handle := entry }
def flying (f : Flight) : Group := { inGalley with fl := f }
def ldvOp : MemOp := { opOf .ldv with threads := [{ t := 0, ea := 0x200000100, data := 0, cmp := 0 }] }
def ldvState (b : Bool) : State := { galleyWith b with groups := [flying { Flight.reset with ldvs := [ldvOp] }] }
def farOp : MemOp := { fetchOp with handle := entry + 2 ^ 56 }
def walkOp (a : Nat) : MemOp := { opOf (.ld false) with threads := [{ t := 0, ea := BitVec.ofNat 64 a, data := 0, cmp := 0 }] }
def withLoads : Group := flying { Flight.reset with loads := [loadOf 4] }
def withFetch (m : MemOp) : Group := flying { Flight.reset with fetches := [m] }
def withLdv : Group := flying { Flight.reset with ldvs := [ldvOp] }
def withWalk (a : Nat) : Group := flying { Flight.reset with walks := [walkOp a] }
/-- The bank that a load on its way names is switching. -/
def caseSwitching : State := { cased (put (withWalk 0x01FFFFFFFF000040)) .scratch [] with
  clusters := [(0, { Cluster.reset with banks := [(2, { Bank.reset with mode := .scratch, owner := some 2, switch := some (.fifo, 9) })] })] }
theorem witness_Completions :
    ((put withLoads).group? withLoads.gid = some withLoads ∧ withLoads.fl.loads[0]? = some (loadOf 4) ∧ ((loadOf 4).vals.map (·.t)).Nodup) ∧
    (∀ m ∈ [fetchOp, farOp], (put (withFetch m)).group? (withFetch m).gid = some (withFetch m) ∧
      m.failing (put (withFetch m)) (withFetch m) .translation = if m.handle = entry then [] else [(0, BitVec.ofNat 64 (0x4000 + 2 ^ 56 + 292))]) ∧
    (fetchValues (put (withFetch fetchOp)) (withFetch fetchOp) fetchOp).2.held = none ∧
    (∀ b ∈ [true, false], (ldvState b).group? withLdv.gid = some withLdv ∧ withLdv.fl.ldvs = [ldvOp] ∧
      (ldvOp.placed (ldvState b) withLdv).map Placed.th = ldvOp.threads ∧
      (∀ p ∈ ldvOp.placed (ldvState b) withLdv, waitsHome (ldvState b) p.x.place 4 false = false ∧ sectorPoison (ldvState b) p.x = false) ∧
      ((ldvOp.placed (ldvState b) withLdv).map fun p => ldvAt (loadSector (ldvState b) withLdv p.x).2 ldvOp.num (sectorOff p.x) 4) =
        [if b then .val 0x07070707 else .waits]) ∧
    (let s := cased (put (withWalk 0x01FFFFFFFF000040)) .fifo []; let g := withWalk 0x01FFFFFFFF000040
      s.group? g.gid = some g ∧ (rowClass s g (walkOp 0x01FFFFFFFF000040)).map (·.1) = [0] ∧ Machine.switching s g (walkOp 0x01FFFFFFFF000040) = false) ∧
    (let s := caseSwitching; let g := withWalk 0x01FFFFFFFF000040
      s.group? g.gid = some g ∧ Machine.switching s g (walkOp 0x01FFFFFFFF000040) = true) ∧
    ∀ a ∈ [0x100, 0x0100000000000000], (put (withWalk a)).group? (withWalk a).gid = some (withWalk a) ∧
      Machine.switching (put (withWalk a)) (withWalk a) (walkOp a) = false ∧ rowClass (put (withWalk a)) (withWalk a) (walkOp a) = [] ∧
      ((walkOp a).failing (put (withWalk a)) (withWalk a) .translation).map (·.1) = (if a = 0x100 then [] else [0]) ∧
      ((walkOp a).lane (withWalk a) 0).tx.speculative = false ∧ ((walkOp a).held (put (withWalk a)) (withWalk a)).isNone = true ∧
      (match conclude (put (withWalk a)) (withWalk a) (walkOp a), conclude (galleyWith true) (withWalk 0x200000100) (walkOp 0x200000100) with
        | .ok _, .fault _ f stay => f.cls == 0x07 && stay == [0]
        | .ok _, _ => false
        | _, _ => a != 0x100) = true :=
  ⟨⟨group_of, rfl, by decide⟩, fun m hm => ⟨group_of, by revert m; decide +kernel⟩, by decide +kernel,
    fun b hb => ⟨group_of, by revert b; decide +kernel⟩, ⟨group_of, by decide +kernel⟩, ⟨group_of, by decide +kernel⟩,
    fun a ha => ⟨group_of, by revert a; decide +kernel⟩⟩

/-! ### Events of memory and of engines -/

def queued (k : WriteKind) : SqEntry :=
  { id := 30, gid := grp.gid, core := 0, lid := grp.lid, bidx := 0, place := .mem 0x100, kind := k, sync := false, rel := false, scope := 0, vis := 0,
    heldBack := false, grp := 0, pc := 0, va := 0x100, path := 1, seq := 0, bar := none }
def inSq (k : WriteKind) : State := { base with sq := [queued k] }
def inWp (v : Nat) : State := { base with wp := [{ queued (.store [(0, 7)]) with vis := v }] }
theorem witness_QueuedWrites : (∀ k ∈ [WriteKind.store [(0, 7)], .red 0 false 4 5], ((inSq k).sq.find? fun q => q.gid == grp.gid) = some (queued k) ∧
      heldPlace (inSq k) (queued k) = none ∧ (inSq k).detTag grp.lid 0 = none ∧ (queued k).migrating (inSq k) = false ∧
      linkCode (inSq k) (queued k).place = none) ∧
    (∀ b ∈ [true, false], let s := { inSq (.red 6 false 4 5) with poison := if b then [8] else [] }
      poisonedAt s (queued (.red 6 false 4 5)).place 4 = b ∧ (atomOp 6 false 4 (placeNum s none (.mem 0x100) 4) 5 0).2 = true ∧
      heldPlace s (queued (.red 6 false 4 5)) = none ∧ fenced s 0x100 = false ∧ redirect s 0x100 = 0x100) ∧
    (∀ v ∈ [1, 2], (inWp v).wp[0]?.map (fun e => (e.vis, e.heldBack)) = some (v, false)) ∧
    ((mustPerform (inWp 1) (queued (.store [(0, 7)]))).findSome? (SqEntry.waitPlace (inWp 1))).isNone = true := by decide +kernel

def switching : State :=
  { base with clusters := [(0, { Cluster.reset with banks := [(5, { Bank.reset with switch := some (.scratch, grp.gid) })] })] }
theorem witness_MemoryEvents : (switching.bank 0 5).switch = some (.scratch, grp.gid) ∧ (base.bank 0 5).switch = none ∧
    inHbm (1 * 256) = true ∧ inHbm (0 * 32) = true ∧ 0 ∉ base.poison := by decide +kernel

/-- A plane set of one plane of 8-bit integers, and a stream of one row. -/
def streamOf : MstreamForm :=
  { g := notP2, e1 := 4, e2 := 6, fmt := 0x2D, sc := false, vb := 0, bs := 0, tile := 1, sat := false, swap := false, win := false }
def streaming (p : CmdPhase) (set : Option PlaneSet) : MCmd := { cmd (.mstream streamOf) 1 p with u2 := 1, set := set }
def planes : PlaneSet :=
  { planes := 1, sparse := false, depth := ((streaming .queued none).stream?.map fun a => a.depth).getD 0, fmt := 0x2D, scaled := false, cols := [],
    scales := [] }
def engaged (q : List MCmd) : Engine := engineWith (some grp.gid) none q
def sparseOf : MloadsForm := { g := notP2, e1 := 4, e2 := 6, fmt := 0x2D, sc := false, vb := 0, bs := 0 }
def stepped : MCtx := { MCtx.reset with holder := some grp.gid, step := { StepReg.reset with sv := true, row := 1 } }
def finished (c : MCmd) : Engine := { engaged [c] with cx := vset (engaged []).cx 0 stepped }
def counted : MCmd := { cmd (.mloads sparseOf) 1 .counted with set := some PlaneSet.reset }
/-- In each engine the one command of the queue is the one the event takes up. -/
theorem witness_MatrixEvents : ctxRuns (banked grp held) held 0 = true ∧ (held.ctx 0).holder = some grp.gid ∧
    (swappable (engaged [cmd (.mswap { g := notP2 }) 1 .queued])).map (fun c => (c.seq, c.isSwap)) = some (1, true) ∧
    (swappable (engaged [cmd (.mstream { streamOf with swap := true }) 1 .queued])).map (fun c => (c.seq, c.isSwap)) = some (1, false) ∧
    (loadable (engaged [cmd (.mload mloadOf) 1 .queued])).map MCmd.seq = some 1 ∧
    (loadable (engaged [cmd (.mloads sparseOf) 1 .queued])).map MCmd.phase = some .queued ∧
    (loadable (engaged [counted])).map (fun c => (c.phase, c.set.isSome)) = some (.counted, true) ∧
    (startable (engaged [streaming .queued none]) 0).map MCmd.seq = some 1 ∧
    ((streaming .queued none).stream?.map fun a => (a.swap, suitable a planes, suitable a PlaneSet.reset)) = some (false, true, false) ∧
    (runningStream (engaged [streaming .running (some planes)])).map MCmd.seq = some 1 ∧ fmtOfCode planes.fmt = some (.int 8 true) ∧
    (drainable (engaged [cmd (.mdrain drainOf) 1 .queued]) 0).map MCmd.seq = some 1 ∧
    (tileCompletable (banked grp held) (engaged [cmd zeroAll 1 .queued]) 0).map MCmd.seq = some 1 := by decide +kernel
/-- Every column is empty, or holds 40 elements whose values start at an offset. -/
def sparseCmd (o : Nat) : MCmd := { cmd (.mloads sparseOf) 1 .queued with u1 := BitVec.ofNat 64 o }
def sparseState (o : Nat) : State :=
  let s := banked grp (engaged [sparseCmd o])
  if o = 0 then { s with blocks := [] } else { s with caseMem := bytesPut [] 0 (List.replicate 5 0xFF) }
theorem witness_MatrixLoads : (loadsFault (sparseState 0) grp (sparseCmd 0) (countedSet (sparseState 0) (sparseCmd 0) sparseOf)).isSome = false := by
  have hp : ∀ o, blockPlace (sparseState 0) (sparseCmd 0).bid o = none := fun _ => rfl
  have hb : ∀ col, loadBitmap (sparseState 0) (sparseCmd 0) col = [] := fun col => by
    unfold loadBitmap caseBytes
    simp only [hp]
    decide +kernel
  have hc : (countedSet (sparseState 0) (sparseCmd 0) sparseOf).cols = List.replicate 256 [] := by
    unfold countedSet
    simp only [funext hb]
    decide +kernel
  unfold loadsFault
  rw [hc]
  decide +kernel
theorem witness_MatrixLoadsFault : (loadsFault (sparseState 0x3FFE0) grp (sparseCmd 0x3FFE0)
    (countedSet (sparseState 0x3FFE0) (sparseCmd 0x3FFE0) sparseOf)).isSome = true := by decide +kernel
/-- A drain of one row to 0x40000, and beyond the mapped addresses. -/
def draining (a : DWord) : MCmd := { cmd (.mdrain drainOf) 1 .queued with u1 := a, u3 := 2 ^ 32 + 1024 }
theorem witness_MatrixDrain : let s := banked grp (engaged [draining 0x40000])
    (drainable (s.engine 0) 0).map MCmd.seq = some 1 ∧ drainPos ((s.engine 0).ctx 0).step = 0 ∧
    (drainCtl (draining 0).u3 (draining 0).u3a (draining 0).u3b).m = 1 ∧
    (rowHeld s grp (draining 0x40000) drainOf 0).isNone = true ∧ (rowHeld s grp (draining 0x0100000000000000) drainOf 0).isNone = true ∧
    (drainRowFault s grp (draining 0x40000) drainOf 0).isNone = true ∧ (drainRowFault s grp (draining 0x0100000000000000) drainOf 0).isSome = true ∧
    ∀ p ∈ rowPieces (draining 0x40000).tr s grp (engineNeed true false) 0x40000 (rowBytes drainOf.dfmt),
      writeWaits s (s.groupTag grp) p.2 32 = false ∧ engineError s p.2 32 true = none := by decide +kernel
theorem witness_MatrixStep : pendingStep (banked grp held) StepReg.reset (streaming .running (some planes)) = some 0 ∧
    pendingStep (banked grp held) stepped.step (streaming .running (some planes)) = none ∧
    (tileCompletable (banked grp held) (finished (streaming .running (some planes))) 0).map MCmd.seq = some 1 := by decide +kernel

/-- A FETCHC of lane 0, and a page copy of one line from frame 16 to frame 17. -/
def fetchcOf (rest : List (Nat × Word × Word × Nat)) : FetchC :=
  { gid := grp.gid, bid := grp.bid, grp := 0, prv := false, seq := 1, pc := 0, len := 4, h := { entry := entry, cnt := false, bar := 0 },
    lanes := (0, 8, 1, 0x20) :: rest, failed := none, raised := false, tr := base.now grp }
def copyEngine : Engine := { Engine.reset with imps := [copyOf], fetchcs := [fetchcOf []] }
def copying : State := { banked grp copyEngine with migr := [{ core := 0, gid := grp.gid, seq := 1, lines := [(16, 17, false)] }] }
/-- Where an address translates to. -/
def placeOf (s : State) (a : DWord) : Option Place :=
  match xlate s grp (engineNeed false false) a with
  | .ok x => some x.place
  | .error _ => none
theorem witness_CopyEvents : (copying.engine 0).imps[0]? = some copyOf ∧ (copyReq copyOf.req).page = false ∧
    ([((copyReq request).addrs 0).1, ((copyReq request).addrs 0).2].map (placeOf copying)) = [some (.case 0), some (.case 0x1000)] ∧
    (∀ k ∈ [0, 0x1000], fifoAt copying (.case k) = none ∧ switchingAt copying (.case k) = false ∧ waitsHome copying (.case k) 1 true = false ∧ waitsHome copying (.case k) 1 false = false ∧
      engineError copying (.case k) 1 false = none ∧ engineError copying (.case k) 1 true = none ∧
      writeWaits copying (copying.groupTag grp) (.case k) 1 = false) ∧ idleHomes copying = true := by decide +kernel
theorem witness_FetchcEvents : ((copying.engine 0).fetchcs[0]?.map fun r => (r.failed.isNone, r.lanes)) = some (true, [(0, 8, 1, 0x20)]) ∧
    (match fountFetch (copying.now grp) copying grp false entry 256 8 1 with
      | (t, .ok _) => blockPlace t grp.bid 0x20 == some (.case 0x20)
      | _ => false) = true ∧
    (copying.migr[0]?.map fun m => m.lines.find? fun l => !l.2.2) = some (some (16, 17, false)) ∧ tokenHeld copying (.mem (16 * 256)) 256 = false ∧
    hostHolds copying (.mem (16 * 256)) 256 true = false ∧ hostHolds copying (.mem (17 * 256)) 256 true = false := by decide +kernel
theorem copying_canonical : copying.Canonical := canonical_of (by decide +kernel) (by decide +kernel)

/-- Batches that hold their slice, that ask for slice 0 and for slices 0 and 1, behind one of another group or ahead of all. -/
def asksFor (k : BatchKind) (need : List Nat) (other : List Nat) : State :=
  { put txAll with batches := (if other = [] then [] else [{ batchOf k with id := 41, held := other }]) ++ [{ batchOf k with need := need }] }
def detState : State :=
  { put txAll with batches := [batchOf .tend], launches := base.launches.map fun l => { l with lr := { l.lr with det := true } } }
/-- The Quoin kept by the group for its retry. -/
def retrying : State := { detState with
  groups := [txAll.mapLanes fun _ x => { x with tx := { x.tx with retry := true } }],
  launches := detState.launches.map fun l => { l with quoin := some grp.gid } }
theorem witness_CommitEvents : (∀ k ∈ [BatchKind.tend, .spend], ∀ need ∈ [[], [0], [0, 1]], ∀ other ∈ [[], [0]],
      ((asksFor k need other).batches.find? fun c => c.id == 40) = some { batchOf k with need := need } ∧
      batchDet (asksFor k need other) (batchOf k) = false) ∧
    tokenFree (asksFor .tend [0] []) { batchOf .tend with need := [0] } 0 = true ∧
    (∀ w ∈ batchWords (asksFor .tend [0] []) (batchOf .tend), hostHolds (asksFor .tend [0] []) (.mem w) 4 true = false) ∧
    (detState.launch? grp.lid).map (fun l => (l.lr.det, l.quoin)) = some (true, none) ∧
    (∀ w ∈ batchWrites (asksFor .tend [0] []) (batchOf .tend), spillFull (asksFor .tend [0] []) w.1 (.mem w.2) 4 = false) ∧
    (retrying.group? grp.gid).map (fun g => inTurn retrying g (batchOf .tend)) = some true ∧
    keyLt (quoinKey detState txAll) (quoinKey detState txAll) = false ∧
    (∀ h ∈ launchGroups detState grp.lid, obstructs detState (quoinKey detState txAll) h = false) ∧
    (batchOf .tend).op = none ∧ (retrying.launch? grp.lid).map (fun l => (l.lr.det, l.quoin)) = some (true, some grp.gid) ∧
    (retrying.group? grp.gid).map (fun g => ((g.lane 1).tx.retry, g.priv)) = some (true, .user) ∧ txAll.priv = .user := by decide +kernel
/-- An ATOM of lane 0 that has presented its batch. -/
def atomOn : MemOp := { opOf (.atom 0 false) with threads := [{ t := 0, ea := 0x100, data := 5, cmp := 0 }] }
def atomBatch : Batch := { batchOf .atom with lanes := [0], need := [], op := some atomOn, iss := base.iss }
def atomState : State := { detState with groups := [grp], batches := [atomBatch] }
theorem witness_AtomBatch : (Machine.switching atomState grp atomOn = false ∧ rowClass atomState grp atomOn = [] ∧ grp.priv = .user) ∧
    (let s := { cased atomState .scratch [] with clusters := [(0, { Cluster.reset with banks := [(2, { Bank.reset with switch := some (.fifo, 9) })] })] }
     Machine.switching s grp { atomOn with threads := [{ t := 0, ea := 0x01FFFFFFFF000040, data := 5, cmp := 0 }] } = true) ∧
    (atomState.launch? grp.lid).map (fun l => (l.lr.det, l.quoin)) = some (true, none) ∧
    keyLt (quoinKey atomState grp) (quoinKey atomState grp) = false ∧
    (∀ h ∈ launchGroups atomState grp.lid, obstructs atomState (quoinKey atomState grp) h = false) ∧
    atomOn.failing atomState grp .translation = [] ∧ (atomOn.held atomState grp).isNone = true ∧ atomOn.denied atomState grp = [] ∧ rowHome atomState grp atomOn = [] ∧
    (runAtom (holdQuoin atomState atomBatch) grp atomBatch atomOn).2 = false := by decide +kernel
def spending (p : WaitPoint) (n : Nat) (o : Bool) : Group := lanes fun l x =>
  if l = 1 then { x with st := .waiting p, tx := { Tx.reset with spec := true, domain := 0x3000, iter := BitVec.ofNat 32 n, ordered := o } } else x
theorem witness_SpendTokenReached : ∀ p ∈ [WaitPoint.spend, .rerun], ∀ n ∈ [0, 1], ∀ o ∈ [true, false],
    (put (spending p n o)).group? (spending p n o).gid = some (spending p n o) ∧ ((spending p n o).lane 1).st = .waiting p ∧
    domainNext (recallWords (put (spending p n o)) [0x3000]) 0x3000 = 0 ∧
    waitsHome (put (spending p n o)) (.mem 0x3000) 4 true = false ∧ waitsHome (put (spending p n o)) (.mem 0x3000) 4 false = false ∧
    (recallBlocked (put (spending p n o)) [0x3000]).isNone = true ∧ spendPresented (put (spending p n o)) grp.gid 1 = false :=
  fun p hp n hn o ho => ⟨group_of, by revert o; revert n; revert p; decide +kernel⟩

/-! ### Events of the window, the queues and the dispatchers -/

/-- A queue of 16 records with read pointer 5, in overrun or not; a window that is not live. -/
def queueState (x : Queue → Queue) : State := base.updQueue 2 fun y => x { y with base := 0x40000, z := 4, en := true, read := 5, done := 4, last := 7 }
theorem witness_WindowEvents : windowLive { base with fw := { base.fw with power := .off } } = false ∧ windowLive base = true ∧
    (∀ b ∈ [true, false], ((queueState fun y => { y with overrun := b, anyDoor := b }).queue 2).overrun = b) ∧
    ((queueState id).queue 2).last = 7 ∧ ((queueState id).queue 2).read + 2 ^ ((queueState id).queue 2).z = 21 ∧
    (base.queue 0).en = false ∧ inHbm (0x40000) = true ∧ base.launches ≠ [] ∧ State.reset.launches = [] ∧
    (base.host.resync = false ∧ (base.updHost fun h => { h with resync := true }).host.resync = true ∧ base.late = [] ∧ base.migr = [] ∧
      waitsHome base (.mem 0x40000) 4096 true = false ∧ inPool (2 ^ 43 * 64) = true ∧ ¬ (22 ≤ 5 + 2 ^ 4)) ∧ (∀ g ∈ base.groups, ¬ (g.ctx = 0 ∧ g.hold.host = true)) := by
  decide +kernel
theorem queueState_canonical : (queueState id).Canonical := canonical_of (by decide +kernel) (by decide +kernel)
def onHost : Group := { unmapped with hold := { Hold.reset with host := true }, fl := { Flight.reset with opLog := [opOf (.ld false)] } }
theorem witness_Creplay : (put onHost).groups.filter (fun g => g.ctx == 0 && g.hold.host) = [onHost] ∧
    (put onHost).group? onHost.gid = some onHost ∧
    (∀ m ∈ onHost.fl.opLog, m.failing (retryEngines (put onHost) 0) onHost .translation = []) := ⟨rfl, group_of, by decide +kernel⟩

/-- A queue whose next record is out of its reach, at an address of no memory, poisoned, and readable. -/
theorem witness_RecordFetch : deviceRuns (queueState id) = true ∧ ((queueState id).queue 2).read < ((queueState id).queue 2).last ∧
    ((queueState id).queue 2).read < ((queueState id).queue 2).done + 2 ∧ ((queueState fun y => { y with done := 3 }).queue 2).done = 3 ∧
    inMemory (0x40000 + 128 * 5) = true ∧ inMemory 0xF000000000000 = false ∧ poisonedAt (queueState id) (.mem (0x40000 + 128 * 5)) 128 = false ∧
    poisonedAt { queueState id with poison := [(0x40000 + 128 * 5) / 32] } (.mem (0x40000 + 128 * 5)) 128 = true ∧
    waitsHome (queueState id) (.mem (0x40000 + 128 * 5)) 128 false = false := by decide +kernel

/-- A launch that has ended, first in its queue. -/
def idleQueue : State :=
  { base with groups := [], blocks := [], queues := vset base.queues 0 { base.queue 0 with lids := [1] } }
theorem witness_LaunchRetire : (idleQueue.launch? 1).map (fun l => (l.q, launchDone idleQueue l, launchQuiet idleQueue l, l.lr.compl)) = some (0, true, true, 0) ∧
    (idleQueue.queue 0).lids = [1] ∧ idleQueue.late = [] ∧ idleQueue.migr = [] ∧ waitsHome idleQueue (.mem 0) 64 true = false := by decide +kernel

/-- A launch of four blocks that waits at the head of queue 0, gang or not, the dies' reports as they are. -/
def pending (gang : Bool) : Launch :=
  { placedLaunch 1 with next := 0, ganged := false, gridSet := false, lr := { placedRecord with gx := 4, coresident := gang, dbar := if gang then 4 else 0 } }
def room : Report := { cores := (List.range 8).map fun c => (c, 24, 524288), clus := [(0, 64, 8), (1, 64, 8)] }
def waiting (gang : Bool) : State :=
  { idleQueue with launches := [pending gang], disp := { idleQueue.disp with reports := (List.range 8).map fun d => (d, if d = 0 then room else ⟨[], []⟩) } }
theorem witness_DispatchBatch : (serveOrder (waiting false)).map Launch.lid = [1] ∧ gangAllows (waiting false) (pending false) = true ∧
    (pending false).pending 1 ≠ [] ∧ dieRoom (waiting false) 0 = some room ∧ (pending false).lr.clusterdim ≤ 1 ∧
    (room.placeMany (pending false).lr (fun c => openCore (waiting false) (pending false) c && setOk room (pending false).lr c) 1).isSome = true := by decide +kernel
def sent (n : Nat) : State :=
  { waiting false with disp := { (waiting false).disp with sends := [{ die := 0, lid := 1, blocks := List.replicate n { idx := 0, groups := [] } }] } }
theorem witness_BatchReceive : (sent 1).disp.sends.length = 1 ∧ (sent 1).launch? 1 = some (pending false) ∧ (pending false).how = none ∧
    (acceptCores (sent 1) (pending false) room [{ idx := 0, groups := [] }]).isSome = true ∧
    (contextHeld (sent 1) 0).isNone = true ∧ acceptCores (sent 1) (pending false) ⟨[], []⟩ [{ idx := 0, groups := [] }] = none ∧
    ∀ p ∈ (sent 1).disp.reports, p.1 = 0 → p.2.cores.length ≠ 80 := by decide +kernel
def gangRoom (s : State) : Report := lessReserved s (joinReports (s.disp.reports.map (·.2))) fun _ _ => false
theorem witness_GangDispatch : (waiting true).launch? 1 = some (pending true) ∧ gangWaits (waiting true) (pending true) = true ∧
    8 ≤ (waiting true).disp.reports.length ∧ ((waiting true).launches.filter Launch.gridSet).length < 16 ∧
    (gangFits (pending true).lr (openCore (waiting true) (pending true)) (gangRoom (waiting true)) (pending true).unplaced).isSome = true ∧
    (serveOrder (waiting true)).map Launch.lid = [1] ∧ (∀ g ∈ (waiting true).launches, g.lid = 1) ∧ (waiting true).blocks = [] := by
  decide +kernel

/-! ### Pre-emption -/

/-- The placed block, restartable or not, in a phase; handlers at 0x20180 and 0x20190, and a save area. -/
def block (p : BlockPhase) : Block := { placedBlock 1 2 with phase := p, preempt := true, entry := some (0, 8) }
def preempted (r : Bool) (b : Block) (gs : List Group) : State :=
  { base with
    groups := gs, blocks := [b], mem := bytesPut (bytesPut base.mem 0x20180 (leBytes 16 (2 ^ 96))) 0x20190 (leBytes 16 (2 ^ 96)),
    ctxs := vset base.ctxs 0 { base.ctx 0 with vector := 0x20000, saveBase := 0x80000, saveCnt := 4 },
    launches := base.launches.map fun l => { l with lr := { l.lr with restartable := r, cbar := 0, dbar := 0, coresident := false } } }
theorem witness_PreemptionEvents : (∀ r ∈ [true, false], canPreempt (preempted r (block .resident) [grp]) (block .resident) = true ∧
      (block .resident).preempt = true ∧ discardable (preempted r (block .draining) [grp]) (block .draining) = r ∧
      masked (preempted r (block .draining) [grp]) (block .draining) = false) ∧
    (preempted false (block .draining) [grp]).block? 2 = some (block .draining) ∧ (block .draining).entry = some (0, 8) ∧
    (handlerHeld (preempted false (block .resident) [grp]) (block .resident) 0x18).isNone = true ∧
    (∃ g ∈ (preempted false (block .draining) [grp]).groups, g.bid = 2) := by decide +kernel
def savedBlock : Block := { block .saved with saved := [grp] }
theorem witness_BlockRestore : (preempted false savedBlock []).block? 2 = some savedBlock ∧ ((preempted false savedBlock []).queue 0).hold = false ∧
    handlerOf (preempted false savedBlock []) savedBlock 0x19 = some (0, 0) ∧
    (contextHeld (preempted false savedBlock []) 0).isNone = true ∧ newAhead (preempted false savedBlock []) savedBlock = false ∧
    ((preempted false savedBlock []).launch? 1).map (fun l => (l.lr.coresident, restoreFits l.lr room [savedBlock])) = some (false, true) := by
  decide +kernel

/-! ### Links, peers, power -/

def cached (st : L3St) : State := base.updHost fun h => { h with l3 := [{ line := 2 ^ 42, st := st, die := 0, by_ := none, home := [] }] }
theorem witness_HostEvents : deviceRuns base = true ∧ inHbm 0x40 = true ∧ lineWaits base 0x40 64 = false ∧ (bytesBlocked base 0x40 64).isNone = true ∧ onGalleyPage base 0x40 64 = false ∧
    onGalleyPage { base with galfloor := [{ page := 0, bits := 13, floor := 0, entries := [placedLeaf], was := [] }] } 0x40 64 = true ∧
    tokenHeld base (.mem 0x40) 64 = false ∧ poisonedAt (recallBytes base 0x40 64) (.mem 0x40) 64 = false ∧
    (let c : Sector := { sector := 2, galley := 0, list := [{ n := 0, isSealed := true, mask := 0, bytes := List.replicate 32 7, spilled := false }] }
     (recallBytes { base with imps := [c] } 0x40 64).imps.find? (fun x => x.sector == redirect base 0x40 / 32) = some c ∧
      (c.newestSealed fun _ => true).map Imp.bytes = some (List.replicate 32 7) ∧
      (recallBytes { base with imps := [c] } 0x40 64).imps.find? (fun x => x.sector == redirect base 0x60 / 32) = none) ∧
    fenced base (redirect base (5 * 64)) = false ∧ 5 ∈ (base.updHost fun h => { h with snoops := [5] }).host.snoops ∧
    (∀ st ∈ [L3St.i, .s, .e, .o, .m], ((cached st).host.l3.find? fun x => x.line == 2 ^ 42).map L3Line.st = some st) ∧
    (base.host.l3.find? fun x => x.line == 2 ^ 42) = none := by decide +kernel
theorem witness_HostMemory : inHost (2 ^ 48) = true ∧ inHost (2 ^ 48 + 63) = true ∧ inHost (2 ^ 42 * 64) = true ∧ inPool (2 ^ 43 * 64) = true ∧
    ∀ o ∈ [0, 63], lineOut base ((2 ^ 48 + o) / 64) = true := by decide +kernel

/-- A queued store to device 9, which is reached by port 1. -/
def farWrite : SqEntry := { queued (.store [(0, 7)]) with place := .mem (peerKey 9 0x100) }
def routed : State := { base.updHost fun h => { h with routes := vset h.routes 9 2 } with sq := [farWrite] }
theorem witness_PeerPort : onPort routed 1 farWrite = true ∧ routed.host.peerUp.getLsbD 1 = true ∧ deviceRuns routed = true ∧
    farWrite.isSite routed grp.lid (siteOf routed grp.lid 2 0 0 0x100 0 0 0) inPeer = true ∧
    farWrite.isSite routed grp.lid (siteOf routed grp.lid 2 4 0 0x100 0 0 0) inPeer = false := by decide +kernel

/-- A device that admits peer 3 and whose pool range 2 is valid. -/
def peered : State := base.updHost fun h => { h with peeracc := 8, poolrng := vset h.poolrng 2 0x8000000000000000 }
theorem witness_FailureEvents : deviceRuns peered = true ∧ (∀ d ∈ [3, 4], peered.host.peeracc.getLsbD d = (d == 3)) ∧
    (∀ r ∈ [PeerReq.read 0x40 8, .write 0x40 [1]], (peerSpan r).2.1 ≠ 0 ∧ inHbm (peerSpan r).1 = true ∧
      inHbm ((peerSpan r).1 + (peerSpan r).2.1 - 1) = true ∧ waitsHome peered (.mem (peerSpan r).1) (peerSpan r).2.1 (peerSpan r).2.2 = false ∧
      (bytesBlocked peered (peerSpan r).1 (peerSpan r).2.1).isNone = true) ∧ (peered.launch? grp.lid).isSome = true ∧
    peered.host.peerUp.getLsbD 1 = true ∧ (vget 0 peered.host.poolrng 2).getLsbD 63 = true ∧ peered.host.poolUp.getLsbD 0 = true ∧
    corePresent peered 639 = true ∧ (peered.coreRegs 639).failed = false := by decide +kernel

/-- No image of zero bytes verifies. That an image verifies rests on the free functions of log 9, so no numeral shows it. -/
theorem witness_PowerStates : base.fw.rewrite = none ∧ waitsHome base (.mem 0x40000) 16 false = false ∧ inHbm (0x40000 + 16 - 1) = true ∧
    poisonedAt base (.mem 0x40000) 16 = false ∧ poisonedAt { base with poison := [0x2000] } (.mem 0x40000) 16 = true ∧
    ({ base.fw with rewrite := some [1] } : Firmware).rewrite = some [1] ∧ ({ base.fw with power := .d3hot } : Firmware).power = .d3hot ∧
    base.host.l3 = [] := by decide +kernel
theorem witness_LongImage : 2 ^ 24 < (List.replicate (2 ^ 24 + 1) (0 : Byte)).length := by
  rw [List.length_replicate]
  decide

theorem witness_PowerEvents : imageOk base.fw [] = false ∧ imageOk base.fw base.fw.image = false ∧ deviceRuns base = true ∧
    ({ base.fw with boot := .recovery } : Firmware).power ≠ .off ∧ (List.replicate 32 (0 : Byte)).length = 32 ∧ 450 % 50 = 0 ∧ 900 % 50 = 0 ∧
    base.fw.power ≠ .off := by
  refine ⟨?_, ?_, by decide +kernel, by decide +kernel, by decide, by decide, by decide, by decide +kernel⟩
  all_goals simp [imageOk, base, State.withFetchWord, placeWord, State.reset, Firmware.reset]

/-! ### The remaining hypotheses -/

theorem placed_canonical : (placed 0).Canonical := canonical_of (by decide +kernel) (by decide +kernel)
theorem witness_StepKeepsCanonical : (next? (step (placed 0))).isSome = true := by decide +kernel
theorem witness_small : (List.range 32).Pairwise (· < ·) ∧ (3 ≤ 3 ∧ ¬ 3 ≤ 2) ∧ (busy.shadow.planes < 8 ∧ busy.live.planes < 8) ∧
    (galleyWith false).imps.all (fun c => ((c.find? 0).map Imp.isSealed) == some false) = true := by decide +kernel

/-! ## The management window (R412, R413, R422, R435) -/

theorem test_window_queue : windowRead (qctlWrite State.reset 2 0x01050104) 0x1088 = 0x01050104 := by decide +kernel

theorem test_window_capability :
    windowRead State.reset 0 = 0x4000 ∧ windowRead State.reset 0x4000 = 0x0000001801000001 ∧
    windowRead State.reset 0x4010 = 0x3637352D384C574B ∧ windowByte (powerOff State.reset 0) 0x4010 = 0 := by decide +kernel

end Sys2Proof.Tests
end

section
/-!
SUPPORT. What the writes performed at their homes, the device's own writes, the records of faults and the end of a grid leave of
the registers that the events of links and failures change (R14, R409, R412).
-/

namespace Sys2Proof.Machine

/-! ## Bits of a register -/

/-- The bit that is set. -/
theorem getLsbD_setBit {w : Nat} (x : BitVec w) {b : Nat} (h : b < w) :
    (x ||| ((1 <<< b : Nat) : BitVec w)).getLsbD b = true := by
  rw [BitVec.getLsbD_or, BitVec.natCast_eq_ofNat, BitVec.getLsbD_ofNat, Nat.one_shiftLeft, Nat.testBit_two_pow_self]
  simp [h]

/-- The bits that stay where one is cleared. -/
theorem getLsbD_clearBit {w : Nat} (x : BitVec w) (b k : Nat) :
    (x &&& ~~~((1 : BitVec w) <<< b)).getLsbD k = (x.getLsbD k && k != b) := by
  by_cases hk : k < w
  · have one : ((1 : BitVec w) <<< b).getLsbD k = (k == b) := by
      show (1#w <<< b).getLsbD k = (k == b)
      rw [BitVec.getLsbD_shiftLeft, BitVec.getLsbD_one, Bool.eq_iff_iff]
      simp only [Bool.and_eq_true, Bool.not_eq_true', decide_eq_true_eq, decide_eq_false_iff_not, beq_iff_eq]
      omega
    rw [BitVec.getLsbD_and, BitVec.getLsbD_not, one]
    simp [hk, bne]
  · rw [BitVec.getLsbD_of_ge _ _ (by omega), BitVec.getLsbD_of_ge x _ (by omega), Bool.false_and]

/-! ## Frames -/

/-- The registers of cores, firmware, pool ranges and pool ports: no write, record or end of a grid changes them. -/
def State.regs (s : State) : List (Nat × CoreRegs) × Firmware × Vector DWord 16 × BitVec 2 :=
  (s.cores, s.fw, s.host.poolrng, s.host.poolUp)

/-- These registers, the launches and the management events: no write performed at its home changes them. -/
def State.still (s : State) : (List (Nat × CoreRegs) × Firmware × Vector DWord 16 × BitVec 2) × List Launch × DWord :=
  (s.regs, s.launches, s.host.event)

/-- How a launch has ended: no launch, one that still runs, one with its end. -/
def State.endOf (s : State) (l : Nat) : Option (Option LaunchEnd) := (s.launch? l).map Launch.how

/-- The registers and the launches stay, and no management event is cleared. -/
structure Quiet (s t : State) : Prop where
  regs : t.regs = s.regs
  launches : t.launches = s.launches
  event : ∀ k, s.host.event.getLsbD k = true → t.host.event.getLsbD k = true

/-- The registers stay, a launch that has ended keeps its end, and no management event is cleared. -/
structure Keeps (s t : State) : Prop where
  regs : t.regs = s.regs
  ended : ∀ l h, s.endOf l = some (some h) → t.endOf l = some (some h)
  event : ∀ k, s.host.event.getLsbD k = true → t.host.event.getLsbD k = true

theorem Quiet.of_still {s t : State} (h : t.still = s.still) : Quiet s t := by
  simp only [State.still, Prod.mk.injEq] at h
  obtain ⟨hr, hl, he⟩ := h
  exact ⟨hr, hl, fun k hk => by rw [he]; exact hk⟩

theorem Quiet.refl (s : State) : Quiet s s := .of_still rfl

theorem Quiet.updCtx {s t : State} (h : Quiet s t) (c : Nat) (f : Ctx → Ctx) : Quiet s (t.updCtx c f) :=
  ⟨h.regs, h.launches, h.event⟩

theorem Quiet.trans {s t u : State} (a : Quiet s t) (b : Quiet t u) : Quiet s u :=
  ⟨b.regs.trans a.regs, b.launches.trans a.launches, fun k hk => b.event k (a.event k hk)⟩

theorem Quiet.endOf {s t : State} (h : Quiet s t) (l : Nat) : t.endOf l = s.endOf l := by
  simp only [State.endOf, State.launch?, h.launches]

theorem Quiet.keeps {s t : State} (h : Quiet s t) : Keeps s t :=
  ⟨h.regs, fun l _ hl => (h.endOf l).trans hl, h.event⟩

theorem Keeps.refl (s : State) : Keeps s s := ⟨rfl, fun _ _ h => h, fun _ h => h⟩

theorem Keeps.trans {s t u : State} (a : Keeps s t) (b : Keeps t u) : Keeps s u :=
  ⟨b.regs.trans a.regs, fun l h hl => b.ended l h (a.ended l h hl), fun k hk => b.event k (a.event k hk)⟩

theorem Keeps.cores {s t : State} (h : Keeps s t) : t.cores = s.cores := congrArg (·.1) h.regs
theorem Keeps.fw {s t : State} (h : Keeps s t) : t.fw = s.fw := congrArg (·.2.1) h.regs
theorem Keeps.poolrng {s t : State} (h : Keeps s t) : t.host.poolrng = s.host.poolrng := congrArg (·.2.2.1) h.regs
theorem Keeps.poolUp {s t : State} (h : Keeps s t) : t.host.poolUp = s.host.poolUp := congrArg (·.2.2.2) h.regs

theorem foldl_still {α : Type} {f : State → α → State} (hf : ∀ s x, (f s x).still = s.still) (l : List α) (s : State) :
    (l.foldl f s).still = s.still :=
  List.foldlRecOn l f (motive := fun u => u.still = s.still) rfl fun u hu x _ => (hf u x).trans hu

theorem foldl_keeps {α : Type} {f : State → α → State} (hf : ∀ s x, Keeps s (f s x)) (l : List α) (s : State) :
    Keeps s (l.foldl f s) :=
  List.foldlRecOn l f (motive := Keeps s) (Keeps.refl s) fun u hu x _ => hu.trans (hf u x)

/-! ## Writes performed at their homes -/

@[simp] theorem l3Write_still (s : State) (die : Nat) (by_ : Option Writer) (key : Nat) :
    (l3Write s die by_ key).still = s.still := by
  unfold l3Write
  split
  · dsimp only
    split <;> rfl
  · rfl

@[simp] theorem dropVersions_still (s : State) (lid : Nat) : (dropVersions s lid).still = s.still := by
  unfold dropVersions
  split <;> rfl

@[simp] theorem putMem_still (s : State) (tag : Option (Nat × Nat)) (key : Nat) (bs : List (Nat × Byte)) :
    (putMem s tag key bs).still = s.still := by
  unfold putMem
  split
  · rfl
  · exact dropVersions_still _ _

@[simp] theorem bumpStamp_still (s : State) (key : Nat) : (bumpStamp s key).still = s.still := by
  unfold bumpStamp
  split <;> rfl

@[simp] theorem dropGalleys_still (s : State) (key : Nat) : (dropGalleys s key).still = s.still := by
  unfold dropGalleys
  dsimp only
  split <;> rfl

@[simp] theorem writeHome_still (s : State) (tag : Option (Nat × Nat)) (die : Nat) (by_ : Option Writer) (p : Place)
    (bs : List (Nat × Byte)) : (writeHome s tag die by_ p bs).still = s.still := by
  unfold writeHome
  split
  · rfl
  · cases p with
    | case k => rfl
    | mem k =>
      have h : (dropGalleys (bumpStamp (putMem (l3Write s die by_ (redirect s k)) tag (redirect s k) bs) (redirect s k))
          (redirect s k)).still = s.still := by simp
      dsimp only
      split
      · rfl
      · split
        · exact h
        · exact h

@[simp] theorem writeRun_still (s : State) (tag : Option (Nat × Nat)) (die : Nat) (by_ : Option Writer) (p : Place)
    (bytes : List Byte) : (writeRun s tag die by_ p bytes).still = s.still := by
  cases p with
  | case k => rfl
  | mem k => exact foldl_still (fun s (x : Nat × List (Nat × Byte)) => writeHome_still s tag die by_ (.mem x.1) x.2) _ s

@[simp] theorem performEntry_still (s : State) (e : SqEntry) : (performEntry s e).still = s.still := by
  unfold performEntry
  dsimp only
  split
  · rfl
  · exact writeHome_still _ _ _ _ _ _
  · split
    · rfl
    · split
      · exact writeHome_still _ _ _ _ _ _
      · rfl

@[simp] theorem performWhere_still (s : State) (c : SqEntry → Bool) : (performWhere s c).still = s.still :=
  foldl_still performEntry_still _ s

/-! ## The device's own writes -/

@[simp] theorem sysWriteAt_still (s : State) (pa : Nat) (bytes : List Byte) : (sysWriteAt s pa bytes).still = s.still :=
  writeRun_still _ _ _ _ _ _

@[simp] theorem traceNow_still (s : State) (base n : Nat) (slots : List (List Byte)) :
    (traceNow s base n slots).still = s.still := by
  unfold traceNow
  split
  · exact sysWriteAt_still _ _ _
  · exact (sysWriteAt_still _ _ _).trans (foldl_still (fun s (x : Nat × List Byte) => sysWriteAt_still s x.1 x.2) _ s)

@[simp] theorem bumpNow_still (s : State) (die word : Nat) : (bumpNow s die word).still = s.still :=
  (writeHome_still _ _ _ _ _ _).trans (performWhere_still s _)

@[simp] theorem askHost_still (s : State) (p : Place) (n : Nat) (write : Bool) : (askHost s p n write).still = s.still := by
  cases p <;> rfl

/-- A management event is set beside those that stand. -/
theorem setEvent_quiet (s : State) (x : DWord) : Quiet s (s.updHost fun h => { h with event := h.event ||| x }) :=
  ⟨rfl, rfl, fun k hk => by
    show (s.host.event ||| x).getLsbD k = true
    rw [BitVec.getLsbD_or, hk, Bool.true_or]⟩

theorem lateNow_quiet (s : State) (x : Late) : Quiet s (lateNow s x) := by
  cases x with
  | write pa bytes => exact .of_still (sysWriteAt_still s pa bytes)
  | trace base n slots => exact .of_still (traceNow_still s base n slots)
  | bump die w => exact .of_still (bumpNow_still s die w)
  | msix v => exact .of_still rfl
  | event b => exact setEvent_quiet s _
  | resyncDone => exact .of_still rfl

theorem lateRun_quiet (s : State) (l : List Late) : Quiet s (lateRun s l) := by
  induction l generalizing s with
  | nil => exact .of_still rfl
  | cons x xs ih =>
    unfold lateRun
    split
    · exact .of_still (askHost_still s _ _ _)
    · exact (lateNow_quiet s x).trans (ih _)

theorem lateDo_quiet (s : State) (x : Late) : Quiet s (lateDo s x) := lateRun_quiet s _

theorem mgmtEvent_quiet (s : State) (b : Nat) : Quiet s (mgmtEvent s b) := (setEvent_quiet s _).trans (lateDo_quiet _ _)

/-- R412: a management event is set, also where its interrupt waits. -/
theorem mgmtEvent_event (s : State) {b : Nat} (h : b < 64) : (mgmtEvent s b).host.event.getLsbD b = true := by
  refine (lateDo_quiet _ _).event b ?_
  exact getLsbD_setBit s.host.event h

theorem postRecord_quiet (s : State) (ctx x : Nat) : Quiet s (postRecord s ctx x) := by
  unfold postRecord
  dsimp only
  split
  · exact ((Quiet.refl s).updCtx ctx _).trans (mgmtEvent_quiet _ 4)
  · exact ((lateDo_quiet s (.write _ _)).updCtx ctx _).trans (lateDo_quiet _ _)

/-! ## The end of a grid (R270, R379) -/

@[simp] theorem settleBatches_still (s : State) (gid : Nat) : (settleBatches s gid).still = s.still := rfl

@[simp] theorem returnLanes_still (s : State) (hs : List Helper) : (returnLanes s hs).still = s.still :=
  foldl_still (fun s h => by split <;> rfl) hs s

@[simp] theorem forceLig_still (s : State) (gid stat : Nat) : (forceLig s gid stat).still = s.still := by
  unfold forceLig
  split
  · rfl
  · split
    · rfl
    · exact returnLanes_still s _

@[simp] theorem forceLenders_still (s : State) (c : Nat → Bool) : (forceLenders s c).still = s.still := by
  refine foldl_still (fun s g => ?_) _ s
  split
  · split
    · exact forceLig_still s _ 1
    · rfl
  · rfl

@[simp] theorem freeAreas_still (s : State) (bs : List Block) : (freeAreas s bs).still = s.still :=
  foldl_still (fun (s : State) (b : Block) =>
    show (s.updCtx b.ctx fun c => { c with areas := c.areas.filter fun a => b.area != some a }).still = s.still from rfl) bs s

/-- The grid's end is entered into its launch; what else the end of a grid does leaves registers and launches. -/
theorem endGrid_updLaunch (s : State) (lid : Nat) (how : LaunchEnd) : ∃ (u : State) (f : Launch → Launch),
    endGrid s lid how = u.updLaunch lid f ∧ u.still = s.still ∧
    (∀ x, (f x).lid = x.lid) ∧ ∀ x, (f x).how = x.how.orElse fun _ => some how := by
  refine ⟨_, _, rfl, ?_, fun _ => rfl, fun _ => rfl⟩
  refine (freeAreas_still _ _).trans ((forceLenders_still _ _).trans ?_)
  exact (foldl_still (fun s g => forceLig_still s g 0) _ _).trans (foldl_still settleBatches_still _ s)

theorem endGrid_endOf (s : State) (lid l : Nat) (how : LaunchEnd) : (endGrid s lid how).endOf l =
    if l = lid then (s.endOf l).map (fun h => h.orElse fun _ => some how) else s.endOf l := by
  obtain ⟨u, f, he, hu, hlid, hhow⟩ := endGrid_updLaunch s lid how
  have hl : u.launch? l = s.launch? l := by simp only [State.launch?, (Quiet.of_still hu).launches]
  rw [he, State.endOf, launch?_updLaunch u lid l f hlid, hl]
  split
  · simp only [State.endOf, Option.map_map]
    exact Option.map_congr fun x _ => hhow x
  · rfl

theorem endGrid_keeps (s : State) (lid : Nat) (how : LaunchEnd) : Keeps s (endGrid s lid how) := by
  obtain ⟨u, f, he, hu, -, -⟩ := endGrid_updLaunch s lid how
  have q := Quiet.of_still hu
  refine ⟨by rw [he]; exact q.regs, fun l h hl => ?_, by rw [he]; exact q.event⟩
  rw [endGrid_endOf, hl]
  split <;> rfl

theorem endBySite_keeps (s : State) (w : Writer) : Keeps s (endBySite s w) := by
  unfold endBySite
  split
  · exact (postRecord_quiet s _ _).keeps.trans (endGrid_keeps _ _ _)
  · exact (postRecord_quiet s _ _).keeps

/-- R379: the error of a launch that is left ends its grid, where nothing has ended it. -/
theorem endBySite_endOf {s : State} {w : Writer} {x : Launch} (h : s.launch? w.lid = some x) :
    (endBySite s w).endOf w.lid = some (x.how.orElse fun _ => some (.fault 0x12 (siteRecord w.site true))) := by
  have hx : s.endOf w.lid = some x.how := by rw [State.endOf, h]; rfl
  simp only [endBySite, h]
  rw [endGrid_endOf, if_pos rfl, (postRecord_quiet s _ _).endOf, hx]
  rfl

/-! ## The failure of a pool range (R409) -/

theorem dropLine_keeps (s : State) (x : L3Line) : Keeps s (dropLine s x) := by
  unfold dropLine
  split
  · have put : ({ s with mem := bytesPut s.mem (x.line * 64) x.home } : State).still = s.still := rfl
    exact (Quiet.of_still put).keeps.trans (foldl_keeps endBySite_keeps _ _)
  · exact Keeps.refl s

/-- The register of a pool range that has failed with a cause: fenced, the cause in its field. -/
def failedRange (e : DWord) (cause : Nat) : DWord :=
  (e &&& ~~~0x7F00000000000000) ||| BitVec.ofNat 64 (2 ^ 62 + 2 ^ 56 * cause)

theorem failedRange_fence (e : DWord) (cause : Nat) :
    (failedRange e cause).extractLsb' 56 7 = BitVec.ofNat 7 (0x40 + cause) := by
  have old : (~~~(0x7F00000000000000 : DWord)).extractLsb' 56 7 = 0 := by decide
  have new : (BitVec.ofNat 64 (2 ^ 62 + 2 ^ 56 * cause)).extractLsb' 56 7 = BitVec.ofNat 7 (0x40 + cause) := by
    apply BitVec.eq_of_toNat_eq
    simp only [BitVec.extractLsb'_toNat, BitVec.toNat_ofNat, Nat.shiftRight_eq_div_pow]
    omega
  rw [failedRange, BitVec.extractLsb'_or, BitVec.extractLsb'_and, old, new]
  simp

/-- The range is fenced at once; dropping its lines and telling the host keep what stands then. -/
theorem failRange_keeps (s : State) (i cause : Nat) : ∃ u : State,
    u.host = { s.host with l3 := u.host.l3, poolrng := vset s.host.poolrng i (failedRange (vget 0 s.host.poolrng i) cause) } ∧
    u.launches = s.launches ∧ Keeps u (failRange s i cause) := by
  refine ⟨_, ?_, ?_, (foldl_keeps dropLine_keeps _ _).trans (mgmtEvent_quiet _ 1).keeps⟩
  · rfl
  · rfl

theorem failRange_poolrng (s : State) (i cause : Nat) : (failRange s i cause).host.poolrng =
    vset s.host.poolrng i (failedRange (vget 0 s.host.poolrng i) cause) := by
  obtain ⟨u, hu, -, hk⟩ := failRange_keeps s i cause
  rw [hk.poolrng, hu]

end Sys2Proof.Machine
end

section
/-!
SUPPORT. The events of peers, ports, pool ranges and cores, and the values of reset (R12, R14, R40, R408 to R413).
-/

namespace Sys2Proof.Machine

/-! ## Requests of peers (R411) -/

theorem execPeerRequest_refused {s : State} (hd : deviceRuns s = true) (dev : BitVec 8) {r : PeerReq} (hn : (peerSpan r).2.1 ≠ 0)
    (hlo : inHbm (peerSpan r).1 = true) (hhi : inHbm ((peerSpan r).1 + (peerSpan r).2.1 - 1) = true)
    (hacc : s.host.peeracc.getLsbD dev.toNat = false) :
    execPeerRequest dev r s = .next (s.updHost fun h => { h with outbox := h.outbox ++ [.peerRefused dev.toNat] }) := by
  simp [execPeerRequest, event, hd, hn, hlo, hhi, hacc]

theorem execPeerRequest_served {s : State} (hd : deviceRuns s = true) (dev : BitVec 8) {r : PeerReq} (hn : (peerSpan r).2.1 ≠ 0)
    (hlo : inHbm (peerSpan r).1 = true) (hhi : inHbm ((peerSpan r).1 + (peerSpan r).2.1 - 1) = true)
    (hacc : s.host.peeracc.getLsbD dev.toNat = true)
    (hfree : waitsHome s (.mem (peerSpan r).1) (peerSpan r).2.1 (peerSpan r).2.2 = false)
    (hopen : bytesBlocked s (peerSpan r).1 (peerSpan r).2.1 = none) :
    execPeerRequest dev r s = .next (servePeer s dev.toNat r) := by
  simp [execPeerRequest, event, hd, hn, hlo, hhi, hacc, hfree, hopen]

/-! ## Losses on peer links (R410, R411) -/

theorem peerLoss_next {s : State} (hd : deviceRuns s = true) (name : String) (l : Nat) {site : AsyncSite} (hc : site.code = 2) :
    peerLoss name l site s =
      .next { loseAccess s l site inPeer with async := s.async ++ [siteWriter s l site] } := by
  simp [peerLoss, event, hd, hc, loseAccess]

/-- A lost access leaves neither queue with a write of its site, and the others stay. -/
theorem isSite_loseAccess {s : State} {l : Nat} {site : AsyncSite} {on : Nat → Bool} {q : SqEntry}
    (hq : q ∈ (loseAccess s l site on).sq ++ (loseAccess s l site on).wp) : q.isSite s l site on = false := by
  rcases List.mem_append.mp hq with h | h <;> simpa using (List.mem_filter.mp h).2

theorem mem_sq_loseAccess {s : State} {l : Nat} {site : AsyncSite} {on : Nat → Bool} {q : SqEntry} (hq : q ∈ s.sq)
    (hs : q.isSite s l site on = false) : q ∈ (loseAccess s l site on).sq :=
  List.mem_filter.mpr ⟨hq, by rw [hs]; rfl⟩

/-- The errors of queued writes that are lost at once. -/
def lostErrors (s : State) (lost : List SqEntry) : State :=
  lost.foldl (fun s e => asyncError s e.lid 2 e.pc e.seq e.va e.bidx e.core e.grp) s

theorem lostErrors_eq (s : State) (lost : List SqEntry) : lostErrors s lost = { s with async := (lostErrors s lost).async } :=
  List.foldlRecOn lost _ (motive := fun u : State => u = { s with async := u.async }) rfl fun u hu e _ => by
    rw [hu]; rfl

theorem lostErrors_async {lost : List SqEntry} {e : SqEntry} (he : e ∈ lost) (s : State) :
    ∃ a ∈ (lostErrors s lost).async, a.lid = e.lid ∧ a.site.code = 2 ∧ a.site.seq = e.seq := by
  have grows : ∀ (r : List SqEntry) (u : State), ∀ a ∈ u.async, a ∈ (lostErrors u r).async := fun r u a ha =>
    List.foldlRecOn r _ (motive := fun v : State => a ∈ v.async) ha fun v hv f _ => List.mem_append_left _ hv
  induction lost generalizing s with
  | nil => cases he
  | cons f r ih =>
    rcases List.mem_cons.mp he with rfl | hr
    · exact ⟨_, grows r _ _ (List.mem_append_right _ (List.mem_singleton.mpr rfl)), rfl, rfl, rfl⟩
    · exact ih hr _

/-- The queued writes named that are in flight on a port. -/
def lostOnPort (s : State) (port : Nat) (hit : List Nat) : List SqEntry :=
  (s.sq ++ s.wp).filter fun e => hit.contains e.id && onPort s port e

/-- A queue without the writes of a list. -/
def withoutLost (lost q : List SqEntry) : List SqEntry := q.filter fun e => !lost.any fun f => f.id == e.id

/-- The state without the queued writes that a port loses, their errors kept. -/
def losePort (s : State) (port : Nat) (hit : List Nat) : State :=
  let lost := lostOnPort s port hit
  lostErrors { s with sq := withoutLost lost s.sq, wp := withoutLost lost s.wp } lost

theorem losePort_eq (s : State) (port : Nat) (hit : List Nat) : losePort s port hit =
    { s with sq := withoutLost (lostOnPort s port hit) s.sq, wp := withoutLost (lostOnPort s port hit) s.wp,
             async := (losePort s port hit).async } :=
  lostErrors_eq _ _

theorem execPeerPortDown_next {s : State} (hd : deviceRuns s = true) {port : BitVec 4}
    (hup : s.host.peerUp.getLsbD port.toNat = true) (hit : List Nat) : execPeerPortDown port hit s = .next
      ((losePort s port.toNat hit).updHost fun h => { h with
        peerUp := h.peerUp &&& ~~~((1 : BitVec 16) <<< port.toNat),
        routes := h.routes.map fun m => m &&& ~~~((1 : BitVec 16) <<< port.toNat) }) := by
  simp only [execPeerPortDown, hd, hup]
  rfl

theorem id_withoutLost {lost q : List SqEntry} {e : SqEntry} (he : e ∈ lost) : ∀ f ∈ withoutLost lost q, f.id ≠ e.id := by
  intro f hf hid
  have hk := (List.mem_filter.mp hf).2
  simp only [Bool.not_eq_true', List.any_eq_false, beq_iff_eq] at hk
  exact hk e he hid.symm

theorem vget_map {α : Type} {n : Nat} (d : α) (v : Vector α n) (f : α → α) {i : Nat} (h : i < n) :
    vget d (v.map f) i = f (vget d v i) := by
  simp [vget, h]

/-! ## Failures of pool ranges (R408, R409) -/

theorem execPoolPoison_next {s : State} (hd : deviceRuns s = true) {k : BitVec 4}
    (hk : (vget 0 s.host.poolrng k.toNat).getLsbD 63 = true) : execPoolPoison k s = .next (failRange s k.toNat 1) := by
  simp only [execPoolPoison, hd, hk]
  rfl

theorem execPoolRequestTimeout_next {s : State} (hd : deviceRuns s = true) {k : BitVec 4}
    (hk : (vget 0 s.host.poolrng k.toNat).getLsbD 63 = true) (l : Nat) {site : AsyncSite} (hc : site.code = 3) :
    execPoolRequestTimeout k l site s = .next (failRange (endBySite
      (loseAccess s l site fun a => poolRange s a == some k.toNat) (siteWriter s l site)) k.toNat 2) := by
  simp only [execPoolRequestTimeout, hd, hk, hc]
  rfl

/-- The pool ports that stay up when one goes down. -/
def portDown (s : State) (port : Nat) : State :=
  s.updHost fun h => { h with poolUp := h.poolUp &&& ~~~((1 : BitVec 2) <<< port) }

/-- The enabled pool ranges behind a pool port (R402). -/
def rangesOn (s : State) (port : Nat) : List Nat :=
  (List.range 16).filter fun i => (vget 0 s.host.poolrng i).getLsbD 63 && rangePort (vget 0 s.host.poolrng i) == port

theorem mem_rangesOn {s : State} {k : Nat} (hk : k < 16) (hv : (vget 0 s.host.poolrng k).getLsbD 63 = true) :
    k ∈ rangesOn s (rangePort (vget 0 s.host.poolrng k)) :=
  List.mem_filter.mpr ⟨List.mem_range.mpr hk, by rw [hv, Bool.true_and, beq_self_eq_true]⟩

theorem execPoolPortDown_next {s : State} (hd : deviceRuns s = true) {port : BitVec 1}
    (hup : s.host.poolUp.getLsbD port.toNat = true) : execPoolPortDown port s = .next
      ((rangesOn s port.toNat).foldl (fun s i => failRange s i 3) (portDown s port.toNat)) := by
  simp only [execPoolPortDown, hd, hup]
  rfl

/-- The fence bit of a range's register, with the cause below it (R407). -/
def fenceField (s : State) (k : Nat) : BitVec 7 := (vget 0 s.host.poolrng k).extractLsb' 56 7

theorem fenceField_failRange (s : State) {k : Nat} (hk : k < 16) (cause : Nat) :
    fenceField (failRange s k cause) k = BitVec.ofNat 7 (0x40 + cause) := by
  rw [fenceField, failRange_poolrng, vget_vset_same _ _ _ hk, failedRange_fence]

theorem fenceField_failRange_other (s : State) {k i : Nat} (h : k ≠ i) (cause : Nat) :
    fenceField (failRange s i cause) k = fenceField s k := by
  rw [fenceField, failRange_poolrng, vget_vset_other _ _ _ h, fenceField]

/-- R409: every range of a list is fenced with the cause, once each has failed. -/
theorem fenceField_failRanges {hit : List Nat} {k : Nat} (hk : k < 16) (cause : Nat) (hm : k ∈ hit) (s : State) :
    fenceField (hit.foldl (fun s i => failRange s i cause) s) k = BitVec.ofNat 7 (0x40 + cause) := by
  have stays : ∀ (r : List Nat) (u : State), fenceField u k = BitVec.ofNat 7 (0x40 + cause) →
      fenceField (r.foldl (fun s i => failRange s i cause) u) k = BitVec.ofNat 7 (0x40 + cause) := fun r u hu =>
    List.foldlRecOn r _ (motive := fun v : State => fenceField v k = BitVec.ofNat 7 (0x40 + cause)) hu fun v hv i _ => by
      by_cases hi : k = i
      · rw [← hi, fenceField_failRange v hk]
      · rw [fenceField_failRange_other v hi, hv]
  induction hit generalizing s with
  | nil => cases hm
  | cons i r ih =>
    rcases List.mem_cons.mp hm with rfl | hr
    · exact stays r _ (fenceField_failRange s hk cause)
    · exact ih hr _

theorem failRange_poolUp (s : State) (i cause : Nat) : (failRange s i cause).host.poolUp = s.host.poolUp := by
  obtain ⟨u, hu, -, hk⟩ := failRange_keeps s i cause
  rw [hk.poolUp, hu]

theorem failRanges_poolUp (hit : List Nat) (cause : Nat) (s : State) :
    (hit.foldl (fun s i => failRange s i cause) s).host.poolUp = s.host.poolUp :=
  List.foldlRecOn hit _ (motive := fun u : State => u.host.poolUp = s.host.poolUp) rfl fun u hu i _ =>
    (failRange_poolUp u i cause).trans hu

/-- R409: the host is told of a range that fails. -/
theorem failRange_event (s : State) (i cause : Nat) : (failRange s i cause).host.event.getLsbD 1 = true :=
  mgmtEvent_event _ (by decide)

theorem failRange_endOf {s : State} {l : Nat} {h : LaunchEnd} (hl : s.endOf l = some (some h)) (i cause : Nat) :
    (failRange s i cause).endOf l = some (some h) := by
  obtain ⟨u, -, hu, hk⟩ := failRange_keeps s i cause
  refine hk.ended l h ?_
  rw [← hl]
  simp only [State.endOf, State.launch?, hu]

/-- R408: the request that timed out ends its grid, where nothing has ended it, and the failure of the range keeps that end. -/
theorem timeout_endOf {s : State} {l : Nat} {x : Launch} (hx : s.launch? l = some x) (site : AsyncSite)
    (on : Nat → Bool) (k : Nat) :
    (failRange (endBySite (loseAccess s l site on) (siteWriter s l site)) k 2).endOf l =
      some (x.how.orElse fun _ => some (.fault 0x12 (siteRecord site true))) := by
  have ended := endBySite_endOf (s := loseAccess s l site on) (w := siteWriter s l site) hx
  have known : ∃ h, (x.how.orElse fun _ => some (.fault 0x12 (siteRecord site true))) = some h := by
    cases x.how with
    | none => exact ⟨_, rfl⟩
    | some h => exact ⟨h, rfl⟩
  obtain ⟨h, hh⟩ := known
  rw [hh]
  exact failRange_endOf (ended.trans (congrArg some hh)) k 2

/-! ## Failures of cores (R14) -/

/-- The column of the repair table that holds a core (R14, R436). -/
def repairCol (core : Nat) : Nat := 4 * (core / 80) + core % 80 / 20

/-- The physical core that a failed core's repair word names. -/
def repairBit (s : State) (core : Nat) : Nat := failBit (vget 0 s.fw.applied (repairCol core)) (core % 20)

/-- A physical core is entered into the repair table. -/
def Firmware.enter (fw : Firmware) (col i : Nat) : Firmware :=
  { fw with repair := vset fw.repair col (vget 0 fw.repair col ||| ((1 <<< i : Nat) : Word)) }

theorem Firmware.enter_repair (fw : Firmware) {col i : Nat} (hc : col < 32) (hi : i < 32) :
    (vget 0 (fw.enter col i).repair col).getLsbD i = true := by
  rw [Firmware.enter, vget_vset_same _ _ _ hc]
  exact getLsbD_setBit _ hi

/-- The engine faults of a core that fails. -/
def coreFaults (s : State) (core : Nat) : State := (s.groups.filter fun g => g.core == core).foldl coreFault s

/-- The state a core leaves that fails, before the host is told. -/
def coreDown (s : State) (core : Nat) : State :=
  { (coreFaults s core).updCore core fun c => { c with failed := true } with
    fw := (coreFaults s core).fw.enter (repairCol core) (repairBit s core) }

theorem execCoreFailure_next {s : State} (hd : deviceRuns s = true) {core : Nat} (hp : corePresent s core = true)
    (hf : (s.coreRegs core).failed = false) : execCoreFailure core s = .next (mgmtEvent (coreDown s core) 2) := by
  simp only [execCoreFailure, hd, hp, hf]
  rfl

theorem coreDown_failed (s : State) (core : Nat) : ((coreDown s core).coreRegs core).failed = true := by
  show (((coreFaults s core).updCore core fun c => { c with failed := true }).coreRegs core).failed = true
  rw [coreRegs_updCore_same]

theorem repairCol_lt {core : Nat} (h : core < 640) : repairCol core < 32 := by
  unfold repairCol
  omega

theorem failBit_lt (w : Word) {i : Nat} (h : i < 20) : failBit w i < 32 := by
  unfold failBit
  split <;> omega

theorem corePresent_lt {s : State} {core : Nat} (h : corePresent s core = true) : core < 640 := by
  simp only [corePresent, Bool.and_eq_true, decide_eq_true_eq] at h
  exact h.1

/-- R14: a failed core is none of those of its die that take work. -/
theorem not_mem_dieCores {s : State} {core : Nat} (h : (s.coreRegs core).failed = true) (d : Nat) : core ∉ dieCores s d := by
  simp [dieCores, h]

end Sys2Proof.Machine
end

section
/-!
The statements of the device: ResetValues, FailureEvents.
-/

namespace Sys2Proof.Machine

/-! ## The values of reset (R12, R40, R412, R413, R425, R435) -/

theorem vget_replicate {α : Type} (d : α) (n i : Nat) : vget d (Vector.replicate n d) i = d := by
  by_cases h : i < n <;> simp [vget, h]

theorem reset_queue (q : Nat) : State.reset.queue q = Queue.reset := vget_replicate _ _ _

theorem reset_coreRegs (c : Nat) : State.reset.coreRegs c = CoreRegs.reset := rfl

/-- Settles O13: each register is a field of the reset state, or a read of a vector that holds one value. -/
theorem resetValues : Obligations.ResetValues := by
  unfold Obligations.ResetValues
  have queues : ∀ q, q < 64 → (State.reset.queue q).en = false ∧ (State.reset.queue q).read = 0 ∧
      (State.reset.queue q).done = 0 ∧ (State.reset.queue q).last = 0 := fun q _ => by
    rw [reset_queue]
    exact ⟨rfl, rfl, rfl, rfl⟩
  have events : ∀ c k, k < 8 → vget 0 (State.reset.coreRegs c).evsel k = 0 ∧ vget 0 (State.reset.coreRegs c).evcnt k = 0 :=
    fun c k _ => by
      rw [reset_coreRegs]
      exact ⟨vget_replicate _ _ _, vget_replicate _ _ _⟩
  exact ⟨rfl, rfl, rfl, rfl, fun _ => rfl, rfl, rfl, queues, rfl, rfl, rfl, rfl, rfl, rfl, rfl, rfl,
    fun k _ => vget_replicate _ _ _, fun k _ => vget_replicate _ _ _, events⟩

/-! ## Peers, ports, pool ranges and cores (R14, R408 to R411) -/

theorem peerPortDown_effect {s : State} (hd : deviceRuns s = true) {port : BitVec 4}
    (hup : s.host.peerUp.getLsbD port.toNat = true) (hit : List Nat) : ∃ t, exec (.peerPortDown port hit) s = .next t ∧
      (∀ k, t.host.peerUp.getLsbD k = (s.host.peerUp.getLsbD k && k != port.toNat)) ∧
      (∀ d k, d < 256 → (vget 0 t.host.routes d).getLsbD k = ((vget 0 s.host.routes d).getLsbD k && k != port.toNat)) ∧
      ∀ e ∈ s.sq, e.id ∈ hit → onPort s port.toNat e = true → (∀ q ∈ t.sq, q.id ≠ e.id) ∧
        ∃ a ∈ t.async, a.lid = e.lid ∧ a.site.code = 2 ∧ a.site.seq = e.seq := by
  refine ⟨_, execPeerPortDown_next hd hup hit, fun k => ?_, fun d k h => ?_, fun e he hid hon => ?_⟩
  · rw [losePort_eq]
    exact getLsbD_clearBit s.host.peerUp port.toNat k
  · rw [losePort_eq]
    refine (congrArg (·.getLsbD k) (vget_map 0 s.host.routes _ h)).trans ?_
    exact getLsbD_clearBit _ port.toNat k
  · have lost : e ∈ lostOnPort s port.toNat hit :=
      List.mem_filter.mpr ⟨List.mem_append_left _ he, by simp [hid, hon]⟩
    refine ⟨fun q hq => ?_, lostErrors_async lost _⟩
    rw [losePort_eq] at hq
    exact id_withoutLost lost q hq

theorem coreFailure_effect {s : State} (hd : deviceRuns s = true) {core : Nat} (hp : corePresent s core = true)
    (hf : (s.coreRegs core).failed = false) : ∃ t, exec (.coreFailure core) s = .next t ∧
      (t.coreRegs core).failed = true ∧ t.host.event.getLsbD 2 = true ∧ core ∉ dieCores t (core / 80) ∧
      (vget 0 t.fw.repair (repairCol core)).getLsbD (repairBit s core) = true := by
  have told := (mgmtEvent_quiet (coreDown s core) 2).keeps
  have failed : ((mgmtEvent (coreDown s core) 2).coreRegs core).failed = true := by
    rw [State.coreRegs, told.cores]
    exact coreDown_failed s core
  refine ⟨_, execCoreFailure_next hd hp hf, failed, mgmtEvent_event _ (by decide), not_mem_dieCores failed _, ?_⟩
  rw [told.fw]
  exact Firmware.enter_repair _ (repairCol_lt (corePresent_lt hp)) (failBit_lt _ (Nat.mod_lt _ (by decide)))

/-- Settles O32, clause by clause: what each event answers, and that the failure of a range, the end of a grid and a management
event keep what the clause before them has set. -/
theorem failureEvents : Obligations.FailureEvents := by
  unfold Obligations.FailureEvents
  intro s hd
  refine ⟨fun dev r hn hlo hhi => ⟨execPeerRequest_refused hd dev hn hlo hhi, fun hacc hfree hopen => ?_⟩,
    fun l site hc i hi => ?_, fun port hit hup => peerPortDown_effect hd hup hit, fun k hk => ⟨?_, fun l site hc => ?_⟩,
    fun port hup => ?_, fun core hp hf => coreFailure_effect hd hp hf⟩
  · have served := execPeerRequest_served hd dev hn hlo hhi hacc hfree hopen
    refine ⟨?_, ?_, _, served⟩
    · rintro pa len rfl
      exact served
    · rintro pa bytes rfl
      exact served
  · have loss : ∃ name, exec i s = peerLoss name l site s := by
      simp only [List.mem_cons, List.not_mem_nil, or_false] at hi
      rcases hi with rfl | rfl
      · exact ⟨_, rfl⟩
      · exact ⟨_, rfl⟩
    obtain ⟨name, hl⟩ := loss
    exact ⟨_, _, hl.trans (peerLoss_next hd name l hc), rfl, rfl, rfl, rfl,
      fun _ => isSite_loseAccess, fun _ => mem_sq_loseAccess⟩
  · exact ⟨_, execPoolPoison_next hd hk, fenceField_failRange s k.isLt 1, failRange_event s _ 1⟩
  · refine ⟨_, execPoolRequestTimeout_next hd hk l hc, fun x hx => ?_, fenceField_failRange _ k.isLt 2, failRange_event _ _ 2⟩
    exact Option.map_eq_some_iff.mp (timeout_endOf hx site _ _)
  · refine ⟨_, execPoolPortDown_next hd hup, ?_, fun k hk hv hport => ?_⟩
    · rw [failRanges_poolUp]
      exact (getLsbD_clearBit s.host.poolUp port.toNat port.toNat).trans (by simp)
    · rw [← hport]
      exact fenceField_failRanges hk 3 (mem_rangesOn hk hv) _

end Sys2Proof.Machine
end

section
/-!
SUPPORT. Counts of bits and low masks as bit vectors (R90, R106, R108), the tree of R104 and the running sums of R105 as the
statements name them, and the threads that execute an instruction of a group.
-/

namespace Sys2Proof.Machine

/-! ## Issuing -/

theorem Clear.clearOf {s : State} {g : Group} {i : Instr} {n : Needs} (h : Clear s g i) (e : needs i = some n) :
    ClearOf s g n := by
  obtain ⟨m, hm, hc⟩ := h
  rw [e] at hm
  exact Option.some.inj hm ▸ hc

/-- Where helper code may not hold the instruction, the lanes of the group issue it. -/
theorem ClearOf.notHelper {s : State} {g : Group} {uses : List Use} {free : Bool} (h : ClearOf s g ⟨uses, free, false⟩) :
    s.iss.helper = false := by
  obtain ⟨-, -, lanesOnly, -⟩ := h
  exact Bool.eq_false_iff.mpr fun e => Bool.false_ne_true (lanesOnly e)

/-- An instruction whose executing threads change by functions that agree. -/
theorem Completes.congr {s : State} {gd : Guard} {o : Out State} {f f' : Nat → Lane → Lane} (h : Completes s gd o f)
    (e : ∀ k x, f k x = f' k x) : Completes s gd o f' := by
  obtain rfl : f = f' := funext fun k => funext (e k)
  exact h

theorem mem_executing {s : State} {g : Group} {gd : Guard} {l : Nat} :
    l ∈ executing s g gd ↔ l ∈ s.iss.active ∧ guardTrue gd (threadLane s g l) = true := List.mem_filter

theorem executing_rising {s : State} {g : Group} (h : Issuing s g) (gd : Guard) : (executing s g gd).Pairwise (· < ·) := by
  obtain ⟨-, -, rising, -⟩ := h
  exact rising.filter _

theorem executing_lt {s : State} {g : Group} (h : Issuing s g) (hh : s.iss.helper = false) {gd : Guard} {l : Nat}
    (hl : l ∈ executing s g gd) : l < 32 := by
  obtain ⟨-, -, -, named⟩ := h
  simpa [threadCount, hh] using named l (mem_executing.mp hl).1

/-- The numbers below a bound that a rising list names are that list. -/
theorem numbers_contains {n : Nat} {l : List Nat} (rising : l.Pairwise (· < ·)) (small : ∀ k ∈ l, k < n) :
    numbers n l.contains = l := by
  have risingNumbers : (numbers n l.contains).Pairwise (· < ·) := List.pairwise_lt_range.filter _
  have same : ∀ k, k ∈ numbers n l.contains ↔ k ∈ l := fun k => by
    rw [numbers, List.mem_filter, List.mem_range, List.contains_iff_mem]
    exact ⟨And.right, fun hk => ⟨small k hk, hk⟩⟩
  have perm := (List.perm_ext_iff_of_nodup (risingNumbers.imp Nat.ne_of_lt) (rising.imp Nat.ne_of_lt)).mpr same
  exact perm.eq_of_pairwise (fun _ _ _ _ up down => absurd up (Nat.lt_asymm down)) risingNumbers rising

/-! ## Bits of a word -/

theorem cpopNatRec_eq_length (a : Word) (n : Nat) :
    a.cpopNatRec n 0 = ((List.range n).filter fun i => a.getLsbD i).length := by
  induction n with
  | zero => rfl
  | succ n ih =>
    rw [BitVec.cpopNatRec_succ, BitVec.cpopNatRec_eq, ih, List.range_succ, List.filter_append, List.length_append]
    congr 1
    cases h : a.getLsbD n
    · rw [List.filter_cons_of_neg (by rw [h]; exact Bool.false_ne_true)]
      rfl
    · rw [List.filter_cons_of_pos h]
      rfl

/-- The count of one bits is the population count of the word. -/
theorem popCount_eq_cpop (a : Word) : popCount a = a.cpop.toNat := by
  rw [BitVec.toNat_cpop, cpopNatRec_eq_length, popCount]

theorem ofNat_popCount (a : Word) : BitVec.ofNat 32 (popCount a) = a.cpop := by
  rw [popCount_eq_cpop, BitVec.ofNat_toNat, BitVec.setWidth_eq]

theorem ctz_lt {a : Word} (h : a ≠ 0) : a.ctz.toNat < 32 := by
  have := BitVec.ctz_lt_iff_ne_zero.mpr h
  simpa [BitVec.lt_def] using this

/-- The lowest one bit of a word that has one. -/
theorem ctzOp_eq_ctz {a : Word} (h : a ≠ 0) : ctzOp a = a.ctz := by
  have lowest : (List.range 32).find? (fun i => a.getLsbD i) = some a.ctz.toNat := by
    rw [List.find?_range_eq_some]
    refine ⟨BitVec.getLsbD_true_ctz_of_ne_zero h, List.mem_range.mpr (ctz_lt h), fun i hi => ?_⟩
    rw [BitVec.getLsbD_false_of_lt_ctz hi, Bool.not_false]
  rw [ctzOp, lowest, Option.getD_some, BitVec.ofNat_toNat, BitVec.setWidth_eq]

theorem getLsbD_lowMask {j i : Nat} (hi : i < 32) : (BitVec.ofNat 32 (2 ^ j - 1)).getLsbD i = decide (i < j) := by
  rw [BitVec.getLsbD_ofNat, Nat.testBit_two_pow_sub_one, decide_eq_true hi, Bool.true_and]

/-- The bits below bit `j`. -/
theorem lowMask_eq {j : Nat} (h : j < 32) : BitVec.ofNat 32 (2 ^ j - 1) = ((1 <<< j : Nat) : Word) - 1 := by
  have small : 2 ^ j < 2 ^ 32 := Nat.pow_lt_pow_right (by decide) h
  have pos := Nat.two_pow_pos j
  apply BitVec.eq_of_toNat_eq
  rw [BitVec.natCast_eq_ofNat, Nat.one_shiftLeft, BitVec.toNat_sub, BitVec.toNat_ofNat, BitVec.toNat_ofNat]
  show _ = (2 ^ 32 - 1 + _) % _
  omega

/-- The bits below bit `j`, and bit `j`. -/
theorem lowMask_succ (j : Nat) :
    BitVec.ofNat 32 (2 ^ (j + 1) - 1) = BitVec.ofNat 32 (2 ^ j - 1) ||| ((1 <<< j : Nat) : Word) := by
  apply BitVec.eq_of_getLsbD_eq
  intro i hi
  have one : ((1 <<< j : Nat) : Word).getLsbD i = decide (i = j) := by
    rw [BitVec.natCast_eq_ofNat, Nat.one_shiftLeft, BitVec.getLsbD_ofNat, Nat.testBit_two_pow, decide_eq_true hi,
      Bool.true_and]
    exact decide_eq_decide.mpr eq_comm
  rw [BitVec.getLsbD_or, getLsbD_lowMask hi, getLsbD_lowMask hi, one, ← Bool.decide_or]
  exact decide_eq_decide.mpr (by omega)

/-! ## The tree of R104 -/

/-- Two values of the tree, each there or not, combined, with the flags of the combination. -/
def combine (c : Word → Word → Word × Flags) : Option Word → Option Word → Option Word × Flags
  | none, y => (y, 0)
  | some a, none => (some a, 0)
  | some a, some b => (some (c a b).1, (c a b).2)

theorem treeLevel_cons (c : Word → Word → Word × Flags) (x y : Option Word) (r : List (Option Word)) :
    treeLevel c (x :: y :: r) =
      ((combine c x y).1 :: (treeLevel c r).1, (treeLevel c r).2 ||| (combine c x y).2) := by
  cases x <;> cases y <;> simp [treeLevel, combine]

theorem node_succ (c : Word → Word → Word × Flags) (leaf : Nat → Option Word) (k i : Nat) :
    node c leaf (k + 1) i =
      ((combine c (node c leaf k (2 * i)).1 (node c leaf k (2 * i + 1)).1).1,
        (node c leaf k (2 * i)).2 ||| (node c leaf k (2 * i + 1)).2 |||
          (combine c (node c leaf k (2 * i)).1 (node c leaf k (2 * i + 1)).1).2) := by
  rw [node]
  rcases node c leaf k (2 * i) with ⟨_ | a, f⟩ <;> rcases node c leaf k (2 * i + 1) with ⟨_ | b, h⟩ <;> simp [combine]

/-- The pairs of a list of even length are combined apart from those of what follows it. -/
theorem treeLevel_append (c : Word → Word → Word × Flags) (n : Nat) (xs ys : List (Option Word)) (h : xs.length = n * 2) :
    (treeLevel c xs).1.length = n ∧ treeLevel c (xs ++ ys) =
      ((treeLevel c xs).1 ++ (treeLevel c ys).1, (treeLevel c xs).2 ||| (treeLevel c ys).2) := by
  induction n generalizing xs with
  | zero =>
    obtain rfl := List.length_eq_zero_iff.mp (h.trans (Nat.zero_mul 2))
    simp [treeLevel]
  | succ n ih =>
    match xs, h with
    | [], h => cases h.trans (Nat.succ_mul n 2)
    | [_], h =>
      simp only [List.length_singleton] at h
      omega
    | x :: y :: r, h =>
      obtain ⟨len, split⟩ := ih r (by simpa [Nat.add_mul] using h)
      simp only [List.cons_append, treeLevel_cons, split, List.length_cons, len, true_and]
      rw [BitVec.or_assoc, BitVec.or_assoc, BitVec.or_comm (treeLevel c ys).2]

theorem tree_level (c : Word → Word → Word × Flags) (k : Nat) (xs : List (Option Word)) :
    tree c (k + 1) xs =
      ((tree c k (treeLevel c xs).1).1, (treeLevel c xs).2 ||| (tree c k (treeLevel c xs).1).2) := rfl

/-- Levels over a list whose length they halve evenly work apart from what follows it. -/
theorem tree_append (c : Word → Word → Word × Flags) (k n : Nat) (xs ys : List (Option Word)) (h : xs.length = n * 2 ^ k) :
    tree c k (xs ++ ys) = ((tree c k xs).1 ++ (tree c k ys).1, (tree c k xs).2 ||| (tree c k ys).2) := by
  induction k generalizing xs ys with
  | zero => simp [tree]
  | succ k ih =>
    obtain ⟨len, split⟩ := treeLevel_append c (n * 2 ^ k) xs ys (by rw [h, Nat.pow_succ, Nat.mul_assoc])
    simp only [tree_level, split, ih _ _ len]
    ac_rfl

/-- The last level taken off. -/
theorem tree_succ (c : Word → Word → Word × Flags) (k : Nat) (xs : List (Option Word)) :
    tree c (k + 1) xs = ((treeLevel c (tree c k xs).1).1, (tree c k xs).2 ||| (treeLevel c (tree c k xs).1).2) := by
  induction k generalizing xs with
  | zero => simp [tree]
  | succ k ih =>
    rw [tree_level, ih, tree_level c k xs, BitVec.or_assoc]

/-- The levels over the leaves below a node give that node. -/
theorem tree_leaves (c : Word → Word → Word × Flags) (leaf : Nat → Option Word) (k i : Nat) :
    tree c k ((List.range' (i * 2 ^ k) (2 ^ k)).map leaf) = ([(node c leaf k i).1], (node c leaf k i).2) := by
  induction k generalizing i with
  | zero => simp [tree, node]
  | succ k ih =>
    have halves : List.range' (i * 2 ^ (k + 1)) (2 ^ (k + 1)) =
        List.range' (2 * i * 2 ^ k) (2 ^ k) ++ List.range' ((2 * i + 1) * 2 ^ k) (2 ^ k) := by
      have start : i * 2 ^ (k + 1) = 2 * i * 2 ^ k := by rw [Nat.pow_succ', Nat.mul_left_comm, Nat.mul_assoc]
      rw [Nat.succ_mul (2 * i), List.range'_append_1, start, Nat.pow_succ', Nat.two_mul (2 ^ k)]
    rw [tree_succ, halves, List.map_append, tree_append c k 1 _ _ (by simp), ih, ih, node_succ]
    simp [treeLevel_cons, treeLevel]

/-- The root of R104 over the 32 lanes. -/
theorem tree_lanes (c : Word → Word → Word × Flags) (leaf : Nat → Option Word) :
    tree c 5 ((List.range 32).map leaf) = ([(node c leaf 5 0).1], (node c leaf 5 0).2) := by
  rw [List.range_eq_range']
  exact tree_leaves c leaf 5 0

/-! ## The running sums of R105 -/

/-- One more value added to a running sum and its flags. -/
def addNext (c : Word → Word → Word × Flags) (p : Option Word × Flags) (v : Word) : Option Word × Flags :=
  match p.1 with
  | none => (some v, p.2)
  | some a => (some (c a v).1, p.2 ||| (c a v).2)

/-- The running sum of values from a sum that is there or not. -/
def sumFrom (c : Word → Word → Word × Flags) (acc : Option Word) (vs : List Word) : Option Word × Flags :=
  vs.foldl (addNext c) (acc, 0)

theorem runSum_eq (c : Word → Word → Word × Flags) (vs : List Word) : runSum c vs = sumFrom c none vs := rfl

/-- The flags met before a sum stand beside its own. -/
theorem foldl_addNext (c : Word → Word → Word × Flags) (vs : List Word) (acc : Option Word) (f : Flags) :
    vs.foldl (addNext c) (acc, f) = ((sumFrom c acc vs).1, f ||| (sumFrom c acc vs).2) := by
  unfold sumFrom
  induction vs generalizing acc f with
  | nil => simp
  | cons v r ih =>
    cases acc with
    | none => exact ih _ _
    | some a =>
      simp only [List.foldl_cons, addNext]
      rw [ih _ (f ||| _), ih _ (0 ||| _)]
      simp [BitVec.or_assoc]

/-- The sum after one more value, and its flags. -/
def nextSum (c : Word → Word → Word × Flags) (acc : Option Word) (v : Word) : Word × Flags :=
  match acc with
  | none => (v, 0)
  | some a => c a v

theorem sumFrom_cons (c : Word → Word → Word × Flags) (acc : Option Word) (v : Word) (r : List Word) :
    sumFrom c acc (v :: r) = ((sumFrom c (some (nextSum c acc v).1) r).1,
      (nextSum c acc v).2 ||| (sumFrom c (some (nextSum c acc v).1) r).2) := by
  rw [← foldl_addNext]
  cases acc <;> simp [sumFrom, addNext, nextSum]

theorem prefixes_cons (c : Word → Word → Word × Flags) (acc : Option Word) (l : Nat) (v : Word) (r : List (Nat × Word)) :
    prefixes c acc ((l, v) :: r) =
      ((l, acc.getD 0, (nextSum c acc v).1) :: (prefixes c (some (nextSum c acc v).1) r).1,
        (nextSum c acc v).2 ||| (prefixes c (some (nextSum c acc v).1) r).2) := by
  cases acc <;> simp [prefixes, nextSum]

theorem prefixes_flags (c : Word → Word → Word × Flags) (val : Nat → Word) (ks : List Nat) (acc : Option Word) :
    (prefixes c acc (ks.map fun l => (l, val l))).2 = (sumFrom c acc (ks.map val)).2 := by
  induction ks generalizing acc with
  | nil => rfl
  | cons k r ih => simp only [List.map_cons, prefixes_cons, sumFrom_cons, ih]

/-- A lane that is not summed has no entry. -/
theorem prefixes_find_none (c : Word → Word → Word × Flags) (val : Nat → Word) {ks : List Nat} {l : Nat} (hl : l ∉ ks)
    (acc : Option Word) : (prefixes c acc (ks.map fun l => (l, val l))).1.find? (fun r => r.1 == l) = none := by
  induction ks generalizing acc with
  | nil => rfl
  | cons k r ih =>
    obtain ⟨hk, hr⟩ := not_or.mp (hl ∘ List.mem_cons.mpr)
    rw [List.map_cons, prefixes_cons, List.find?_cons_of_neg (by simpa using Ne.symm hk), ih hr]

/-- The entry of a lane: the sum of the lanes before it, and of those up to it. -/
theorem prefixes_find (c : Word → Word → Word × Flags) (val : Nat → Word) {ks : List Nat}
    (rising : ks.Pairwise (· < ·)) {l : Nat} (hl : l ∈ ks) (acc : Option Word) :
    (prefixes c acc (ks.map fun l => (l, val l))).1.find? (fun r => r.1 == l) =
      some (l, (sumFrom c acc ((ks.filter (· < l)).map val)).1.getD 0,
        (sumFrom c acc ((ks.filter (· ≤ l)).map val)).1.getD 0) := by
  induction ks generalizing acc with
  | nil => cases hl
  | cons k r ih =>
    obtain ⟨above, rest⟩ := List.pairwise_cons.mp rising
    rw [List.map_cons, prefixes_cons]
    rcases List.mem_cons.mp hl with rfl | hr
    · have before : (l :: r).filter (· < l) = [] :=
        List.filter_eq_nil_iff.mpr (by simpa using fun k hk => Nat.le_of_lt (above k hk))
      have upto : (l :: r).filter (· ≤ l) = [l] := by
        rw [List.filter_cons_of_pos (by simp), List.filter_eq_nil_iff.mpr (by simpa using above)]
      rw [List.find?_cons_of_pos (by simp), before, upto, List.map_singleton, sumFrom_cons]
      rfl
    · have hk := above l hr
      rw [List.find?_cons_of_neg (by simpa using Nat.ne_of_lt hk), ih rest hr, List.filter_cons_of_pos (by simpa using hk),
        List.filter_cons_of_pos (by simpa using Nat.le_of_lt hk), List.map_cons, List.map_cons, sumFrom_cons, sumFrom_cons]

end Sys2Proof.Machine
end

section
/-!
The statements of the lanes: ComparisonsAndPredicates, SparseResults, ReductionsAndPrefixes.
-/

namespace Sys2Proof.Machine

/-! ## Comparison and predicate logic (R85, R86, R98) -/

theorem condOf_iff (c : BitVec 2) (eq lt : Bool) : condOf c eq lt = true ↔ condIs c (eq = true) (lt = true) := by
  obtain rfl | rfl | rfl | rfl : c = 0 ∨ c = 1 ∨ c = 2 ∨ c = 3 := by revert c; decide
  · simp [condOf, condIs]
  · simp [condOf, condIs]
  · simp [condOf, condIs]
  · simp [condOf, condIs]

theorem compare_completes {f : CmpForm} {s : State} {g : Group} (h : ClearOf s g ⟨needsAB f.m f.a f.b, true, true⟩)
    (lt : Word → Word → Bool) :
    Completes s f.g (compare f lt s) fun _ x =>
      x.setPred f.p (condOf f.c (regA g f.m x f.a == regB g f.m x f.b) (lt (regA g f.m x f.a) (regB g f.m x f.b))) :=
  perLane_completes f.g (fun g _ x => x.setPred f.p
    (condOf f.c (regA g f.m x f.a == regB g f.m x f.b) (lt (regA g f.m x f.a) (regB g f.m x f.b)))) h

/-- The order a comparison tests: of signed numbers, or of unsigned ones. -/
def lessOf (signed : Bool) (a b : Word) : Bool := if signed then a.toInt < b.toInt else a.toNat < b.toNat

theorem compareAndSelect : Clauses.CompareAndSelect := by
  intro s g
  refine ⟨fun f h => ⟨fun signed a b => condOf f.c (a == b) (lessOf signed a b), ?_, fun a b => ⟨?_, ?_⟩⟩,
    fun f h => ?_, fun f h => ?_⟩
  · have clear := h.clearOf rfl
    simp only [List.forall_mem_cons]
    exact ⟨compare_completes clear (lessOf true), compare_completes clear (lessOf false), List.forall_mem_nil _⟩
  · simp [condOf_iff, lessOf]
  · simp [condOf_iff, lessOf]
  · exact perLane_completes Guard.always (fun g _ x =>
      x.setReg f.d.toNat (if guardTrue f.g x then regA g f.m x f.a else regB g f.m x f.b)) (h.clearOf rfl)
  · exact perLane_completes Guard.always (fun g _ x =>
      x.setPair f.d.toNat (if guardTrue f.g x then pairA g f.m x f.a else pairB g f.m x f.b)) (h.clearOf rfl)

theorem pred_zero (x : Lane) : x.pred 0 = true := rfl

/-- A predicate read after a write: p0 is true, and another predicate keeps its value. -/
theorem pred_setPred (x : Lane) (p q : BitVec 5) (b : Bool) :
    (x.setPred p b).pred q = if q = 0 then true else if q = p then b else x.pred q := by
  split
  case isTrue hq => rw [hq, pred_zero]
  case isFalse hq =>
    split
    case isTrue hp => rw [hp, pred_setPred_same x b (hp ▸ hq)]
    case isFalse hp => rw [pred_setPred_other x b hp]

theorem predicateResults : Clauses.PredicateResults := by
  intro f s g h
  have clear := h.clearOf rfl
  refine ⟨?_, fun x p q b => ⟨pred_zero x, pred_setPred x p q b⟩⟩
  simp only [List.forall_mem_cons]
  exact ⟨predOp_completes clear _, predOp_completes clear _, predOp_completes clear _, List.forall_mem_nil _⟩

theorem compareEncodings : Clauses.CompareEncodings := by
  intro f
  have body : f.c.toNat / 2 * 0x40000 + f.c.toNat % 2 * 0x80000000 + f.p.toNat * 0x2000 + f.a.toNat * 0x80000 +
      f.b.toNat * 0x2000000 = 2 ^ 13 * f.p.toNat + 2 ^ 18 * (f.c.toNat / 2) + 2 ^ 19 * f.a.toNat + 2 ^ 25 * f.b.toNat +
      2 ^ 31 * (f.c.toNat % 2) := by omega
  simp only [List.forall_mem_cons]
  exact ⟨congrArg (fun n => some (long f.m 0x07 f.g n)) body, congrArg (fun n => some (long f.m 0x08 f.g n)) body,
    List.forall_mem_nil _⟩

/-- Settles O37: every comparison, selection and predicate operation is one change of the executing threads; a condition code
and a predicate write are read case by case. -/
theorem comparisonsAndPredicates : Obligations.ComparisonsAndPredicates := by
  unfold Obligations.ComparisonsAndPredicates
  exact ⟨compareAndSelect, predicateResults, compareEncodings⟩

/-! ## Sparse helpers (R106, R108) -/

theorem bmand_completes {f : DAForm} {s : State} {g : Group} (h : Clear s g (.bmand f)) :
    Completes s f.g (exec (.bmand f) s) fun _ x =>
      let y := srcLane g (winA f.m) x
      let w := y.reg f.a.toNat &&& y.reg (f.a.toNat + 1)
      x.setPair f.d.toNat (pairOf w w.cpop) := by
  refine (perLane_completes f.g _ (h.clearOf rfl)).congr fun _ x => ?_
  simp only [Lane.setPair, loWord_pairOf, hiWord_pairOf, ofNat_popCount]

theorem isect_completes {f : IsectForm} {s : State} {g : Group} (h : Clear s g (.isect f)) :
    Completes s f.g (exec (.isect f) s) fun _ z => isectLane f.p f.d.toNat f.a.toNat (srcLane g (winA f.m) z) z :=
  perLane_completes f.g (fun g _ z => isectLane f.p f.d.toNat f.a.toNat (srcLane g (winA f.m) z) z) (h.clearOf rfl)

/-- Settles O4: the counts of the model are population counts, and its masks are those below and up to the lowest matched
bit, where a pair matches. -/
theorem sparseResults : Obligations.SparseResults := by
  unfold Obligations.SparseResults
  refine fun s g => ⟨fun f h => bmand_completes h, fun f h => (isect_completes h).congr fun _ z => ?_⟩
  dsimp only
  split
  case isTrue w =>
    simp only [isectLane, Nat.add_zero] at w ⊢
    simp only [if_pos w, ofNat_popCount]
  case isFalse w =>
    have bit := ctz_lt w
    simp only [isectLane, Nat.add_zero] at w bit ⊢
    simp only [if_neg w, ofNat_popCount, ctzOp_eq_ctz w, lowMask_succ, lowMask_eq bit]

/-! ## Reductions and prefixes (R104, R105, R107) -/

/-- A lane's leaf of the tree: its register where it executes. -/
def laneLeaf (s : State) (g : Group) (f : DAForm) (l : Nat) : Option Word :=
  if l ∈ executing s g f.g then some ((g.lane l).reg f.a.toNat) else none

theorem reduce_eq (f : DAForm) (c : Word → Word → Word × Flags) (s : State) : reduce f c s =
    gate s (modUse f.m ++ [Use.d f.d.toNat, Use.w f.a.toNat (winA f.m)]) true false fun g =>
      let root := node c (laneLeaf s g f) 5 0
      .next (s.mapActive fun _ x =>
        if guardTrue f.g x then (x.setReg f.d.toNat (root.1.getD 0)).addFlags root.2 else x).advance := by
  have leaves : ∀ g, (fun l => if (executing s g f.g).contains l then some ((g.lane l).reg f.a.toNat) else none) =
      laneLeaf s g f := fun g => funext fun l => by simp only [laneLeaf, List.contains_iff_mem]
  simp only [reduce, leaves, tree_lanes, List.head?_cons, Option.join_some]

theorem reduce_completes {f : DAForm} {s : State} {g : Group} (h : Clear s g (.lreduceAddI32 f))
    (c c' : Word → Word → Word × Flags) (e : ∀ a b, c a b = c' a b) :
    Completes s f.g (reduce f c s) fun _ x =>
      (x.setReg f.d.toNat ((node c' (laneLeaf s g f) 5 0).1.getD 0)).addFlags (node c' (laneLeaf s g f) 5 0).2 := by
  obtain rfl : c = c' := funext fun a => funext (e a)
  rw [reduce_eq]
  exact executing_completes f.g (fun g _ x =>
    (x.setReg f.d.toNat ((node c (laneLeaf s g f) 5 0).1.getD 0)).addFlags (node c (laneLeaf s g f) 5 0).2) (h.clearOf rfl)

/-- The lesser of two signed numbers, by either order of asking. -/
theorem plainOp_least (a b : Word) :
    plainOp (fun a b => if a.toInt ≤ b.toInt then a else b) a b = (if b.slt a then b else a, 0) := by
  simp only [plainOp, BitVec.slt_iff_toInt_lt, ← Int.not_le, ite_not]

/-- The greater of two signed numbers: equal numbers are one word. -/
theorem plainOp_greatest (a b : Word) :
    plainOp (fun a b => if a.toInt ≤ b.toInt then b else a) a b = (if a.slt b then b else a, 0) := by
  simp only [plainOp, BitVec.slt_iff_toInt_lt]
  rcases Int.lt_trichotomy a.toInt b.toInt with h | h | h
  · rw [if_pos (Int.le_of_lt h), if_pos h]
  · rw [BitVec.eq_of_toInt_eq h, ite_self, ite_self]
  · rw [if_neg (Int.not_le.mpr h), if_neg (Int.not_lt.mpr (Int.le_of_lt h))]

theorem reduceResults : Clauses.ReduceResults := by
  intro f s g h
  have result := reduce_completes h
  simp only [List.forall_mem_cons]
  exact ⟨result (plainOp (· + ·)) _ fun _ _ => rfl, result addF32 _ fun _ _ => rfl, result _ _ plainOp_least,
    result _ _ plainOp_greatest, result (minmaxF32 false) _ fun _ _ => rfl, result (minmaxF32 true) _ fun _ _ => rfl,
    result (plainOp (· ||| ·)) _ fun _ _ => rfl, result (plainOp (· &&& ·)) _ fun _ _ => rfl, List.forall_mem_nil _⟩

/-- The registers of the executing lanes that are asked for, in rising order. -/
def laneVals (s : State) (g : Group) (f : DAForm) (asked : Nat → Bool) : List Word :=
  ((executing s g f.g).filter asked).map fun l => (g.lane l).reg f.a.toNat

theorem prefixOp_completes {f : DAForm} {s : State} {g : Group} (h : Clear s g (.prefixAddI32 f)) (ex : Bool)
    (c c' : Word → Word → Word × Flags) (e : ∀ a b, c a b = c' a b) :
    Completes s f.g (prefixOp f c ex s) fun l x =>
      (x.setReg f.d.toNat ((runSum c' (laneVals s g f fun k => if ex then k < l else k ≤ l)).1.getD 0)).addFlags
        (runSum c' (laneVals s g f fun _ => true)).2 := by
  obtain rfl : c = c' := funext fun a => funext (e a)
  have clear := h.clearOf rfl
  have issuing := clear.1
  have lanes := numbers_contains (executing_rising issuing f.g) fun _ => executing_lt issuing clear.notHelper
  refine ⟨_, gate_clear _ clear, (mapActive_advance s _).congr fun g' hg l active _ => ?_⟩
  obtain rfl : g = g' := Option.some.inj (issuing.1.symm.trans hg)
  refine congrArg (fun x : Lane => { x with pc := s.nextPc }) ?_
  have whole : (executing s g f.g).filter (fun _ => true) = executing s g f.g := List.filter_eq_self.mpr fun _ _ => rfl
  simp only [lanes, prefixes_flags c fun l => (g.lane l).reg f.a.toNat, laneVals, whole, runSum_eq]
  by_cases holds : guardTrue f.g (threadLane s g l) = true
  · rw [prefixes_find c _ (executing_rising issuing f.g) (mem_executing.mpr ⟨active, holds⟩), if_pos holds]
    cases ex <;> rfl
  · rw [prefixes_find_none c _ (fun m => holds (mem_executing.mp m).2), if_neg holds]

theorem popcp_completes {f : DAForm} {s : State} {g : Group} (h : Clear s g (.prefixAddI32 f)) :
    Completes s f.g (exec (.popcp f) s) fun l x => x.setReg f.d.toNat
      (BitVec.ofNat 32 ((laneVals s g f fun k => k < l).map fun v => v.cpop.toNat).sum) := by
  refine (executing_completes f.g (fun g l x => x.setReg f.d.toNat (BitVec.ofNat 32
    (((executing s g f.g).filter (· < l)).map fun k => popCount ((g.lane k).reg f.a.toNat)).sum)) (h.clearOf rfl)).congr
    fun l x => ?_
  simp only [laneVals, List.map_map, Function.comp_def, popCount_eq_cpop]

theorem prefixResults : Clauses.PrefixResults := by
  intro f s g h
  have result := prefixOp_completes h
  simp only [List.forall_mem_cons]
  exact ⟨⟨result false (plainOp (· + ·)) _ fun _ _ => rfl, result true (plainOp (· + ·)) _ fun _ _ => rfl,
    result false addF32 _ fun _ _ => rfl, result true addF32 _ fun _ _ => rfl, List.forall_mem_nil _⟩, popcp_completes h⟩

/-- Settles O41: the levels of the model's tree are those of `node`, its running sums those of `runSum`, and the lanes that
execute are in rising order. -/
theorem reductionsAndPrefixes : Obligations.ReductionsAndPrefixes := by
  unfold Obligations.ReductionsAndPrefixes
  exact ⟨reduceResults, prefixResults⟩

end Sys2Proof.Machine
end

section
/-!
SUPPORT. Masks of lanes, the divergence stack and what its top entry releases (R118 to R123), and the checks that a group instruction
passes before its own effect.
-/

namespace Sys2Proof.Machine

/-! ## Masks of lanes -/

/-- The bit of a lane alone. -/
theorem getLsbD_laneBit (l : Nat) {i : Nat} (hi : i < 32) : (((1 <<< l : Nat) : BitVec 32)).getLsbD i = decide (i = l) := by
  rw [BitVec.natCast_eq_ofNat, Nat.one_shiftLeft, BitVec.getLsbD_ofNat, Nat.testBit_two_pow, decide_eq_true hi, Bool.true_and]
  exact decide_eq_decide.mpr eq_comm

theorem getLsbD_maskOf (ls : List Nat) {i : Nat} (hi : i < 32) : (maskOf ls).getLsbD i = decide (i ∈ ls) := by
  have grows : ∀ m : BitVec 32,
      (ls.foldl (fun m l => m ||| ((1 <<< l : Nat) : BitVec 32)) m).getLsbD i = (m.getLsbD i || decide (i ∈ ls)) := by
    induction ls with
    | nil => simp
    | cons l r ih =>
      intro m
      rw [List.foldl_cons, ih, BitVec.getLsbD_or, getLsbD_laneBit l hi, Bool.or_assoc, ← Bool.decide_or]
      simp only [List.mem_cons]
  exact (grows 0).trans (by simp)

theorem maskOf_bit (ls : List Nat) (i : Nat) (hi : i < 32) : (maskOf ls).getLsbD i = true ↔ i ∈ ls := by
  rw [getLsbD_maskOf ls hi, decide_eq_true_eq]

/-- A mask whose bits name the lanes of a list is the list's mask. -/
theorem maskOf_eq {ls : List Nat} {m : BitVec 32} (h : ∀ i, i < 32 → (m.getLsbD i = true ↔ i ∈ ls)) : maskOf ls = m :=
  BitVec.eq_of_getLsbD_eq fun i hi => Bool.eq_iff_iff.mpr ((maskOf_bit ls i hi).trans (h i hi).symm)

theorem mem_lanesOf {m : BitVec 32} {l : Nat} : l ∈ lanesOf m ↔ l < 32 ∧ m.getLsbD l = true := by
  rw [lanesOf, numbers, List.mem_filter, List.mem_range]

/-- Lanes all lie in a mask when none of theirs is outside it. -/
theorem all_getLsbD_iff {ls : List Nat} (small : ∀ l ∈ ls, l < 32) (top : BitVec 32) :
    ls.all (fun l => top.getLsbD l) = true ↔ maskOf ls &&& ~~~top = 0 := by
  rw [List.all_eq_true]
  constructor
  · intro h
    apply BitVec.eq_of_getLsbD_eq
    intro i hi
    rw [BitVec.getLsbD_and, BitVec.getLsbD_not, getLsbD_maskOf ls hi]
    by_cases m : i ∈ ls
    · simp [h i m]
    · simp [m]
  · intro h l hl
    have bit := congrArg (·.getLsbD l) h
    simpa [getLsbD_maskOf ls (small l hl), hl, small l hl] using bit

/-! ## The stack -/

theorem popEmpty_eq_dropWhile (st : List (BitVec 32 × Word)) : popEmpty st = st.dropWhile fun e => e.1 == 0 := by
  induction st with
  | nil => rfl
  | cons e r ih =>
    obtain ⟨m, a⟩ := e
    by_cases h : m = 0
    · rw [popEmpty, if_pos h, ih, List.dropWhile_cons_of_pos (by simpa using h)]
    · rw [popEmpty, if_neg h, List.dropWhile_cons_of_neg (by simpa using h)]

/-- A lane of the top entry keeps it from being complete unless it is parked at the rejoin address or has exited (R121). -/
theorem topComplete_iff {g : Group} {m : BitVec 32} {a : Word} {r : List (BitVec 32 × Word)} (h : g.stack = (m, a) :: r) :
    topComplete g = true ↔
      ∀ i, i < 32 → m.getLsbD i = true → ((g.lane i).st = .parked ∧ (g.lane i).pc = a) ∨ (g.lane i).st = .exited := by
  simp only [topComplete, h, List.all_eq_true, mem_lanesOf, Bool.or_eq_true, Bool.and_eq_true, beq_iff_eq, and_imp]

theorem releaseTop_complete {g : Group} {m : BitVec 32} {a : Word} {r : List (BitVec 32 × Word)} (h : g.stack = (m, a) :: r)
    (c : topComplete g = true) : releaseTop g = releaseAt g a := by
  simp only [releaseTop, h, c, if_true]

theorem releaseTop_incomplete {g : Group} {m : BitVec 32} {a : Word} {r : List (BitVec 32 × Word)} (h : g.stack = (m, a) :: r)
    (c : ¬ topComplete g = true) : releaseTop g = g := by
  simp only [releaseTop, h, c, if_false, Bool.false_eq_true]

theorem releaseTop_nil {g : Group} (h : g.stack = []) : releaseTop g = g := by
  simp only [releaseTop, h]

/-- What a release leaves: everything but the lanes. -/
theorem releaseTop_frame (g : Group) : { releaseTop g with lanes := g.lanes } = g := by
  cases h : g.stack with
  | nil => rw [releaseTop_nil h]
  | cons e r =>
    by_cases c : topComplete g = true
    · rw [releaseTop_complete h c, releaseAt, Group.mapLanes]
    · rw [releaseTop_incomplete h c]

theorem lane_releaseAt (g : Group) (a : Word) {l : Nat} (hl : l < 32) : (releaseAt g a).lane l =
    if (g.lane l).st = .parked ∧ (g.lane l).pc = a then { g.lane l with st := .live, pc := a + 4, age := 0 } else g.lane l := by
  rw [releaseAt, lane_mapLanes _ _ hl]
  simp only [Bool.and_eq_true, beq_iff_eq]

theorem clearLanes_eq (g : Group) (ex : List Nat) : clearLanes g ex = releaseTop { g with
    stack := (g.stack.map fun e => (e.1 &&& ~~~(maskOf ex), e.2)).dropWhile fun e => e.1 == 0 } := by
  rw [clearLanes, popEmpty_eq_dropWhile]

/-! ## Group instructions -/

/-- Two times a signed offset, as the statements write it (R33). -/
theorem target_eq {n : Nat} (s : State) (off : BitVec n) : s.target off = s.iss.addr + (off.signExtend 32 <<< 1) := by
  rw [State.target, BitVec.ofInt_mul, BitVec.signExtend, BitVec.shiftLeft_eq_mul_twoPow, BitVec.mul_comm]
  rfl

/-- Lanes issue where the threads of the issuer are the 32 of the group. -/
theorem Issuing.active_lt {s : State} {g : Group} (h : Issuing s g) (lanes : s.iss.helper = false) {l : Nat}
    (hl : l ∈ s.iss.active) : l < 32 := by
  obtain ⟨-, -, -, named⟩ := h
  simpa [threadCount, lanes] using named l hl

/-- A group instruction whose guard holds in every active thread does its work, whatever it needs to issue. -/
theorem Clear.perGroup_all {s : State} {g : Group} {i : Instr} {uses : List Use} {free helperOk : Bool} {gd : Guard}
    (h : Clear s g i) (e : needs i = some ⟨uses, free, helperOk⟩) (all : GuardAll s g gd) (k : Group → List Nat → State) :
    perGroup s uses free helperOk gd k = .next (k g s.iss.active) := by
  have clear := h.clearOf e
  obtain ⟨-, nonempty, -⟩ := clear.1
  exact Machine.perGroup_all k clear nonempty all

end Sys2Proof.Machine
end

section
/-!
The statements of the control instructions.
-/

namespace Sys2Proof.Machine

/-! ## The divergence stack (R119 to R123) -/

theorem split_result {s : State} {g : Group} {f : BForm} (h : Clear s g (.split f)) (all : GuardAll s g f.g) :
    exec (.split f) s = .next (if 16 ≤ g.stack.length then raiseAll s 0x04
      else (s.updGroup g.gid fun h => { h with
        stack := (maskOf s.iss.active, s.iss.addr + (f.off.signExtend 32 <<< 1)) :: h.stack }).advance) := by
  rw [← target_eq]
  exact h.perGroup_all rfl all _

/-- The top entry's test of the active lanes, as a test of masks. -/
theorem Clear.inTop {s : State} {g : Group} {f : GForm} (h : Clear s g (.wait f)) (top : BitVec 32) :
    s.iss.active.all (fun l => top.getLsbD l) = true ↔ maskOf s.iss.active &&& ~~~top = 0 :=
  have clear := h.clearOf rfl
  all_getLsbD_iff (fun _ => clear.1.active_lt clear.notHelper) top

theorem stackResults : Clauses.StackResults := by
  intro s g m hm
  obtain rfl := maskOf_eq hm
  refine ⟨fun f h all => ⟨fun short => ?_, fun full => ?_⟩, fun f h all => ?_⟩
  · rw [split_result h all, if_neg (Nat.not_le.mpr short)]
    exact advance_advances _
  · rw [split_result h all, if_pos full]
  · have waits : exec (.wait f) s = .next _ := h.perGroup_all rfl all _
    have joins : exec (.join f) s = .next _ := h.perGroup_all rfl all _
    rw [waits, joins]
    refine ⟨fun empty => by rw [empty]; exact ⟨rfl, rfl⟩, fun top a r st => ?_⟩
    rw [st]
    have inTop := h.inTop top
    refine ⟨fun here inside => ?_, fun out => ?_, fun inside => ?_, fun outside => ?_⟩
    · simp [here, inTop.mpr inside]
    · rcases out with off | outside
      · simp [off]
      · simp [mt inTop.mp outside]
    · simp [inTop.mpr inside, popEmpty_eq_dropWhile]
    · simp [mt inTop.mp outside]

theorem stackReleases : Clauses.StackReleases := by
  intro g
  refine ⟨releaseTop_frame g, fun m a r st complete l hl => ?_, fun stays => ?_, fun ex gone names => ?_⟩
  · rw [releaseTop_complete st ((topComplete_iff st).mpr complete), lane_releaseAt g a hl]
  · rcases stays with empty | ⟨m, a, r, i, st, hi, bit, away⟩
    · exact releaseTop_nil empty
    · exact releaseTop_incomplete st fun c => away ((topComplete_iff st).mp c i hi bit)
  · rw [clearLanes_eq, maskOf_eq names]

/-- Settles O43: each instruction answers its own branch, a test of the active lanes against the top entry being one of masks; what
is released is read off the top entry. -/
theorem divergenceStack : Obligations.DivergenceStack := by
  unfold Obligations.DivergenceStack
  exact ⟨stackResults, stackReleases⟩

end Sys2Proof.Machine
end

section
/-!
SUPPORT. The issue choice (R110, R111, R262): what `choose` picks, of a group's lanes and of a helper set, and the state in which an
instruction is prepared.
-/

namespace Sys2Proof.Machine

/-- A fold that keeps the better of two ends with one of what it has met, and with the best of it. -/
theorem foldl_best {α : Type} {le : α → α → Prop} {pick : α → α → α} (refl : ∀ a, le a a)
    (trans : ∀ a b c, le a b → le b c → le a c) (left : ∀ a b, le a (pick a b)) (right : ∀ a b, le b (pick a b))
    (one : ∀ a b, pick a b = a ∨ pick a b = b) (ts : List α) (t : α) :
    ts.foldl pick t ∈ t :: ts ∧ ∀ y ∈ t :: ts, le y (ts.foldl pick t) := by
  induction ts generalizing t with
  | nil => exact ⟨List.mem_singleton_self t, fun y hy => List.mem_singleton.mp hy ▸ refl t⟩
  | cons u r ih =>
    obtain ⟨mem, best⟩ := ih (pick t u)
    have picked := best _ List.mem_cons_self
    refine ⟨?_, fun y hy => ?_⟩
    · rcases List.mem_cons.mp mem with e | e
      · rw [List.foldl_cons, e]
        rcases one t u with p | p <;> simp [p]
      · exact List.mem_cons_of_mem _ (List.mem_cons_of_mem _ e)
    · rcases List.mem_cons.mp hy with rfl | hy
      · exact trans _ _ _ (left y u) picked
      · rcases List.mem_cons.mp hy with rfl | hy
        · exact trans _ _ _ (right t y) picked
        · exact best y (List.mem_cons_of_mem _ hy)

/-- R111: the issue choice goes by age. -/
def byAge (live : List (Nat × Word × Nat)) (forced : Bool) : Prop := forced = true ∨ ∃ y ∈ live, 4064 ≤ y.2.2

theorem choose_none {live : List (Nat × Word × Nat)} {forced : Bool} : choose live forced = none ↔ live = [] := by
  cases live <;> simp [choose]

/-- The choice among live threads: the active ones stand at its address, which is that of a thread with the least PC, or of one
of the greatest age. -/
theorem choose_some {live : List (Nat × Word × Nat)} {forced : Bool} {x : Sel} (h : choose live forced = some x) :
    x.active = (live.filter fun y => y.2.1 == x.addr).map (·.1) ∧
    ∃ y ∈ live, y.2.1 = x.addr ∧ (¬ byAge live forced → ∀ z ∈ live, y.2.1.toNat ≤ z.2.1.toNat) ∧
      (byAge live forced → ∀ z ∈ live, z.2.2 ≤ y.2.2) := by
  cases live with
  | nil => cases h
  | cons t ts =>
    obtain ⟨oldIn, oldest⟩ := foldl_best (le := fun a b : Nat × Word × Nat => a.2.2 ≤ b.2.2)
      (pick := fun a b => if a.2.2 < b.2.2 then b else a) (fun _ => Nat.le_refl _) (fun _ _ _ => Nat.le_trans)
      (fun a b => by split <;> omega) (fun a b => by split <;> omega)
      (fun a b => by split <;> simp) ts t
    obtain ⟨leastIn, least⟩ := foldl_best (le := fun a b : Nat × Word × Nat => b.2.1.toNat ≤ a.2.1.toNat)
      (pick := fun a b => if b.2.1 < a.2.1 then b else a) (fun _ => Nat.le_refl _) (fun _ _ _ p q => Nat.le_trans q p)
      (fun a b => by split <;> simp_all [BitVec.lt_def, Nat.le_of_lt])
      (fun a b => by split <;> simp_all [BitVec.lt_def]) (fun a b => by split <;> simp) ts t
    simp only [choose, Option.some.injEq] at h
    have age : byAge (t :: ts) forced ↔
        (forced || decide (4064 ≤ (ts.foldl (fun a b => if a.2.2 < b.2.2 then b else a) t).2.2)) = true := by
      simp only [byAge, Bool.or_eq_true, decide_eq_true_eq]
      exact or_congr_right ⟨fun ⟨y, hy, old⟩ => Nat.le_trans old (oldest y hy), fun old => ⟨_, oldIn, old⟩⟩
    subst h
    refine ⟨rfl, ?_⟩
    by_cases forcedNow : byAge (t :: ts) forced
    · refine ⟨_, oldIn, ?_, fun c => absurd forcedNow c, fun _ => oldest⟩
      exact (if_pos (age.mp forcedNow)).symm
    · refine ⟨_, leastIn, ?_, fun _ => least, fun c => absurd c forcedNow⟩
      exact (if_neg (mt age.mpr forcedNow)).symm

/-- Threads given in rising order are active in rising order. -/
theorem choose_rising {live : List (Nat × Word × Nat)} {forced : Bool} {x : Sel} (h : choose live forced = some x)
    (rising : live.Pairwise fun a b => a.1 < b.1) :
    x.active ≠ [] ∧ x.active.Pairwise (· < ·) ∧ ∀ k ∈ x.active, ∃ y ∈ live, y.1 = k := by
  obtain ⟨active, y, hy, stands, -⟩ := choose_some h
  rw [active]
  refine ⟨List.ne_nil_of_mem (List.mem_map_of_mem (List.mem_filter.mpr ⟨hy, by simpa using stands⟩)),
    List.pairwise_map.mpr (rising.filter _), fun k hk => ?_⟩
  obtain ⟨z, hz, e⟩ := List.mem_map.mp hk
  exact ⟨z, (List.mem_filter.mp hz).1, e⟩

/-! ## The lanes of a group -/

/-- The live lanes of a group in the issue choice, with their PCs and ages. -/
def issuingLanes (g : Group) : List (Nat × Word × Nat) :=
  (g.lanesWhere Lane.issues).map fun l => (l, (g.lane l).pc, (g.lane l).age)

theorem groupSel_eq (g : Group) : groupSel g = choose (issuingLanes g) g.forcedNext := rfl

theorem mem_lanesWhere {g : Group} {c : Lane → Bool} {l : Nat} : l ∈ g.lanesWhere c ↔ l < 32 ∧ c (g.lane l) = true := by
  rw [Group.lanesWhere, numbers, List.mem_filter, List.mem_range]

theorem mem_issuingLanes {g : Group} {y : Nat × Word × Nat} : y ∈ issuingLanes g ↔
    ∃ l, l < 32 ∧ (g.lane l).issues = true ∧ y = (l, (g.lane l).pc, (g.lane l).age) := by
  simp only [issuingLanes, List.mem_map, mem_lanesWhere, and_assoc, eq_comm]

theorem forall_issuingLanes {g : Group} {p : Nat × Word × Nat → Prop} : (∀ y ∈ issuingLanes g, p y) ↔
    ∀ l, l < 32 → (g.lane l).issues = true → p (l, (g.lane l).pc, (g.lane l).age) := by
  constructor
  · exact fun h l hl hi => h _ (mem_issuingLanes.mpr ⟨l, hl, hi, rfl⟩)
  · intro h y hy
    obtain ⟨l, hl, hi, rfl⟩ := mem_issuingLanes.mp hy
    exact h l hl hi

theorem issuingLanes_rising (g : Group) : (issuingLanes g).Pairwise fun a b => a.1 < b.1 :=
  List.pairwise_map.mpr (List.pairwise_lt_range.filter _)

theorem issues_iff (x : Lane) : x.issues = true ↔ x.st = .live ∧ x.lent = false ∧ x.txStop = false := by
  simp only [Lane.issues, Bool.and_eq_true, beq_iff_eq, Bool.not_eq_true', and_assoc]

theorem byAge_issuingLanes {g : Group} {forced : Bool} : byAge (issuingLanes g) forced ↔
    forced = true ∨ ∃ l, l < 32 ∧ (g.lane l).issues = true ∧ 4064 ≤ (g.lane l).age := by
  refine or_congr_right ⟨fun ⟨y, hy, old⟩ => ?_, fun ⟨l, hl, hi, old⟩ => ⟨_, mem_issuingLanes.mpr ⟨l, hl, hi, rfl⟩, old⟩⟩
  obtain ⟨l, hl, hi, rfl⟩ := mem_issuingLanes.mp hy
  exact ⟨l, hl, hi, old⟩

theorem forcedNext_iff (g : Group) :
    g.forcedNext = true ↔ (if g.priv = .user then g.hold.forced else g.hold.forcedPriv) = true := by
  simp only [Group.forcedNext, beq_iff_eq]

theorem groupSel_active {g : Group} {x : Sel} (h : groupSel g = some x) (l : Nat) : l ∈ x.active ↔
    l < 32 ∧ (g.lane l).issues = true ∧ (g.lane l).pc = x.addr := by
  obtain ⟨active, -⟩ := choose_some (groupSel_eq g ▸ h)
  rw [active]
  simp only [issuingLanes, List.filter_map, List.map_map, Function.comp_def, List.map_id', List.mem_filter, mem_lanesWhere,
    beq_iff_eq, and_assoc]

theorem groupSel_none {g : Group} : groupSel g = none ↔ ∀ l, l < 32 → (g.lane l).issues = false := by
  rw [groupSel_eq, choose_none, List.eq_nil_iff_forall_not_mem]
  exact forall_issuingLanes.trans (by simp)

/-! ## The helpers of a ligature -/

theorem helperSel_active {l : Lig} {x : Sel} (h : helperSel l = some x) :
    x.active ≠ [] ∧ x.active.Pairwise (· < ·) ∧ ∀ k ∈ x.active, k < l.helpers.length := by
  have numbered : (l.helpers.mapIdx fun i h => (i, h)).Pairwise fun a b => a.1 < b.1 := by
    rw [List.pairwise_iff_getElem]
    intro i j hi hj hij
    simpa using hij
  obtain ⟨nonempty, rising, named⟩ := choose_rising h (numbered.filterMap _ fun a b hab p hp q hq => by
    simp only [Option.ite_none_right_eq_some, Option.some.injEq] at hp hq
    rw [← hp.2, ← hq.2]
    exact hab)
  refine ⟨nonempty, rising, fun k hk => ?_⟩
  obtain ⟨y, hy, rfl⟩ := named k hk
  obtain ⟨⟨i, h⟩, hm, hp⟩ := List.mem_filterMap.mp hy
  simp only [Option.ite_none_right_eq_some, Option.some.injEq] at hp
  obtain ⟨j, hj, e⟩ := List.mem_mapIdx.mp hm
  simp only [Prod.mk.injEq] at e
  rw [← hp.2, ← e.1]
  exact hj

/-! ## The state of an issue -/

theorem l3Read_groups (s : State) (die key : Nat) : (l3Read s die key).groups = s.groups := by
  unfold l3Read
  split
  · dsimp only
    split
    · rfl
    · split
      · rfl
      · split <;> rfl
  · rfl

/-- The lines an instruction is fetched from change no group. -/
theorem fetchTouch_groups (s : State) (g : Group) (pc : Word) (len : Nat) : (fetchTouch s g pc len).groups = s.groups :=
  List.foldlRecOn _ _ (motive := fun u : State => u.groups = s.groups) rfl fun u hu k _ => by
    split
    · exact (l3Read_groups u _ _).trans hu
    · exact hu

theorem enter_run {s : State} {w : Who} {g : Group} {x : Sel} {bits len : Nat} {t : State} {i : Instr} {brk : Option Raise}
    (h : enter s w g x bits len = .run t i brk) :
    t.groups = s.groups ∧ t.iss.gid = w.gid ∧ t.iss.helper = w.helper ∧ t.iss.active = x.active := by
  unfold enter at h
  dsimp only at h
  split at h
  · cases h
  · split at h
    · cases h
      exact ⟨rfl, rfl, rfl, rfl⟩
    · cases h
      exact ⟨rfl, rfl, rfl, rfl⟩

/-- An instruction that is prepared is issued by the group's choice or that of its helper set. -/
theorem prepare_run {s : State} {w : Who} {t : State} {i : Instr} {brk : Option Raise} (h : prepare s w = .run t i brk) :
    ∃ g x, t.cur = some g ∧ selOf g w.helper = some x ∧ t.iss.helper = w.helper ∧ t.iss.active = x.active := by
  unfold prepare at h
  split at h
  · cases h
  next g hg =>
    dsimp only at h
    split at h
    · cases h
    · split at h
      · split at h <;> cases h
      · split at h
        · split at h <;> cases h
        next x hx =>
          split at h
          · obtain ⟨groups, gid, helper, active⟩ := enter_run h
            refine ⟨g, x, ?_, hx, helper, active⟩
            rw [State.cur, State.group?, groups, gid, fetchTouch_groups]
            exact hg
          · cases h

theorem prepare_issuing {s : State} {w : Who} {t : State} {i : Instr} {brk : Option Raise}
    (h : prepare s w = .run t i brk) : ∃ g, Issuing t g := by
  obtain ⟨g, x, cur, sel, helper, active⟩ := prepare_run h
  refine ⟨g, cur, ?_⟩
  rw [active, threadCount, helper]
  cases hw : w.helper with
  | false =>
    replace sel : groupSel g = some x := by rwa [hw] at sel
    obtain ⟨nonempty, rising, -⟩ := choose_rising (groupSel_eq g ▸ sel) (issuingLanes_rising g)
    exact ⟨nonempty, rising, fun k hk => ((groupSel_active sel k).mp hk).1⟩
  | true =>
    rw [hw] at sel
    obtain ⟨l, lig, hl⟩ := Option.bind_eq_some_iff.mp sel
    simpa [lig] using helperSel_active hl

/-- Settles O17: the choice is the least PC or the oldest lane's by `choose_some`, over the lanes that issue; what is prepared is
issued by that choice. -/
theorem issueChoice : Obligations.IssueChoice := by
  unfold Obligations.IssueChoice
  refine ⟨fun g x h => ?_, fun g => groupSel_none, fun s t w i brk => prepare_issuing⟩
  have member := groupSel_active h
  obtain ⟨-, y, hy, stands, least, oldest⟩ := choose_some (groupSel_eq g ▸ h)
  obtain ⟨l, hl, issues, rfl⟩ := mem_issuingLanes.mp hy
  have chosen : l ∈ x.active := (member l).mpr ⟨hl, issues, stands⟩
  rw [byAge_issuingLanes, forcedNext_iff] at least oldest
  refine ⟨fun k => ?_, List.ne_nil_of_mem chosen, fun young => ?_, fun old => ⟨l, chosen, forall_issuingLanes.mp (oldest old)⟩⟩
  · rw [member k, issues_iff, and_assoc, and_assoc]
  · rw [← stands]
    refine forall_issuingLanes.mp (least ?_)
    rintro (forced | ⟨k, hk, hi, aged⟩)
    · exact young.1 forced
    · exact absurd (young.2 k hk hi) (Nat.not_lt.mpr aged)

end Sys2Proof.Machine
end

section
/-!
SUPPORT. Two states that O44 and O46 leave to their statements and do not shut out: two groups of one number, and a write of the
device's own that waits while nothing holds its place.
-/

namespace Sys2Proof.Machine

/-! ## Two groups of one number -/

/-- A group of 32 live lanes at PC 0 as a launch starts it. -/
def freshGroup : Group := Group.start 0 0 0 Block.none 0 0 0 0 (Vector.replicate 8 0) Debug.reset

/-- A group in user code and one in a handler, both of number 0; the first issues in lane 0. -/
def sharedGid : State :=
  { State.reset with groups := [freshGroup, { freshGroup with priv := .handler 0x11 }],
                     iss := { Issue.none with len := 4, active := [0] } }

theorem sharedGid_clear : Clear sharedGid freshGroup (.yield { g := Guard.always }) := by
  refine ⟨_, rfl, ⟨rfl, by decide, by decide, by decide⟩, ?_⟩
  decide

theorem sharedGid_guard : GuardAll sharedGid freshGroup Guard.always := by
  unfold GuardAll
  decide

/-- Which groups idle in their handlers. -/
def State.idlePrivs (s : State) : List Bool := s.groups.map fun g => g.hold.idlePriv

theorem bare_idlePrivs (s : State) : s.bare.idlePrivs = s.idlePrivs := by
  simp only [State.idlePrivs, State.bare, List.map_map]
  refine List.map_congr_left fun g _ => ?_
  simp only [Function.comp_apply, Group.bare]
  split
  · split <;> rfl
  · rfl

/-- An instruction that advances changes threads alone, and so no hold. -/
theorem Advances.idlePrivs {u t : State} {o : Out State} (h : Advances u o) (e : o = .next t) : t.idlePrivs = u.idlePrivs := by
  obtain ⟨v, rfl, bare, -⟩ := h
  cases e
  rw [← bare_idlePrivs, bare, bare_idlePrivs]

/-- YIELD reads the mode of each group it idles. -/
theorem yield_result {s : State} {g : Group} {f : GForm} (h : Clear s g (.yield f)) (all : GuardAll s g f.g) :
    exec (.yield f) s = .next (s.updGroup g.gid fun h => { h with hold := { h.hold with
      idleTo := some (s.clock + 17), idlePriv := h.priv != .user,
      forced := h.hold.forced || (h.priv != .user && h.hold.idleTo.isSome && !h.hold.idlePriv) } }).advance :=
  Clear.perGroup_all h rfl all _

/-- Refutes O44 by its clause of YIELD: it gives every group of the issuer's number the issuer's own mode, where the model reads
that of each group. Of two groups of one number, the first in user code and the second in a handler, the second idles as a handler. -/
theorem not_exitAndIdle : ¬ Obligations.ExitAndIdle := by
  unfold Obligations.ExitAndIdle
  rintro ⟨-, nopYieldRegion⟩
  obtain ⟨-, yields, -⟩ := nopYieldRegion sharedGid freshGroup { g := Guard.always }
  have stated := (yields sharedGid_clear sharedGid_guard).idlePrivs (yield_result sharedGid_clear sharedGid_guard)
  exact absurd stated (by decide)

/-! ## A write of the device's own that waits for nothing -/

/-- A store past its write point, of group 0. -/
def storedEntry : SqEntry :=
  { id := 0, gid := 0, core := 0, lid := 0, bidx := 0, place := .mem 0x1000, path := 0, kind := .store [(0, 1)], sync := false,
    rel := false, scope := 0, grp := 0, vis := 1, heldBack := false, pc := 0, seq := 0, va := 0, bar := none }

/-- The group has counted an A-clock without progress. -/
def stalledGroup : Group := { freshGroup with stallCnt := 1 }

/-- A squashes word that the device has still to count up, a store to it of the group past its write point, and in the heap window,
which lies at the addresses of HBM, a vector table with an entry of class 0x11. -/
def lateBump : State :=
  { State.reset with groups := [stalledGroup], ctxs := Vector.replicate 64 { Ctx.reset with heaplim := 2 ^ 23 },
                     mem := [(0x11C, 1)], wp := [storedEntry], late := [.bump 0 0x1000] }

/-- A TRAP of lane 0. -/
def trapRaise : Raise := faultOf { State.reset with iss := { Issue.none with len := 4 } } 0x11 [0] []

theorem lateBump_vector : vectorEntry lateBump stalledGroup trapRaise.cls = .ok 0 0 := by decide +kernel

/-- The record of the fault goes behind the count, which performs the store first: progress of the group (R397). -/
theorem lateBump_stallCnt : ((raise lateBump 0 trapRaise).group? 0).map Group.stallCnt = some 0 := by decide +kernel

/-- Refutes O46 by its clause of a handler's entry: it keeps the stall counter, but the
record of the fault is written behind the device's own writes that wait, and one of those
performs a store of the group, which is progress (R397). -/
theorem not_trapsAndReturn : ¬ Obligations.TrapsAndReturn := by
  unfold Obligations.TrapsAndReturn
  rintro ⟨-, entry, -⟩
  obtain ⟨h, entered, -, -, -, -, stalls, -⟩ := entry lateBump stalledGroup trapRaise 0 0 rfl rfl rfl (by decide) (by decide)
    (by decide) rfl (by decide) (by decide) (by decide) (by decide) lateBump_vector
  have moved : h.stallCnt = 0 := by
    simpa [show (raise lateBump 0 trapRaise).group? 0 = some h from entered] using lateBump_stallCnt
  exact absurd (moved.symm.trans stalls) (by decide)

end Sys2Proof.Machine
end

section
/-!
SUPPORT. What performing writes, and the writes the device makes in its own name, leave alone; the emptying of a store queue.
-/

namespace Sys2Proof.Machine

/-! ## What writes leave -/

/-- A group whose stall counter is not looked at. -/
def Group.unstalled (g : Group) : Group := { g with stallCnt := 0 }

/-- A state without what performed writes, records and the device's own writes change: memory and what is kept beside it, the host
side, writes past their write points, errors met, the contexts' rings, and the groups' stall counters. -/
def State.unwritten (s : State) : State :=
  { s with mem := [], caseMem := [], poison := [], ver := [], stamps := [], imps := [], galfloor := [], wp := [], late := [],
           async := [], host := HostSide.reset, ctxs := Vector.replicate 64 Ctx.reset, groups := s.groups.map Group.unstalled }

theorem sq_of_unwritten {s t : State} (h : t.unwritten = s.unwritten) : t.sq = s.sq :=
  (congrArg State.sq h : t.unwritten.sq = s.unwritten.sq)

/-- A fold of changes that each keep what writes leave. -/
theorem foldl_unwritten {α : Type} {f : State → α → State} (hf : ∀ s x, (f s x).unwritten = s.unwritten) (l : List α)
    (s : State) : (l.foldl f s).unwritten = s.unwritten :=
  List.foldlRecOn l f (motive := fun u => u.unwritten = s.unwritten) rfl fun u hu x _ => (hf u x).trans hu

theorem l3Write_unwritten (s : State) (die : Nat) (by_ : Option Writer) (key : Nat) :
    (l3Write s die by_ key).unwritten = s.unwritten := by
  unfold l3Write
  split
  · dsimp only
    split <;> rfl
  · rfl

theorem dropVersions_unwritten (s : State) (lid : Nat) : (dropVersions s lid).unwritten = s.unwritten := by
  unfold dropVersions
  split <;> rfl

theorem putMem_unwritten (s : State) (tag : Option (Nat × Nat)) (key : Nat) (bs : List (Nat × Byte)) :
    (putMem s tag key bs).unwritten = s.unwritten := by
  unfold putMem
  split
  · rfl
  · exact dropVersions_unwritten _ _

theorem bumpStamp_unwritten (s : State) (key : Nat) : (bumpStamp s key).unwritten = s.unwritten := by
  unfold bumpStamp
  split <;> rfl

theorem dropGalleys_unwritten (s : State) (key : Nat) : (dropGalleys s key).unwritten = s.unwritten := by
  unfold dropGalleys
  dsimp only
  split <;> rfl

theorem writeHome_unwritten (s : State) (tag : Option (Nat × Nat)) (die : Nat) (by_ : Option Writer) (p : Place)
    (bs : List (Nat × Byte)) : (writeHome s tag die by_ p bs).unwritten = s.unwritten := by
  unfold writeHome
  split
  · rfl
  · cases p with
    | case k => rfl
    | mem k =>
      have written := (dropGalleys_unwritten (bumpStamp (putMem (l3Write s die by_ (redirect s k)) tag (redirect s k) bs)
        (redirect s k)) (redirect s k)).trans <| (bumpStamp_unwritten _ _).trans <| (putMem_unwritten _ _ _ _).trans <|
        l3Write_unwritten s die by_ (redirect s k)
      dsimp only
      split
      · rfl
      · split
        · exact written
        · exact written

theorem writeRun_unwritten (s : State) (tag : Option (Nat × Nat)) (die : Nat) (by_ : Option Writer) (p : Place)
    (bytes : List Byte) : (writeRun s tag die by_ p bytes).unwritten = s.unwritten := by
  cases p with
  | case k => rfl
  | mem k => exact foldl_unwritten (fun s (x : Nat × List (Nat × Byte)) => writeHome_unwritten s tag die by_ (.mem x.1) x.2) _ s

/-- A change of a group that leaves all but its stall counter. -/
theorem updGroup_unwritten (s : State) (n : Nat) {f : Group → Group} (h : ∀ g, (f g).unstalled = g.unstalled) :
    (s.updGroup n f).unwritten = s.unwritten := by
  have groups : (s.updGroup n f).groups.map Group.unstalled = s.groups.map Group.unstalled := by
    rw [State.updGroup, List.map_map]
    refine List.map_congr_left fun g _ => ?_
    rw [Function.comp_apply]
    split
    · exact h g
    · rfl
  simp only [State.unwritten, groups]
  rfl

theorem performEntry_unwritten (s : State) (e : SqEntry) : (performEntry s e).unwritten = s.unwritten := by
  unfold performEntry
  refine (updGroup_unwritten _ _ (f := fun g => { g with stallCnt := 0 }) fun _ => rfl).trans ?_
  split
  · rfl
  · exact writeHome_unwritten _ _ _ _ _ _
  · split
    · rfl
    · dsimp only
      split
      · exact writeHome_unwritten _ _ _ _ _ _
      · rfl

theorem performWhere_unwritten (s : State) (c : SqEntry → Bool) : (performWhere s c).unwritten = s.unwritten :=
  foldl_unwritten performEntry_unwritten _ s

theorem showWhere_unwritten (s : State) (scope : Nat) (c : SqEntry → Bool) : (showWhere s scope c).unwritten = s.unwritten := by
  unfold showWhere
  split
  · rfl
  · split
    · rfl
    · exact performWhere_unwritten s c

/-! ## The device's own writes -/

theorem sysWriteAt_unwritten (s : State) (pa : Nat) (bytes : List Byte) : (sysWriteAt s pa bytes).unwritten = s.unwritten :=
  writeRun_unwritten _ _ _ _ _ _

theorem traceNow_unwritten (s : State) (base n : Nat) (slots : List (List Byte)) :
    (traceNow s base n slots).unwritten = s.unwritten := by
  unfold traceNow
  split
  · exact sysWriteAt_unwritten _ _ _
  · exact (sysWriteAt_unwritten _ _ _).trans
      (foldl_unwritten (fun s (x : Nat × List Byte) => sysWriteAt_unwritten s x.1 x.2) _ s)

theorem askHost_unwritten (s : State) (p : Place) (n : Nat) (write : Bool) :
    (askHost s p n write).unwritten = s.unwritten := by
  cases p <;> rfl

theorem lateNow_unwritten (s : State) (x : Late) : (lateNow s x).unwritten = s.unwritten := by
  cases x with
  | write pa bytes => exact sysWriteAt_unwritten s pa bytes
  | trace base n slots => exact traceNow_unwritten s base n slots
  | bump die w => exact (writeHome_unwritten _ _ _ _ _ _).trans (performWhere_unwritten s _)
  | msix v => rfl
  | event b => rfl
  | resyncDone => rfl

theorem lateRun_unwritten (s : State) (l : List Late) : (lateRun s l).unwritten = s.unwritten := by
  induction l generalizing s with
  | nil => rfl
  | cons x xs ih =>
    unfold lateRun
    split
    · exact askHost_unwritten s _ _ _
    · exact (ih _).trans (lateNow_unwritten s x)

theorem lateDo_unwritten (s : State) (x : Late) : (lateDo s x).unwritten = s.unwritten := lateRun_unwritten s _

theorem traceWrite_unwritten (s : State) (ctx : Nat) (slots : List (List Byte)) :
    (traceWrite s ctx slots).unwritten = s.unwritten := by
  unfold traceWrite
  dsimp only
  split
  · rfl
  · exact lateDo_unwritten _ _

theorem postRecord_unwritten (s : State) (ctx x : Nat) : (postRecord s ctx x).unwritten = s.unwritten := by
  unfold postRecord
  dsimp only
  split
  · exact lateDo_unwritten _ _
  · exact (lateDo_unwritten _ _).trans (lateDo_unwritten s (.write _ _))

/-! ## Store queues (R146, R273) -/

theorem performHeld_unwritten (s : State) (gid : Nat) : (performHeld s gid).unwritten = s.unwritten := by
  unfold performHeld
  split
  · exact performWhere_unwritten _ _
  · rfl

theorem passEntry_unwritten (s : State) (e : SqEntry) : (passEntry s e).unwritten = s.unwritten := by
  have shown : (if e.rel then showWhere s e.scope.toNat fun f => f.shownOn e.gid e.core e.pathX else s).unwritten =
      s.unwritten := by
    split
    · exact showWhere_unwritten _ _ _
    · rfl
  unfold passEntry
  generalize (if e.rel then showWhere s e.scope.toNat fun f => f.shownOn e.gid e.core e.pathX else s) = u at shown
  have home : (performEntry (performWhere u fun f => f.overlaps e) e).unwritten = s.unwritten :=
    (performEntry_unwritten _ _).trans ((performWhere_unwritten _ _).trans shown)
  dsimp only
  split
  · exact home
  · split
    · exact home
    · split
      · exact shown
      · exact shown

/-- The oldest write of the group leaves the queue. -/
theorem passOldest_sq {s : State} {gid : Nat} {e : SqEntry} (h : s.sq.find? (fun e => e.gid == gid) = some e) :
    (passOldest s gid).sq = s.sq.filter fun f => f.id != e.id := by
  simp only [passOldest, h]
  exact sq_of_unwritten ((passEntry_unwritten _ _).trans (performHeld_unwritten _ _))

theorem passOldest_sq_none {s : State} {gid : Nat} (h : s.sq.find? (fun e => e.gid == gid) = none) :
    (passOldest s gid).sq = s.sq := by
  simp only [passOldest, h]
  exact sq_of_unwritten (performHeld_unwritten _ _)

theorem passMany_sq (gid : Nat) : ∀ (n : Nat) (s : State), (s.sq.filter fun e => e.gid == gid).length ≤ n →
    ∀ e ∈ (passMany s gid n).sq, e.gid ≠ gid
  | 0, s, short, e, he => by
    rw [show (passMany s gid 0).sq = s.sq from sq_of_unwritten (performHeld_unwritten s gid)] at he
    have other := List.filter_eq_nil_iff.mp (List.length_eq_zero_iff.mp (Nat.le_zero.mp short)) e he
    simpa using other
  | n + 1, s, short, e, he => by
    refine passMany_sq gid n (passOldest s gid) ?_ e he
    cases oldest : s.sq.find? fun e => e.gid == gid with
    | none =>
      have empty : (s.sq.filter fun e => e.gid == gid) = [] :=
        List.filter_eq_nil_iff.mpr fun f hf => List.find?_eq_none.mp oldest f hf
      simp [passOldest_sq_none oldest, empty]
    | some f =>
      have mine : f ∈ s.sq.filter fun e => e.gid == gid :=
        List.mem_filter.mpr ⟨List.mem_of_find?_eq_some oldest, (List.find?_eq_some_iff_append.mp oldest).1⟩
      have fewer : ((s.sq.filter fun e => e.gid == gid).filter fun e => e.id != f.id).length <
          (s.sq.filter fun e => e.gid == gid).length :=
        List.length_filter_lt_length_iff_exists.mpr ⟨f, mine, by simp⟩
      rw [passOldest_sq oldest]
      simp only [List.filter_filter, Bool.and_comm] at fewer ⊢
      omega

/-- R154: a flush empties the group's store queue. -/
theorem flush_sq (s : State) (gid core scope : Nat) (x : Bool) : ∀ e ∈ (flush s gid core scope x).sq, e.gid ≠ gid := by
  have shown : (flush s gid core scope x).sq = (drainQueue s gid).sq := sq_of_unwritten (showWhere_unwritten _ _ _)
  rw [shown]
  exact passMany_sq gid _ s (Nat.le_refl _)

end Sys2Proof.Machine
end

section
/-!
SUPPORT. Who is there: the groups, what the blocks still await, marks, batches and queued writes, which the settling of barriers
leaves; and the banks of a block that ends (R127, R159, R163).
-/

namespace Sys2Proof.Machine

/-! ## Who is there -/

/-- Queued writes, batches, marks, the numbers of the groups, and of each block the groups that have not ended. -/
def State.members (s : State) : List SqEntry × List Batch × List Mark × List Nat × List (Nat × List Nat) :=
  (s.sq, s.batches, s.marks, s.groups.map Group.gid, s.blocks.map fun b => (b.bid, b.left))

theorem members_of_unwritten {s t : State} (h : t.unwritten = s.unwritten) : t.members = s.members := by
  have forget : ∀ u : State, u.unwritten.members = u.members := fun u => by
    simp only [State.members, State.unwritten, List.map_map, Function.comp_def, Group.unstalled]
  rw [← forget, h, forget]

/-- A change of groups that leaves their numbers. -/
theorem mapGroups_members (s : State) {f : Group → Group} (h : ∀ g, (f g).gid = g.gid) :
    ({ s with groups := s.groups.map f } : State).members = s.members := by
  have gids : (s.groups.map f).map Group.gid = s.groups.map Group.gid := by
    rw [List.map_map]
    exact List.map_congr_left fun g _ => h g
  simp only [State.members, gids]

theorem updGroup_members (s : State) (n : Nat) {f : Group → Group} (h : ∀ g, (f g).gid = g.gid) :
    (s.updGroup n f).members = s.members :=
  mapGroups_members s fun g => by
    split
    · exact h g
    · rfl

theorem updLaunch_members (s : State) (l : Nat) (f : Launch → Launch) : (s.updLaunch l f).members = s.members := rfl

theorem updBar_members (s : State) (g : Group) (level num : Nat) (f : Bar → Bar) :
    (updBar s g level num f).members = s.members := by
  unfold updBar
  split
  · exact updGroup_members _ _ fun _ => rfl
  · have blocks : ∀ h : Block → Block, (∀ b, ((h b).bid, (h b).left) = (b.bid, b.left)) →
        (s.updBlock g.bid h).members = s.members := fun h keeps => by
      simp only [State.members, State.updBlock, List.map_map]
      congr 4
      refine List.map_congr_left fun b _ => ?_
      rw [Function.comp_apply]
      split
      · exact keeps b
      · rfl
    exact blocks _ fun _ => rfl
  · rfl
  · rfl

theorem showCounted_members (s : State) (g : Group) (w : BarWait) : (showCounted s g w).members = s.members := by
  unfold showCounted
  split
  · rfl
  · split
    · exact members_of_unwritten (performWhere_unwritten _ _)
    · rfl

/-- The BARS predicate of a wait that ends, in every lane that has not exited (R165). -/
def setBars (s : State) (g : Group) (w : BarWait) (h : Group) : Group :=
  if w.bars then h.mapLanes fun i x =>
    if x.st == .exited then x
    else x.setPred w.p ((barOf s g w.level.toNat w.num.toNat).last == some (memberOf s h w.level.toNat i))
  else h

/-- The group's wait ends: it has made progress, and its Quoin key counts the phase (R164, R344). -/
def passWait (w : BarWait) (h : Group) : Group :=
  { h with hold := { h.hold with bar := none }, stallCnt := 0, key := if h.priv == .user then h.key.passed w else h.key }

theorem endWait_eq (s : State) (g : Group) (w : BarWait) :
    endWait s g w = (showCounted s g w).updGroup g.gid fun h => passWait w (setBars s g w h) := rfl

theorem setBars_gid (s : State) (g : Group) (w : BarWait) (h : Group) : (setBars s g w h).gid = h.gid := by
  unfold setBars
  split
  · rw [Group.mapLanes]
  · rfl

theorem endWait_members (s : State) (g : Group) (w : BarWait) : (endWait s g w).members = s.members := by
  rw [endWait_eq]
  have keeps : ∀ h, (passWait w (setBars s g w h)).gid = h.gid := setBars_gid s g w
  exact (updGroup_members _ _ keeps).trans (showCounted_members s g w)

theorem foldl_members {α : Type} {f : State → α → State} (hf : ∀ s x, (f s x).members = s.members) (l : List α) (s : State) :
    (l.foldl f s).members = s.members :=
  List.foldlRecOn l f (motive := fun u => u.members = s.members) rfl fun u hu x _ => (hf u x).trans hu

theorem endWaits_members (s : State) (g : Group) (level num : Nat) : (endWaits s g level num).members = s.members := by
  refine foldl_members (fun s h => ?_) _ s
  split
  · split
    · exact endWait_members _ _ _
    · rfl
  · rfl

theorem settleBar_members (s : State) (g : Group) (level num : Nat) : (settleBar s g level num).members = s.members := by
  unfold settleBar
  dsimp only
  split
  · rfl
  · refine (endWaits_members _ _ _ _).trans ((mapGroups_members _ fun h => ?_).trans (updBar_members s g level num _))
    split <;> rfl

theorem settleBars_members (s : State) (g : Group) (level count : Nat) : (settleBars s g level count).members = s.members :=
  foldl_members (fun s n => settleBar_members s g level n) _ s

theorem releaseEnded_members (s : State) (core x : Nat) : (releaseEnded s core x).members = s.members := by
  unfold releaseEnded
  dsimp only
  split
  · rfl
  · split <;> rfl

/-! ## A group that ends (R127) -/

theorem groupOver_iff (g : Group) : groupOver g = true ↔
    (∀ l, l < 32 → (g.lane l).st = .exited ∧ (g.lane l).lent = false) ∧ g.fl.ldvs = [] ∧ g.priv = .user ∧ g.fl.pend = none ∧
      g.hold.stopped = false := by
  have all : (g.lanesWhere fun x => x.st == .exited && !x.lent).length = 32 ↔
      ∀ l, l < 32 → (g.lane l).st = .exited ∧ (g.lane l).lent = false := by
    have lanes := List.length_filter_eq_length_iff (l := List.range 32) (p := fun l => (g.lane l).st == .exited && !(g.lane l).lent)
    simpa [Group.lanesWhere, numbers] using lanes
  simp only [groupOver, Bool.and_eq_true, decide_eq_true_eq, all, List.isEmpty_iff, beq_iff_eq, Option.isNone_iff_eq_none,
    Bool.not_eq_true', and_assoc]

/-- A group ends with its writes performed; what is then done to contexts, barriers and the Quoin leaves who is there. -/
theorem execGroupEnd_next {s : State} {g : Group} {n : Nat} (hg : s.group? n = some g) (ended : groupOver g = true)
    (free : flushBlocked s n g.core (onBoth 3) = none) : ∃ t, execGroupEnd n s = .next t ∧
      t.members = (dropGroup (flush (flush s n g.core 3 false) n g.core 3 true) g).members := by
  refine ⟨_, by simp only [execGroupEnd, hg, Option.bind_some, ended, free, Bool.not_true, Bool.false_eq_true, if_false, event]; rfl, ?_⟩
  simp only [updLaunch_members, settleBars_members, releaseEnded_members]

theorem execGroupEnd_refused {s : State} {g : Group} {n : Nat} (hg : s.group? n = some g) (ended : ¬ groupOver g = true) :
    execGroupEnd n s = .refused (.notEnabled "GROUP_END") := by
  simp [execGroupEnd, event, hg, ended]

/-- A group that is dropped leaves its queue, its marks, its batches and its block. -/
theorem dropGroup_gone {s t : State} {g : Group} (h : t.members = (dropGroup s g).members)
    (queue : ∀ e ∈ s.sq, e.gid ≠ g.gid) : t.group? g.gid = none ∧ (∀ e ∈ t.sq, e.gid ≠ g.gid) ∧
      (∀ b ∈ t.blocks, b.bid = g.bid → g.grp ∉ b.left) ∧ (∀ m ∈ t.marks, m.gid ≠ g.gid) ∧ ∀ b ∈ t.batches, b.gid ≠ g.gid := by
  simp only [State.members, Prod.mk.injEq] at h
  obtain ⟨sq, batches, marks, gids, blocks⟩ := h
  refine ⟨List.find?_eq_none.mpr fun x hx => ?_, fun e he => queue e (sq ▸ he), fun b hb e => ?_, fun m hm => ?_,
    fun b hb => ?_⟩
  · obtain ⟨y, hy, e⟩ := List.mem_map.mp (gids ▸ List.mem_map_of_mem hx)
    have kept := (List.mem_filter.mp hy).2
    rw [← e]
    simpa using kept
  · obtain ⟨c, hc, e'⟩ := List.mem_map.mp (blocks ▸ List.mem_map_of_mem hb)
    obtain ⟨d, -, rfl⟩ := List.mem_map.mp hc
    simp only [Prod.mk.injEq] at e'
    obtain ⟨bid, left⟩ := e'
    rw [← left]
    split
    · simp
    next other =>
      rw [if_neg other, e] at bid
      simp [bid] at other
  · rw [marks] at hm
    simpa using (List.mem_filter.mp hm).2
  · rw [batches] at hb
    simpa using (List.mem_filter.mp hb).2

theorem groupEnd_effect {s : State} {g : Group} {n : Nat} (hg : s.group? n = some g) (ended : groupOver g = true)
    (free : flushBlocked s n g.core (onBoth 3) = none) : ∃ t, exec (.groupEnd n) s = .next t ∧ t.group? n = none ∧
      (∀ e ∈ t.sq, e.gid ≠ n) ∧ (∀ b ∈ t.blocks, b.bid = g.bid → g.grp ∉ b.left) ∧ (∀ m ∈ t.marks, m.gid ≠ n) ∧
      ∀ b ∈ t.batches, b.gid ≠ n := by
  obtain ⟨t, ht, members⟩ := execGroupEnd_next hg ended free
  obtain rfl : g.gid = n := by simpa using List.find?_some hg
  exact ⟨t, ht, dropGroup_gone members (flush_sq _ _ _ _ _)⟩

end Sys2Proof.Machine
end

section
/-!
SUPPORT. The banks of a block that ends, the lanes of a grid that ends, and the rotation of samples (R159, R270, R433).
-/

namespace Sys2Proof.Machine

/-! ## A block that ends (R159) -/

/-- A filter on keys keeps all of a key or nothing of it. -/
theorem cellGet_filterKey {n : Nat} (keep : Nat → Bool) (m : List (Nat × BitVec n)) (a : Nat) :
    cellGet (m.filter fun c => keep c.1) a = if keep a then cellGet m a else 0 := by
  induction m with
  | nil => simp [cellGet]
  | cons c r ih =>
    obtain ⟨k, b⟩ := c
    by_cases hk : keep k = true
    · simp only [List.filter_cons, hk, if_true, cellGet, ih]
      by_cases e : k = a
      · simp [e, e ▸ hk]
      · simp [e]
    · simp only [List.filter_cons, hk, if_false, cellGet, ih, Bool.false_eq_true]
      by_cases e : k = a
      · simp [e ▸ hk]
      · simp [e]

theorem cellGet_zeroBanks (clu a : Nat) (ns : List Nat) (s : State) :
    cellGet (ns.foldl (fun s n => zeroBank s clu n) s).caseMem a =
      if ∃ n ∈ ns, a / 65536 = clu * 64 + n then 0 else cellGet s.caseMem a := by
  induction ns generalizing s with
  | nil => simp
  | cons n r ih =>
    have one : cellGet (zeroBank s clu n).caseMem a = if a / 65536 = clu * 64 + n then 0 else cellGet s.caseMem a := by
      refine (cellGet_filterKey (fun k => k / 65536 != clu * 64 + n) s.caseMem a).trans ?_
      simp only [bne_iff_ne, ite_not]
    rw [List.foldl_cons, ih, one]
    by_cases here : a / 65536 = clu * 64 + n
    · simp [here]
    · simp [here]

/-- The banks of a cluster, once those of a list are free. -/
theorem bank_freed (clu k : Nat) (ns : List Nat) (s : State) :
    (ns.foldl (fun s n => s.updBank clu n fun _ => Bank.reset) s).bank clu k = if k ∈ ns then Bank.reset else s.bank clu k := by
  induction ns generalizing s with
  | nil => simp
  | cons n r ih =>
    have one : (s.updBank clu n fun _ => Bank.reset).bank clu k = if k = n then Bank.reset else s.bank clu k := by
      rw [State.bank, State.updBank, cluster_updCluster_same]
      by_cases e : k = n
      · rw [if_pos e, e, listGet_put_same]
      · rw [if_neg e, listGet_put_other _ _ _ e, State.bank]
    rw [List.foldl_cons, ih, one]
    by_cases e : k = n
    · simp [e]
    · simp [e]

theorem freeBanks_caseMem (s : State) (b : Block) : (freeBanks s b).caseMem = s.caseMem :=
  List.foldlRecOn b.banks _ (motive := fun u : State => u.caseMem = s.caseMem) rfl fun _ hu _ _ => hu

theorem caseKey_bank (clu k : Nat) {o : Nat} (h : o < 2 ^ 16) : caseKey clu k o / 65536 = clu * 64 + k := by
  unfold caseKey
  omega

theorem discardBanks_bank (s : State) (b : Block) {k : Nat} (h : k ∈ b.banks) :
    (discardBanks s b).bank (b.core / 4) k = Bank.reset :=
  (bank_freed (coreClu b.core) k b.banks _).trans (if_pos h)

theorem discardBanks_caseMem (s : State) (b : Block) {k o : Nat} (hk : k ∈ b.banks) (ho : o < 2 ^ 16) :
    cellGet (discardBanks s b).caseMem (caseKey (b.core / 4) k o) = 0 := by
  rw [discardBanks, freeBanks_caseMem, cellGet_zeroBanks]
  exact if_pos ⟨k, hk, caseKey_bank _ k ho⟩

theorem discardBanks_launches (s : State) (b : Block) : (discardBanks s b).launches = s.launches := by
  refine List.foldlRecOn b.banks _ (motive := fun u : State => u.launches = s.launches) ?_ fun _ hu _ _ => hu
  exact List.foldlRecOn b.banks _ (motive := fun u : State => u.launches = s.launches) rfl fun _ hu _ _ => hu

/-- The state in which a block has ended: its record in the trace buffer, its banks free, and it counted in its launch. -/
def blockEnded (s : State) (b : Block) (n : Nat) : State :=
  let u := discardBanks (if (s.ctx b.ctx).brec then traceWrite s b.ctx (blockRecord s b) else s) b
  (freeAreas { u with blocks := u.blocks.filter fun c => c.bid != n } [b]).updLaunch b.lid fun l => { l with done := l.done + 1 }

theorem execBlockEnd_next {s : State} {b : Block} {n : Nat} (hb : s.block? n = some b) (left : b.left = [])
    (quiet : blockBusy s b = false) (phase : b.phase = .resident ∨ b.phase = .draining ∨ b.phase = .gang) :
    execBlockEnd n s = .next (dropVersions (blockEnded s b n) b.lid) := by
  have ends : (!b.left.isEmpty || blockBusy s b || !(b.phase == .resident || b.phase == .draining || b.phase == .gang)) = false := by
    rw [left, quiet]
    rcases phase with p | p | p <;> simp [p]
  simp only [execBlockEnd, event, hb, Option.bind_some, ends]
  rfl

theorem blockEnded_launches (s : State) (b : Block) (n : Nat) : (blockEnded s b n).launches =
    (s.updLaunch b.lid fun l => { l with done := l.done + 1 }).launches := by
  have traced : (if (s.ctx b.ctx).brec then traceWrite s b.ctx (blockRecord s b) else s).launches = s.launches := by
    split
    · exact (congrArg State.launches (traceWrite_unwritten s _ _) : (State.unwritten _).launches = s.unwritten.launches)
    · rfl
  have kept := (discardBanks_launches (if (s.ctx b.ctx).brec then traceWrite s b.ctx (blockRecord s b) else s) b).trans traced
  exact congrArg (List.map _) kept

theorem blockEnd_effect {s : State} {b : Block} {n : Nat} (hb : s.block? n = some b) (left : b.left = [])
    (quiet : blockBusy s b = false) (phase : b.phase = .resident ∨ b.phase = .draining ∨ b.phase = .gang) :
    ∃ t, exec (.blockEnd n) s = .next t ∧ t.block? n = none ∧
      (∀ l, s.launch? b.lid = some l → t.launch? b.lid = some { l with done := l.done + 1 }) ∧
      ∀ k ∈ b.banks, t.bank (b.core / 4) k = Bank.reset ∧
        (k < 64 → ∀ o, o < 2 ^ 16 → cellGet t.caseMem (caseKey (b.core / 4) k o) = 0) := by
  obtain ⟨ver, versions⟩ : ∃ v, dropVersions (blockEnded s b n) b.lid = { blockEnded s b n with ver := v } := by
    unfold dropVersions
    split
    · exact ⟨_, rfl⟩
    · exact ⟨_, rfl⟩
  refine ⟨_, execBlockEnd_next hb left quiet phase, ?_, fun l hl => ?_, fun k hk => ⟨?_, fun _ o ho => ?_⟩⟩
  · rw [versions]
    exact List.find?_eq_none.mpr fun c hc => by simpa using (List.mem_filter.mp hc).2
  · rw [versions]
    show (blockEnded s b n).launches.find? _ = _
    rw [blockEnded_launches]
    refine (launch?_updLaunch s b.lid b.lid (fun l => { l with done := l.done + 1 }) fun _ => rfl).trans ?_
    rw [if_pos rfl, hl]
    rfl
  · rw [versions]
    exact discardBanks_bank _ b hk
  · rw [versions]
    exact discardBanks_caseMem _ b hk ho

/-! ## A grid that ends (R270) -/

theorem returnLanes_batches (s : State) (hs : List Helper) : (returnLanes s hs).batches = s.batches :=
  List.foldlRecOn hs _ (motive := fun u : State => u.batches = s.batches) rfl fun u hu h _ => by
    rw [← hu]
    split <;> rfl

theorem forceLig_batches (s : State) (gid stat : Nat) : (forceLig s gid stat).batches = s.batches := by
  unfold forceLig
  split
  · rfl
  · split
    · rfl
    · exact returnLanes_batches s _

theorem forceLenders_batches (s : State) (c : Nat → Bool) : (forceLenders s c).batches = s.batches :=
  List.foldlRecOn s.groups _ (motive := fun u : State => u.batches = s.batches) rfl fun u hu g _ => by
    rw [← hu]
    split
    · split
      · exact forceLig_batches u _ _
      · rfl
    · rfl

theorem freeAreas_batches (s : State) (bs : List Block) : (freeAreas s bs).batches = s.batches :=
  List.foldlRecOn bs _ (motive := fun u : State => u.batches = s.batches) rfl fun _ hu _ _ => hu

/-- Fewer batches name fewer lanes. -/
theorem batchLanes_mono {s t : State} (h : ∀ b ∈ t.batches, b ∈ s.batches) {gid k : Nat} (hk : k ∈ batchLanes t gid) :
    k ∈ batchLanes s gid := by
  obtain ⟨b, hb, hl⟩ := List.mem_flatMap.mp hk
  obtain ⟨mem, mine⟩ := List.mem_filter.mp hb
  exact List.mem_flatMap.mpr ⟨b, List.mem_filter.mpr ⟨h b mem, mine⟩, hl⟩

theorem endGroup_gid (keep : List Nat) (g : Group) : (endGroup keep g).gid = g.gid := by
  simp only [endGroup, Group.mapLanes]

theorem endGroup_exited {keep : List Nat} {k : Nat} (hk : k < 32) (out : k ∉ keep) (g : Group) :
    ((endGroup keep g).lane k).st = .exited := by
  simp [endGroup, Group.lane, Group.mapLanes, vget, hk, out]

/-- The lanes of a grid that ends exit, but those of batches that hold a token or the Quoin. -/
theorem endGrid_lanes (s : State) (lid : Nat) (how : LaunchEnd) : ∀ g ∈ (endGrid s lid how).groups, g.lid = lid →
    ∀ k, k < 32 → k ∈ batchLanes s g.gid ∨ (g.lane k).st = .exited := by
  obtain ⟨u, groups, batches⟩ : ∃ u : State, (endGrid s lid how).groups =
      u.groups.map (fun g => if g.lid == lid then endGroup (batchLanes u g.gid) g else g) ∧ ∀ b ∈ u.batches, b ∈ s.batches := by
    refine ⟨_, rfl, fun b hb => ?_⟩
    rw [freeAreas_batches] at hb
    replace hb : b ∈ (forceLenders _ _).batches := hb
    rw [forceLenders_batches] at hb
    have forced : ∀ (gs : List Nat) (v : State), (gs.foldl (fun s g => forceLig s g 0) v).batches = v.batches := fun gs v =>
      List.foldlRecOn gs _ (motive := fun u : State => u.batches = v.batches) rfl fun w hw g _ => (forceLig_batches w g 0).trans hw
    rw [forced] at hb
    exact List.foldlRecOn _ settleBatches (motive := fun u : State => ∀ b ∈ u.batches, b ∈ s.batches) (fun _ h => h)
      (fun _ hu _ _ b hb => hu b (List.mem_filter.mp hb).1) b hb
  intro g hg mine k hk
  rw [groups] at hg
  obtain ⟨h, -, rfl⟩ := List.mem_map.mp hg
  by_cases own : h.lid = lid
  · rw [if_pos (by simpa using own), endGroup_gid]
    by_cases kept : k ∈ batchLanes u h.gid
    · exact .inl (batchLanes_mono batches kept)
    · exact .inr (endGroup_exited hk kept h)
  · rw [if_neg (by simpa using own)] at mine
    exact absurd mine own

theorem gridEnd_effect {s : State} {l : Nat} {site : AsyncSite} {x : Launch} (met : ∃ w ∈ s.async, w.lid = l ∧ w.site = site)
    (hx : s.launch? l = some x) : ∃ t y, exec (.gridEnd l site) s = .next t ∧ t.launch? l = some y ∧ y.how.isSome = true ∧
      ∀ g ∈ t.groups, g.lid = l → ∀ k, k < 32 → k ∈ batchLanes s g.gid ∨ (g.lane k).st = .exited := by
  have found : (s.async.find? fun w => w.lid == l && w.site == site).isSome = true := by
    simpa [List.find?_isSome] using met
  obtain ⟨w, hw⟩ := Option.isSome_iff_exists.mp found
  obtain ⟨rfl, -⟩ : w.lid = l ∧ w.site = site := by simpa using List.find?_some hw
  let u : State := { s with async := s.async.erase w }
  have ended := endBySite_endOf (s := u) (w := w) hx
  obtain ⟨y, hy, how⟩ := Option.map_eq_some_iff.mp ended
  refine ⟨endBySite u w, y, ?_, hy, ?_, ?_⟩
  · simp only [exec_gridEnd, execGridEnd, event, hw, Option.map_some]
    rfl
  · rw [how]
    cases x.how <;> rfl
  · have posted : endBySite u w = endGrid (postRecord u x.ctx (siteRecord w.site true)) w.lid
        (.fault 0x12 (siteRecord w.site true)) := by
      simp only [endBySite, show u.launch? w.lid = some x from hx]
    have batches : (postRecord u x.ctx (siteRecord w.site true)).batches = s.batches :=
      (congrArg State.batches (postRecord_unwritten u _ _) : (State.unwritten _).batches = u.unwritten.batches)
    rw [posted]
    intro g hg mine k hk
    exact (endGrid_lanes _ _ _ g hg mine k hk).imp_left (batchLanes_mono (by simp [batches]))

/-! ## Samples (R433) -/

theorem leastBy_mem (key : Nat → Nat) : ∀ {l : List Nat} {k : Nat}, leastBy key l = some k → k ∈ l
  | x :: xs, k, h => by
    unfold leastBy at h
    split at h
    · cases h
      exact List.mem_cons_self
    next y hy =>
      split at h
      · cases h
        exact List.mem_cons_of_mem _ (leastBy_mem key hy)
      · cases h
        exact List.mem_cons_self

theorem leastBy_isSome (key : Nat → Nat) {l : List Nat} (h : l ≠ []) : ∃ k, leastBy key l = some k := by
  cases l with
  | nil => exact absurd rfl h
  | cons x xs =>
    unfold leastBy
    split
    · exact ⟨_, rfl⟩
    · split
      · exact ⟨_, rfl⟩
      · exact ⟨_, rfl⟩

/-- A context with a group on a core has a group to sample there. -/
theorem nextSample_some {s : State} {core ctx : Nat} (h : ∃ g ∈ s.groups, g.core = core ∧ g.ctx = ctx) :
    ∃ g, nextSample s core ctx = some g ∧ g ∈ s.groups ∧ g.core = core ∧ g.ctx = ctx := by
  obtain ⟨g, hg, hc, hx⟩ := h
  have mine : g ∈ s.groups.filter fun g => g.core == core && g.ctx == ctx := List.mem_filter.mpr ⟨hg, by simp [hc, hx]⟩
  obtain ⟨k, hk⟩ := leastBy_isSome (fun k => (k + 192 - listGet 0 (s.coreRegs core).rot ctx % 192) % 192)
    (List.ne_nil_of_mem (List.mem_map_of_mem (f := Group.slot) mine))
  obtain ⟨h, hh, slot⟩ := List.mem_map.mp (leastBy_mem _ hk)
  have found : ((s.groups.filter fun g => g.core == core && g.ctx == ctx).find? fun g => g.slot == k).isSome = true :=
    List.find?_isSome.mpr ⟨h, hh, by simp [slot]⟩
  obtain ⟨y, hy⟩ := Option.isSome_iff_exists.mp found
  obtain ⟨mem, stands⟩ := List.mem_filter.mp (List.mem_of_find?_eq_some hy)
  simp only [Bool.and_eq_true, beq_iff_eq] at stands
  refine ⟨y, ?_, mem, stands⟩
  simp only [nextSample, hk, Option.bind_some, hy]

/-- The rotation of a context on a core past a group that is sampled. -/
def rotated (s : State) (core ctx : Nat) (g : Group) : State :=
  s.updCore core fun r => { r with
    rot := listPut r.rot ctx ((g.slot + 1) % 192), sampled := r.sampled.filter (fun p => p.1 != ctx) ++ [(ctx, s.clock)] }

theorem execTraceSample_next {s : State} {core ctx : Nat} {g : Group} (on : (s.ctx ctx).sample = true)
    (room : (s.ctx ctx).trSize ≠ 0) (due : s.clock % 2 ^ (s.ctx ctx).sper = 0) (new : (ctx, s.clock) ∉ (s.coreRegs core).sampled)
    (hg : nextSample s core ctx = some g) : execTraceSample core ctx s = .next (if g.priv == .user then
      traceWrite (rotated s core ctx g) ctx [sampleRecord (rotated s core ctx g) g] else rotated s core ctx g) := by
  have fires : (!(s.ctx ctx).sample || decide ((s.ctx ctx).trSize = 0) || s.clock % 2 ^ (s.ctx ctx).sper != 0 ||
      (s.coreRegs core).sampled.contains (ctx, s.clock)) = false := by
    simp [on, room, due, new]
  simp only [execTraceSample, event, fires, hg, Option.map_some]
  rfl

theorem traceSample_effect {s : State} {core ctx : Nat} (on : (s.ctx ctx).sample = true) (room : (s.ctx ctx).trSize ≠ 0)
    (due : s.clock % 2 ^ (s.ctx ctx).sper = 0) (new : (ctx, s.clock) ∉ (s.coreRegs core).sampled)
    (resident : ∃ g ∈ s.groups, g.core = core ∧ g.ctx = ctx) :
    ∃ t g, exec (.traceSample core ctx) s = .next t ∧ g ∈ s.groups ∧ g.core = core ∧ g.ctx = ctx ∧
      listGet 0 (t.coreRegs core).rot ctx = (g.slot + 1) % 192 ∧ (ctx, s.clock) ∈ (t.coreRegs core).sampled := by
  obtain ⟨g, hg, mem, hc, hx⟩ := nextSample_some resident
  refine ⟨_, g, execTraceSample_next on room due new hg, mem, hc, hx, ?_⟩
  have cores : (if g.priv == .user then traceWrite (rotated s core ctx g) ctx [sampleRecord (rotated s core ctx g) g]
      else rotated s core ctx g).cores = (rotated s core ctx g).cores := by
    split
    · exact (congrArg State.cores (traceWrite_unwritten _ _ _) : (State.unwritten _).cores = (State.unwritten _).cores)
    · rfl
  rw [State.coreRegs, cores]
  show listGet 0 ((rotated s core ctx g).coreRegs core).rot ctx = _ ∧ _ ∈ ((rotated s core ctx g).coreRegs core).sampled
  rw [rotated, coreRegs_updCore_same]
  exact ⟨listGet_put_same _ _ _ _, List.mem_append_right _ (List.mem_singleton_self _)⟩

/-- Settles O20, clause by clause: what each event answers, and that performing writes, settling barriers and posting records keep
what the clause states. -/
theorem groupsEnd : Obligations.GroupsEnd := by
  unfold Obligations.GroupsEnd
  refine ⟨fun s g n hg => ⟨fun lanes ldvs user pend runs free => ?_, fun l hl alive => ?_⟩,
    fun s b n hb left quiet phase => blockEnd_effect hb left quiet phase, fun s l site x met hx => gridEnd_effect met hx,
    fun s core ctx on room due new resident => traceSample_effect on room due new resident⟩
  · exact groupEnd_effect hg ((groupOver_iff g).mpr ⟨lanes, ldvs, user, pend, runs⟩) free
  · refine execGroupEnd_refused hg fun ended => ?_
    obtain ⟨gone, -⟩ := (groupOver_iff g).mp ended
    exact alive (gone l hl).1

end Sys2Proof.Machine
end
